-- ==== Sys2Proof/Word.lean ====
section
/-! DEFINITION. The machine's words (R4, R5, R83) and their plainest arithmetic. -/

namespace Sys2Proof

/-- A byte. -/
abbrev Byte := BitVec 8
/-- A 32-bit word: an instruction, a scalar or one lane of a vector register (R86). -/
abbrev Word := BitVec 32
/-- A 64-bit value: a register pair, a mask or a memory word (R5, R6). -/
abbrev Word64 := BitVec 64
/-- A 52-bit virtual address (R159). -/
abbrev VAddr := BitVec 52
/-- A stamp: COUNT in [63:2], TOWER in [1:0]; compared unsigned (R212). -/
abbrev Stamp := BitVec 64
/-- A mask with one bit per lane (R6). -/
abbrev Mask := BitVec 64
/-- A scalar register number (R84). -/
abbrev SReg := BitVec 6
/-- A vector register number (R84). -/
abbrev VReg := BitVec 7
/-- A mask register number (R84). -/
abbrev MReg := BitVec 3
/-- A tile slot number (R84). -/
abbrev ZReg := BitVec 4
/-- A palette number (R90). -/
abbrev PalReg := BitVec 3
/-- A control register number (R88). -/
abbrev CReg := BitVec 6

end Sys2Proof
end

