-- ==== Sys2Proof/Syntax.lean ====
section
/-! DEFINITION. The instruction syntax: one constructor of `Instr` for every row of spec/opcode_table.json.
The first 196 constructors are the encoded words of R83 to R117; the others are the device's events, which have no
encoding (spec/95_what_each_step_holds.md): their arguments name the unit that acts and what the outside world supplies. -/

namespace Sys2Proof

/-- Branch conditions (R105, R298). -/
inductive BrCond where
  | always | scc | nscc | any | none | all | execz | execnz
  deriving DecidableEq, Repr, Inhabited

/-- The code of each value in its field. -/
def BrCond.code : BrCond → BitVec 4
  | .always => 0
  | .scc => 1
  | .nscc => 2
  | .any => 3
  | .none => 4
  | .all => 5
  | .execz => 6
  | .execnz => 7

/-- The value a field code names; none where the code is reserved. -/
def BrCond.ofCode (c : BitVec 4) : Option BrCond :=
  match c.toNat with
  | 0 => some .always
  | 1 => some .scc
  | 2 => some .nscc
  | 3 => some .any
  | 4 => some .none
  | 5 => some .all
  | 6 => some .execz
  | 7 => some .execnz
  | _ => Option.none

/-- Conditions of SCMP and of the integer VCMP (R106, R108). -/
inductive Cond where
  | eq | ne | lt | le | gt | ge | ult | ule | ugt | uge
  deriving DecidableEq, Repr, Inhabited

/-- The code of each value in its field. -/
def Cond.code : Cond → BitVec 4
  | .eq => 0
  | .ne => 1
  | .lt => 2
  | .le => 3
  | .gt => 4
  | .ge => 5
  | .ult => 6
  | .ule => 7
  | .ugt => 8
  | .uge => 9

/-- The value a field code names; none where the code is reserved. -/
def Cond.ofCode (c : BitVec 4) : Option Cond :=
  match c.toNat with
  | 0 => some .eq
  | 1 => some .ne
  | 2 => some .lt
  | 3 => some .le
  | 4 => some .gt
  | 5 => some .ge
  | 6 => some .ult
  | 7 => some .ule
  | 8 => some .ugt
  | 9 => some .uge
  | _ => none

/-- Conditions of VCMP (R108). -/
inductive VCond where
  | eq | ne | lt | le | gt | ge | ult | ule | ugt | uge | ord | unord
  deriving DecidableEq, Repr, Inhabited

/-- The code of each value in its field. -/
def VCond.code : VCond → BitVec 4
  | .eq => 0
  | .ne => 1
  | .lt => 2
  | .le => 3
  | .gt => 4
  | .ge => 5
  | .ult => 6
  | .ule => 7
  | .ugt => 8
  | .uge => 9
  | .ord => 10
  | .unord => 11

/-- The value a field code names; none where the code is reserved. -/
def VCond.ofCode (c : BitVec 4) : Option VCond :=
  match c.toNat with
  | 0 => some .eq
  | 1 => some .ne
  | 2 => some .lt
  | 3 => some .le
  | 4 => some .gt
  | 5 => some .ge
  | 6 => some .ult
  | 7 => some .ule
  | 8 => some .ugt
  | 9 => some .uge
  | 10 => some .ord
  | 11 => some .unord
  | _ => none

/-- Operand types of VCMP (R108). -/
inductive VType where
  | i32 | f32 | f64 | f16 | bf16 | i64
  deriving DecidableEq, Repr, Inhabited

/-- The code of each value in its field. -/
def VType.code : VType → BitVec 4
  | .i32 => 0
  | .f32 => 2
  | .f64 => 3
  | .f16 => 4
  | .bf16 => 5
  | .i64 => 6

/-- The value a field code names; none where the code is reserved. -/
def VType.ofCode (c : BitVec 4) : Option VType :=
  match c.toNat with
  | 0 => some .i32
  | 2 => some .f32
  | 3 => some .f64
  | 4 => some .f16
  | 5 => some .bf16
  | 6 => some .i64
  | _ => none

/-- The floating-point vector majors 0x15 to 0x18 by their bits [28:25] (R366). -/
inductive FMaj where
  | f32 | f64 | h2 | b2
  deriving DecidableEq, Repr, Inhabited

/-- The code of each value in its field. -/
def FMaj.code : FMaj → BitVec 4
  | .f32 => 5
  | .f64 => 6
  | .h2 => 7
  | .b2 => 8

/-- The value a field code names; none where the code is reserved. -/
def FMaj.ofCode (c : BitVec 4) : Option FMaj :=
  match c.toNat with
  | 5 => some .f32
  | 6 => some .f64
  | 7 => some .h2
  | 8 => some .b2
  | _ => none

/-- Types of the VFS forms (R367). -/
inductive FType where
  | f32 | f64 | h2 | b2
  deriving DecidableEq, Repr, Inhabited

/-- The code of each value in its field. -/
def FType.code : FType → BitVec 2
  | .f32 => 0
  | .f64 => 1
  | .h2 => 2
  | .b2 => 3

/-- The value a field code names; none where the code is reserved. -/
def FType.ofCode (c : BitVec 2) : Option FType :=
  match c.toNat with
  | 0 => some .f32
  | 1 => some .f64
  | 2 => some .h2
  | 3 => some .b2
  | _ => none

/-- Types of the special-function forms (R110). -/
inductive SfuType where
  | f32 | f64 | h2
  deriving DecidableEq, Repr, Inhabited

/-- The code of each value in its field. -/
def SfuType.code : SfuType → BitVec 2
  | .f32 => 0
  | .f64 => 1
  | .h2 => 2

/-- The value a field code names; none where the code is reserved. -/
def SfuType.ofCode (c : BitVec 2) : Option SfuType :=
  match c.toNat with
  | 0 => some .f32
  | 1 => some .f64
  | 2 => some .h2
  | _ => none

/-- Element types of VCVT (R110). -/
inductive CvtType where
  | i32 | ui32 | i64 | ui64 | f32 | f64 | f16 | bf16 | e4m3 | e5m2 | i16 | ui16 | i8 | ui8
  deriving DecidableEq, Repr, Inhabited

/-- The code of each value in its field. -/
def CvtType.code : CvtType → BitVec 4
  | .i32 => 0
  | .ui32 => 1
  | .i64 => 2
  | .ui64 => 3
  | .f32 => 4
  | .f64 => 5
  | .f16 => 6
  | .bf16 => 7
  | .e4m3 => 8
  | .e5m2 => 9
  | .i16 => 10
  | .ui16 => 11
  | .i8 => 12
  | .ui8 => 13

/-- The value a field code names; none where the code is reserved. -/
def CvtType.ofCode (c : BitVec 4) : Option CvtType :=
  match c.toNat with
  | 0 => some .i32
  | 1 => some .ui32
  | 2 => some .i64
  | 3 => some .ui64
  | 4 => some .f32
  | 5 => some .f64
  | 6 => some .f16
  | 7 => some .bf16
  | 8 => some .e4m3
  | 9 => some .e5m2
  | 10 => some .i16
  | 11 => some .ui16
  | 12 => some .i8
  | 13 => some .ui8
  | _ => none

/-- The rnd field of VCVT (R110). -/
inductive CvtRnd where
  | dyn | rne | rtz | rna
  deriving DecidableEq, Repr, Inhabited

/-- The code of each value in its field. -/
def CvtRnd.code : CvtRnd → BitVec 2
  | .dyn => 0
  | .rne => 1
  | .rtz => 2
  | .rna => 3

/-- The value a field code names; none where the code is reserved. -/
def CvtRnd.ofCode (c : BitVec 2) : Option CvtRnd :=
  match c.toNat with
  | 0 => some .dyn
  | 1 => some .rne
  | 2 => some .rtz
  | 3 => some .rna
  | _ => none

/-- Block types of BLK4 (R138). -/
inductive BlkType where
  | uni | e2m1 | pow2 | hyb
  deriving DecidableEq, Repr, Inhabited

/-- The code of each value in its field. -/
def BlkType.code : BlkType → BitVec 2
  | .uni => 0
  | .e2m1 => 1
  | .pow2 => 2
  | .hyb => 3

/-- The value a field code names; none where the code is reserved. -/
def BlkType.ofCode (c : BitVec 2) : Option BlkType :=
  match c.toNat with
  | 0 => some .uni
  | 1 => some .e2m1
  | 2 => some .pow2
  | 3 => some .hyb
  | _ => none

/-- Sub-operations of VRED and VSCAN (R362). -/
inductive RedOp where
  | addI32 | minI32 | maxI32 | addF32 | minF32 | maxF32 | and | or
  deriving DecidableEq, Repr, Inhabited

/-- The code of each value in its field. -/
def RedOp.code : RedOp → BitVec 3
  | .addI32 => 0
  | .minI32 => 1
  | .maxI32 => 2
  | .addF32 => 3
  | .minF32 => 4
  | .maxF32 => 5
  | .and => 6
  | .or => 7

/-- The value a field code names; none where the code is reserved. -/
def RedOp.ofCode (c : BitVec 3) : Option RedOp :=
  match c.toNat with
  | 0 => some .addI32
  | 1 => some .minI32
  | 2 => some .maxI32
  | 3 => some .addF32
  | 4 => some .minF32
  | 5 => some .maxF32
  | 6 => some .and
  | 7 => some .or
  | _ => none

/-- Access sizes of the M format (R112). -/
inductive MSize where
  | b8 | b16 | b32 | b64 | b128 | s8 | s16
  deriving DecidableEq, Repr, Inhabited

/-- The code of each value in its field. -/
def MSize.code : MSize → BitVec 3
  | .b8 => 0
  | .b16 => 1
  | .b32 => 2
  | .b64 => 3
  | .b128 => 4
  | .s8 => 5
  | .s16 => 6

/-- The value a field code names; none where the code is reserved. -/
def MSize.ofCode (c : BitVec 3) : Option MSize :=
  match c.toNat with
  | 0 => some .b8
  | 1 => some .b16
  | 2 => some .b32
  | 3 => some .b64
  | 4 => some .b128
  | 5 => some .s8
  | 6 => some .s16
  | _ => none

/-- Cache codes of the M format (R112). -/
inductive Cache where
  | dflt | cb | ef | el
  deriving DecidableEq, Repr, Inhabited

/-- The code of each value in its field. -/
def Cache.code : Cache → BitVec 2
  | .dflt => 0
  | .cb => 1
  | .ef => 2
  | .el => 3

/-- The value a field code names; none where the code is reserved. -/
def Cache.ofCode (c : BitVec 2) : Option Cache :=
  match c.toNat with
  | 0 => some .dflt
  | 1 => some .cb
  | 2 => some .ef
  | 3 => some .el
  | _ => none

/-- Sizes of LR, SC, SLD and SST (R113, R343). -/
inductive WSize where
  | b32 | b64
  deriving DecidableEq, Repr, Inhabited

/-- The code of each value in its field. -/
def WSize.code : WSize → BitVec 1
  | .b32 => 0
  | .b64 => 1

/-- The value a field code names; none where the code is reserved. -/
def WSize.ofCode (c : BitVec 1) : Option WSize :=
  match c.toNat with
  | 0 => some .b32
  | 1 => some .b64
  | _ => none

/-- PREF levels (R330). -/
inductive PrefLevel where
  | l1 | hc
  deriving DecidableEq, Repr, Inhabited

/-- The code of each value in its field. -/
def PrefLevel.code : PrefLevel → BitVec 1
  | .l1 => 0
  | .hc => 1

/-- The value a field code names; none where the code is reserved. -/
def PrefLevel.ofCode (c : BitVec 1) : Option PrefLevel :=
  match c.toNat with
  | 0 => some .l1
  | 1 => some .hc
  | _ => none

/-- PREF classes (R330). -/
inductive PrefClass where
  | dflt | ef | el
  deriving DecidableEq, Repr, Inhabited

/-- The code of each value in its field. -/
def PrefClass.code : PrefClass → BitVec 2
  | .dflt => 0
  | .ef => 2
  | .el => 3

/-- The value a field code names; none where the code is reserved. -/
def PrefClass.ofCode (c : BitVec 2) : Option PrefClass :=
  match c.toNat with
  | 0 => some .dflt
  | 2 => some .ef
  | 3 => some .el
  | _ => none

/-- Operations of ATOM and ATOMS (R294). -/
inductive AtomOp where
  | add | min | max | umin | umax | and | or | xor | swap | cas | fadd32 | fmin32 | fmax32 | add64 | swap64 | cas64 | fadd64
  deriving DecidableEq, Repr, Inhabited

/-- The code of each value in its field. -/
def AtomOp.code : AtomOp → BitVec 5
  | .add => 0
  | .min => 1
  | .max => 2
  | .umin => 3
  | .umax => 4
  | .and => 5
  | .or => 6
  | .xor => 7
  | .swap => 8
  | .cas => 9
  | .fadd32 => 10
  | .fmin32 => 11
  | .fmax32 => 12
  | .add64 => 13
  | .swap64 => 14
  | .cas64 => 15
  | .fadd64 => 16

/-- The value a field code names; none where the code is reserved. -/
def AtomOp.ofCode (c : BitVec 5) : Option AtomOp :=
  match c.toNat with
  | 0 => some .add
  | 1 => some .min
  | 2 => some .max
  | 3 => some .umin
  | 4 => some .umax
  | 5 => some .and
  | 6 => some .or
  | 7 => some .xor
  | 8 => some .swap
  | 9 => some .cas
  | 10 => some .fadd32
  | 11 => some .fmin32
  | 12 => some .fmax32
  | 13 => some .add64
  | 14 => some .swap64
  | 15 => some .cas64
  | 16 => some .fadd64
  | _ => none

/-- Conditions of WAITA (R370). -/
inductive WCond where
  | eq | ne | uge | ult
  deriving DecidableEq, Repr, Inhabited

/-- The code of each value in its field. -/
def WCond.code : WCond → BitVec 2
  | .eq => 0
  | .ne => 1
  | .uge => 2
  | .ult => 3

/-- The value a field code names; none where the code is reserved. -/
def WCond.ofCode (c : BitVec 2) : Option WCond :=
  match c.toNat with
  | 0 => some .eq
  | 1 => some .ne
  | 2 => some .uge
  | 3 => some .ult
  | _ => none

/-- Address space of WAITA (R370). -/
inductive Space where
  | scratch | global
  deriving DecidableEq, Repr, Inhabited

/-- The code of each value in its field. -/
def Space.code : Space → BitVec 1
  | .scratch => 0
  | .global => 1

/-- The value a field code names; none where the code is reserved. -/
def Space.ofCode (c : BitVec 1) : Option Space :=
  match c.toNat with
  | 0 => some .scratch
  | 1 => some .global
  | _ => none

/-- Engine counter classes (R87, R191). -/
inductive EClass where
  | c | m | k | d
  deriving DecidableEq, Repr, Inhabited

/-- The code of each value in its field. -/
def EClass.code : EClass → BitVec 2
  | .c => 0
  | .m => 1
  | .k => 2
  | .d => 3

/-- The value a field code names; none where the code is reserved. -/
def EClass.ofCode (c : BitVec 2) : Option EClass :=
  match c.toNat with
  | 0 => some .c
  | 1 => some .m
  | 2 => some .k
  | 3 => some .d
  | _ => none

/-- Matrix element types (R115). -/
inductive MType where
  | f64 | f32 | f16 | bf16 | e4m3 | e5m2 | i8 | blk4
  deriving DecidableEq, Repr, Inhabited

/-- The code of each value in its field. -/
def MType.code : MType → BitVec 4
  | .f64 => 0
  | .f32 => 1
  | .f16 => 2
  | .bf16 => 3
  | .e4m3 => 4
  | .e5m2 => 5
  | .i8 => 6
  | .blk4 => 7

/-- The value a field code names; none where the code is reserved. -/
def MType.ofCode (c : BitVec 4) : Option MType :=
  match c.toNat with
  | 0 => some .f64
  | 1 => some .f32
  | 2 => some .f16
  | 3 => some .bf16
  | 4 => some .e4m3
  | 5 => some .e5m2
  | 6 => some .i8
  | 7 => some .blk4
  | _ => none

/-- Row codes of the MMA shape (R115). -/
inductive MRows where
  | m8 | m16 | m32
  deriving DecidableEq, Repr, Inhabited

/-- The code of each value in its field. -/
def MRows.code : MRows → BitVec 2
  | .m8 => 0
  | .m16 => 1
  | .m32 => 2

/-- The value a field code names; none where the code is reserved. -/
def MRows.ofCode (c : BitVec 2) : Option MRows :=
  match c.toNat with
  | 0 => some .m8
  | 1 => some .m16
  | 2 => some .m32
  | _ => none

/-- K codes of the matrix shape (R115). -/
inductive KCode where
  | k1 | k2 | k4 | k8
  deriving DecidableEq, Repr, Inhabited

/-- The code of each value in its field. -/
def KCode.code : KCode → BitVec 3
  | .k1 => 0
  | .k2 => 1
  | .k4 => 2
  | .k8 => 3

/-- The value a field code names; none where the code is reserved. -/
def KCode.ofCode (c : BitVec 3) : Option KCode :=
  match c.toNat with
  | 0 => some .k1
  | 1 => some .k2
  | 2 => some .k4
  | 3 => some .k8
  | _ => none

/-- Weight types of RMMA (R115). -/
inductive WType where
  | f32 | f16 | bf16 | e4m3 | e5m2
  deriving DecidableEq, Repr, Inhabited

/-- The code of each value in its field. -/
def WType.code : WType → BitVec 4
  | .f32 => 1
  | .f16 => 2
  | .bf16 => 3
  | .e4m3 => 4
  | .e5m2 => 5

/-- The value a field code names; none where the code is reserved. -/
def WType.ofCode (c : BitVec 4) : Option WType :=
  match c.toNat with
  | 1 => some .f32
  | 2 => some .f16
  | 3 => some .bf16
  | 4 => some .e4m3
  | 5 => some .e5m2
  | _ => none

/-- Register counts of RANK (R117). -/
inductive NReg where
  | n1 | n2 | n4 | n8
  deriving DecidableEq, Repr, Inhabited

/-- The code of each value in its field. -/
def NReg.code : NReg → BitVec 2
  | .n1 => 0
  | .n2 => 1
  | .n4 => 2
  | .n8 => 3

/-- The value a field code names; none where the code is reserved. -/
def NReg.ofCode (c : BitVec 2) : Option NReg :=
  match c.toNat with
  | 0 => some .n1
  | 1 => some .n2
  | 2 => some .n4
  | 3 => some .n8
  | _ => none

/-- Element types of RANK (R258). -/
inductive RType where
  | f32 | f16 | bf16 | i32
  deriving DecidableEq, Repr, Inhabited

/-- The code of each value in its field. -/
def RType.code : RType → BitVec 2
  | .f32 => 0
  | .f16 => 1
  | .bf16 => 2
  | .i32 => 3

/-- The value a field code names; none where the code is reserved. -/
def RType.ofCode (c : BitVec 2) : Option RType :=
  match c.toNat with
  | 0 => some .f32
  | 1 => some .f16
  | 2 => some .bf16
  | 3 => some .i32
  | _ => none

/-- Destination types of RKREC (R268). -/
inductive PType where
  | f32 | f16 | bf16
  deriving DecidableEq, Repr, Inhabited

/-- The code of each value in its field. -/
def PType.code : PType → BitVec 2
  | .f32 => 0
  | .f16 => 1
  | .bf16 => 2

/-- The value a field code names; none where the code is reserved. -/
def PType.ofCode (c : BitVec 2) : Option PType :=
  match c.toNat with
  | 0 => some .f32
  | 1 => some .f16
  | 2 => some .bf16
  | _ => none

/-- Scopes (R179). -/
inductive Scope where
  | wv | bk | tw | dv | sy
  deriving DecidableEq, Repr, Inhabited

/-- The code of each value in its field. -/
def Scope.code : Scope → BitVec 3
  | .wv => 0
  | .bk => 1
  | .tw => 2
  | .dv => 3
  | .sy => 4

/-- The value a field code names; none where the code is reserved. -/
def Scope.ofCode (c : BitVec 3) : Option Scope :=
  match c.toNat with
  | 0 => some .wv
  | 1 => some .bk
  | 2 => some .tw
  | 3 => some .dv
  | 4 => some .sy
  | _ => none

/-- Access orders (R94, R180). -/
inductive Order where
  | rlx | acq | rel | acqrel
  deriving DecidableEq, Repr, Inhabited

/-- The code of each value in its field. -/
def Order.code : Order → BitVec 2
  | .rlx => 0
  | .acq => 1
  | .rel => 2
  | .acqrel => 3

/-- The value a field code names; none where the code is reserved. -/
def Order.ofCode (c : BitVec 2) : Option Order :=
  match c.toNat with
  | 0 => some .rlx
  | 1 => some .acq
  | 2 => some .rel
  | 3 => some .acqrel
  | _ => none

/-- Rounding modes (R88, R141). -/
inductive RMode where
  | rne | rtz | rdn | rup | rna | sr
  deriving DecidableEq, Repr, Inhabited

/-- The code of each value in its field. -/
def RMode.code : RMode → BitVec 3
  | .rne => 0
  | .rtz => 1
  | .rdn => 2
  | .rup => 3
  | .rna => 4
  | .sr => 5

/-- The value a field code names; none where the code is reserved. -/
def RMode.ofCode (c : BitVec 3) : Option RMode :=
  match c.toNat with
  | 0 => some .rne
  | 1 => some .rtz
  | 2 => some .rdn
  | 3 => some .rup
  | 4 => some .rna
  | 5 => some .sr
  | _ => none

/-- RETT modes (R202). -/
inductive RettMode where
  | retry | skip | resume
  deriving DecidableEq, Repr, Inhabited

/-- The code of each value in its field. -/
def RettMode.code : RettMode → BitVec 9
  | .retry => 0
  | .skip => 1
  | .resume => 2

/-- The value a field code names; none where the code is reserved. -/
def RettMode.ofCode (c : BitVec 9) : Option RettMode :=
  match c.toNat with
  | 0 => some .retry
  | 1 => some .skip
  | 2 => some .resume
  | _ => none

/-- Registers of a function's BAR0 that only store what is written (REGISTER_WRITE, R11): queue, scheduling, save-area,
history, resource, counter, debug, sampling, replay, attestation, window and key-data registers. -/
inductive BarReg where
  | qbase (q : Nat) | fage | fsaveb | fsaves | fhwmin | fhctl | fhstat | fptroot | fmemb | fmems | fpeer
  | fcntsel (i : Nat) | fcntval (i : Nat) | fcntovf | fdbg | fdbgbuf | fsamp | fsampbuf | freplay | freplaybuf
  | fattn (i : Nat) | hcwb | hcws | keydata (i : Nat)
  deriving DecidableEq, Repr, Inhabited

/-- A register of a stopped wave that the debugger names (R286). -/
inductive DbgReg where
  | s (i : SReg) | v (i : VReg) | m (i : MReg) | c (i : CReg)
  deriving DecidableEq, Repr, Inhabited

/-- What a device reset finds and does (R25, R279): whether the boot ROM finds the image genuine, the spare cores that firmware brings into service,
a mask for each die, the spare DRAM layers, a bit for each tower, and the home-cache ways that it takes out of service for their spares, each with its
tower. -/
structure Boot where
  genuine : Bool
  cores : List Word
  layers : Nat
  ways : List (Nat × Nat)
  deriving DecidableEq, Repr, Inhabited

/-- The wave's word that read data with an error (R197): the one that read last, that of an outstanding result, or a wait of a fragment. -/
inductive Reader where
  | latest (wave : Nat)
  | result (wave k : Nat)
  | wait (wave entry : Nat)
  deriving DecidableEq, Repr, Inhabited

/-- The instructions and events of spec/opcode_table.json: in its order, but that the events that only the outside raises come last. -/
inductive Instr where
  /-- NOP (R329). -/
  | nop (p : Bool)
  /-- EXIT (R307). -/
  | exit
  /-- YIELD (R376). -/
  | yield
  /-- BRK (R299). -/
  | brk (p : Bool) (n : BitVec 9)
  /-- TRAP (R357). -/
  | trap (p : Bool) (n : BitVec 9)
  /-- RETT (R202). -/
  | rett (n : RettMode)
  /-- GETC (R310). -/
  | getc (p : Bool) (s : SReg) (c : CReg)
  /-- SETC (R341). -/
  | setc (p : Bool) (s : SReg) (c : CReg)
  /-- STAMP (R227). -/
  | stamp (p : Bool) (s : SReg)
  /-- JOIN (R41). -/
  | join (p : Bool)
  /-- HINT_IMM (R313). -/
  | hintImm (i : BitVec 21)
  /-- HINT_ORD (R313). -/
  | hintOrd (o : Order) (s : Scope)
  /-- HINT_DEP (R313). -/
  | hintDep (w : BitVec 8) (e : Bool) (s : BitVec 3)
  /-- HINT_RND (R313). -/
  | hintRnd (m : RMode)
  /-- HINT_OFF (R313). -/
  | hintOff (o : BitVec 21)
  /-- BR (R298). -/
  | br (c : BrCond) (m : MReg) (o : BitVec 18)
  /-- JMP (R314). -/
  | jmp (o : BitVec 25)
  /-- CALL (R300). -/
  | call (o : BitVec 25)
  /-- TRAMP (R355). -/
  | tramp (o : BitVec 25)
  /-- JMPI (R314). -/
  | jmpi (s : SReg)
  /-- CALLI (R300). -/
  | calli (s : SReg)
  /-- RET (R333). -/
  | ret
  /-- SPLIT (R40). -/
  | split (m : MReg) (o : BitVec 22)
  /-- FENCE (R183). -/
  | fence (p : Bool) (r : BitVec 8) (u : BitVec 8) (c : Scope)
  /-- SADD (R336). -/
  | sadd (p : Bool) (d : SReg) (a : SReg) (b : SReg)
  /-- SSUB (R336). -/
  | ssub (p : Bool) (d : SReg) (a : SReg) (b : SReg)
  /-- SMUL (R336). -/
  | smul (p : Bool) (d : SReg) (a : SReg) (b : SReg)
  /-- SMULH (R336). -/
  | smulh (p : Bool) (d : SReg) (a : SReg) (b : SReg)
  /-- SMULHU (R336). -/
  | smulhu (p : Bool) (d : SReg) (a : SReg) (b : SReg)
  /-- SAND (R336). -/
  | sand (p : Bool) (d : SReg) (a : SReg) (b : SReg)
  /-- SOR (R336). -/
  | sor (p : Bool) (d : SReg) (a : SReg) (b : SReg)
  /-- SXOR (R336). -/
  | sxor (p : Bool) (d : SReg) (a : SReg) (b : SReg)
  /-- SANDN (R336). -/
  | sandn (p : Bool) (d : SReg) (a : SReg) (b : SReg)
  /-- SSHL (R336). -/
  | sshl (p : Bool) (d : SReg) (a : SReg) (b : SReg)
  /-- SSHR (R336). -/
  | sshr (p : Bool) (d : SReg) (a : SReg) (b : SReg)
  /-- SSRA (R336). -/
  | ssra (p : Bool) (d : SReg) (a : SReg) (b : SReg)
  /-- SMIN (R336). -/
  | smin (p : Bool) (d : SReg) (a : SReg) (b : SReg)
  /-- SMAX (R336). -/
  | smax (p : Bool) (d : SReg) (a : SReg) (b : SReg)
  /-- SUMIN (R336). -/
  | sumin (p : Bool) (d : SReg) (a : SReg) (b : SReg)
  /-- SUMAX (R336). -/
  | sumax (p : Bool) (d : SReg) (a : SReg) (b : SReg)
  /-- SADD64 (R336). -/
  | sadd64 (p : Bool) (d : SReg) (a : SReg) (b : SReg)
  /-- SSUB64 (R336). -/
  | ssub64 (p : Bool) (d : SReg) (a : SReg) (b : SReg)
  /-- SMOV (R336). -/
  | smov (p : Bool) (d : SReg) (a : SReg)
  /-- SSEL (R336). -/
  | ssel (p : Bool) (d : SReg) (a : SReg) (b : SReg)
  /-- SPOPC (R336). -/
  | spopc (p : Bool) (d : SReg) (a : SReg)
  /-- SCLZ (R336). -/
  | sclz (p : Bool) (d : SReg) (a : SReg)
  /-- SCMP (R340). -/
  | scmp (p : Bool) (a : SReg) (b : SReg) (c : Cond)
  /-- SCMP64 (R340). -/
  | scmp64 (p : Bool) (a : SReg) (b : SReg) (c : Cond)
  /-- SADDI (R337). -/
  | saddi (p : Bool) (d : SReg) (a : SReg) (i : BitVec 10)
  /-- SANDI (R337). -/
  | sandi (p : Bool) (d : SReg) (a : SReg) (i : BitVec 10)
  /-- SORI (R337). -/
  | sori (p : Bool) (d : SReg) (a : SReg) (i : BitVec 10)
  /-- SXORI (R337). -/
  | sxori (p : Bool) (d : SReg) (a : SReg) (i : BitVec 10)
  /-- SSHLI (R337). -/
  | sshli (p : Bool) (d : SReg) (a : SReg) (i : BitVec 10)
  /-- SSHRI (R337). -/
  | sshri (p : Bool) (d : SReg) (a : SReg) (i : BitVec 10)
  /-- SSRAI (R337). -/
  | ssrai (p : Bool) (d : SReg) (a : SReg) (i : BitVec 10)
  /-- SLI (R345). -/
  | sli (p : Bool) (d : SReg) (i : BitVec 19)
  /-- SLUI (R346). -/
  | slui (p : Bool) (d : SReg) (i : BitVec 13)
  /-- MAND (R326). -/
  | mand (p : Bool) (d : MReg) (a : MReg) (b : MReg)
  /-- MOR (R326). -/
  | mor (p : Bool) (d : MReg) (a : MReg) (b : MReg)
  /-- MXOR (R326). -/
  | mxor (p : Bool) (d : MReg) (a : MReg) (b : MReg)
  /-- MANDN (R326). -/
  | mandn (p : Bool) (d : MReg) (a : MReg) (b : MReg)
  /-- MNOT (R326). -/
  | mnot (p : Bool) (d : MReg) (a : MReg)
  /-- MMOV (R326). -/
  | mmov (p : Bool) (d : MReg) (a : MReg)
  /-- MPOP (R326). -/
  | mpop (p : Bool) (a : MReg) (s : SReg)
  /-- MFF1 (R326). -/
  | mff1 (p : Bool) (a : MReg) (s : SReg)
  /-- MSAVE (R326). -/
  | msave (p : Bool) (a : MReg) (s : SReg)
  /-- MLOAD (R326). -/
  | mload (p : Bool) (d : MReg) (s : SReg)
  /-- MSETW (R326). -/
  | msetw (p : Bool) (d : MReg)
  /-- VCMP (R363). -/
  | vcmp (p : Bool) (d : MReg) (a : VReg) (b : VReg) (c : VCond) (t : VType)
  /-- VADD (R359). -/
  | vadd (p : Bool) (d : VReg) (a : VReg) (b : VReg)
  /-- VSUB (R359). -/
  | vsub (p : Bool) (d : VReg) (a : VReg) (b : VReg)
  /-- VMUL (R359). -/
  | vmul (p : Bool) (d : VReg) (a : VReg) (b : VReg)
  /-- VMULH (R359). -/
  | vmulh (p : Bool) (d : VReg) (a : VReg) (b : VReg)
  /-- VMULHU (R359). -/
  | vmulhu (p : Bool) (d : VReg) (a : VReg) (b : VReg)
  /-- VMAD (R359). -/
  | vmad (p : Bool) (d : VReg) (a : VReg) (b : VReg)
  /-- VAND (R359). -/
  | vand (p : Bool) (d : VReg) (a : VReg) (b : VReg)
  /-- VOR (R359). -/
  | vor (p : Bool) (d : VReg) (a : VReg) (b : VReg)
  /-- VXOR (R359). -/
  | vxor (p : Bool) (d : VReg) (a : VReg) (b : VReg)
  /-- VSHL (R359). -/
  | vshl (p : Bool) (d : VReg) (a : VReg) (b : VReg)
  /-- VSHR (R359). -/
  | vshr (p : Bool) (d : VReg) (a : VReg) (b : VReg)
  /-- VSRA (R359). -/
  | vsra (p : Bool) (d : VReg) (a : VReg) (b : VReg)
  /-- VMIN (R359). -/
  | vmin (p : Bool) (d : VReg) (a : VReg) (b : VReg)
  /-- VMAX (R359). -/
  | vmax (p : Bool) (d : VReg) (a : VReg) (b : VReg)
  /-- VUMIN (R359). -/
  | vumin (p : Bool) (d : VReg) (a : VReg) (b : VReg)
  /-- VUMAX (R359). -/
  | vumax (p : Bool) (d : VReg) (a : VReg) (b : VReg)
  /-- VADD_S (R359). -/
  | vaddS (p : Bool) (d : VReg) (a : VReg) (s : SReg)
  /-- VSUB_S (R359). -/
  | vsubS (p : Bool) (d : VReg) (a : VReg) (s : SReg)
  /-- VMUL_S (R359). -/
  | vmulS (p : Bool) (d : VReg) (a : VReg) (s : SReg)
  /-- VMULH_S (R359). -/
  | vmulhS (p : Bool) (d : VReg) (a : VReg) (s : SReg)
  /-- VMULHU_S (R359). -/
  | vmulhuS (p : Bool) (d : VReg) (a : VReg) (s : SReg)
  /-- VMAD_S (R359). -/
  | vmadS (p : Bool) (d : VReg) (a : VReg) (s : SReg)
  /-- VAND_S (R359). -/
  | vandS (p : Bool) (d : VReg) (a : VReg) (s : SReg)
  /-- VOR_S (R359). -/
  | vorS (p : Bool) (d : VReg) (a : VReg) (s : SReg)
  /-- VXOR_S (R359). -/
  | vxorS (p : Bool) (d : VReg) (a : VReg) (s : SReg)
  /-- VSHL_S (R359). -/
  | vshlS (p : Bool) (d : VReg) (a : VReg) (s : SReg)
  /-- VSHR_S (R359). -/
  | vshrS (p : Bool) (d : VReg) (a : VReg) (s : SReg)
  /-- VSRA_S (R359). -/
  | vsraS (p : Bool) (d : VReg) (a : VReg) (s : SReg)
  /-- VMIN_S (R359). -/
  | vminS (p : Bool) (d : VReg) (a : VReg) (s : SReg)
  /-- VMAX_S (R359). -/
  | vmaxS (p : Bool) (d : VReg) (a : VReg) (s : SReg)
  /-- VUMIN_S (R359). -/
  | vuminS (p : Bool) (d : VReg) (a : VReg) (s : SReg)
  /-- VUMAX_S (R359). -/
  | vumaxS (p : Bool) (d : VReg) (a : VReg) (s : SReg)
  /-- VADD64 (R358). -/
  | vadd64 (p : Bool) (d : VReg) (a : VReg) (b : VReg)
  /-- VSUB64 (R358). -/
  | vsub64 (p : Bool) (d : VReg) (a : VReg) (b : VReg)
  /-- VMULW (R358). -/
  | vmulw (p : Bool) (d : VReg) (a : VReg) (b : VReg)
  /-- VABS (R358). -/
  | vabs (p : Bool) (d : VReg) (a : VReg)
  /-- VNOT (R358). -/
  | vnot (p : Bool) (d : VReg) (a : VReg)
  /-- VMOV (R358). -/
  | vmov (p : Bool) (d : VReg) (a : VReg)
  /-- VPOPC (R358). -/
  | vpopc (p : Bool) (d : VReg) (a : VReg)
  /-- VCLZ (R358). -/
  | vclz (p : Bool) (d : VReg) (a : VReg)
  /-- VBREV (R358). -/
  | vbrev (p : Bool) (d : VReg) (a : VReg)
  /-- VBFE (R358). -/
  | vbfe (p : Bool) (d : VReg) (a : VReg) (b : VReg)
  /-- VBFI (R358). -/
  | vbfi (p : Bool) (d : VReg) (a : VReg) (b : VReg)
  /-- VADDI (R360). -/
  | vaddi (p : Bool) (d : VReg) (a : VReg) (i : BitVec 8)
  /-- VANDI (R360). -/
  | vandi (p : Bool) (d : VReg) (a : VReg) (i : BitVec 8)
  /-- VORI (R360). -/
  | vori (p : Bool) (d : VReg) (a : VReg) (i : BitVec 8)
  /-- VXORI (R360). -/
  | vxori (p : Bool) (d : VReg) (a : VReg) (i : BitVec 8)
  /-- VSHLI (R360). -/
  | vshli (p : Bool) (d : VReg) (a : VReg) (i : BitVec 8)
  /-- VSHRI (R360). -/
  | vshri (p : Bool) (d : VReg) (a : VReg) (i : BitVec 8)
  /-- VSRAI (R360). -/
  | vsrai (p : Bool) (d : VReg) (a : VReg) (i : BitVec 8)
  /-- VLI (R360). -/
  | vli (p : Bool) (d : VReg) (i : BitVec 8)
  /-- VSEL (R369). -/
  | vsel (p : Bool) (d : VReg) (a : VReg) (b : VReg) (m : MReg)
  /-- VFADD (R366). -/
  | vfadd (p : Bool) (k : FMaj) (d : VReg) (a : VReg) (b : VReg)
  /-- VFSUB (R366). -/
  | vfsub (p : Bool) (k : FMaj) (d : VReg) (a : VReg) (b : VReg)
  /-- VFMUL (R366). -/
  | vfmul (p : Bool) (k : FMaj) (d : VReg) (a : VReg) (b : VReg)
  /-- VFMA (R366). -/
  | vfma (p : Bool) (k : FMaj) (d : VReg) (a : VReg) (b : VReg)
  /-- VFMIN (R366). -/
  | vfmin (p : Bool) (k : FMaj) (d : VReg) (a : VReg) (b : VReg)
  /-- VFMAX (R366). -/
  | vfmax (p : Bool) (k : FMaj) (d : VReg) (a : VReg) (b : VReg)
  /-- VFABS (R366). -/
  | vfabs (p : Bool) (k : FMaj) (d : VReg) (a : VReg)
  /-- VFNEG (R366). -/
  | vfneg (p : Bool) (k : FMaj) (d : VReg) (a : VReg)
  /-- VFCPS (R366). -/
  | vfcps (p : Bool) (k : FMaj) (d : VReg) (a : VReg) (b : VReg)
  /-- VFDIV (R366). -/
  | vfdiv (p : Bool) (k : FMaj) (d : VReg) (a : VReg) (b : VReg)
  /-- VFRND (R366). -/
  | vfrnd (p : Bool) (k : FMaj) (d : VReg) (a : VReg)
  /-- VFADD_S (R367). -/
  | vfaddS (p : Bool) (d : VReg) (a : VReg) (s : SReg) (t : FType)
  /-- VFSUB_S (R367). -/
  | vfsubS (p : Bool) (d : VReg) (a : VReg) (s : SReg) (t : FType)
  /-- VFMUL_S (R367). -/
  | vfmulS (p : Bool) (d : VReg) (a : VReg) (s : SReg) (t : FType)
  /-- VFMA_S (R367). -/
  | vfmaS (p : Bool) (d : VReg) (a : VReg) (s : SReg) (t : FType)
  /-- VFMIN_S (R367). -/
  | vfminS (p : Bool) (d : VReg) (a : VReg) (s : SReg) (t : FType)
  /-- VFMAX_S (R367). -/
  | vfmaxS (p : Bool) (d : VReg) (a : VReg) (s : SReg) (t : FType)
  /-- VRCP (R364). -/
  | vrcp (p : Bool) (d : VReg) (a : VReg) (t : SfuType)
  /-- VRSQ (R364). -/
  | vrsq (p : Bool) (d : VReg) (a : VReg) (t : SfuType)
  /-- VSQRT (R364). -/
  | vsqrt (p : Bool) (d : VReg) (a : VReg) (t : SfuType)
  /-- VEXP2 (R364). -/
  | vexp2 (p : Bool) (d : VReg) (a : VReg) (t : SfuType)
  /-- VLOG2 (R364). -/
  | vlog2 (p : Bool) (d : VReg) (a : VReg) (t : SfuType)
  /-- VSIN (R364). -/
  | vsin (p : Bool) (d : VReg) (a : VReg) (t : SfuType)
  /-- VCOS (R364). -/
  | vcos (p : Bool) (d : VReg) (a : VReg) (t : SfuType)
  /-- VTANH (R364). -/
  | vtanh (p : Bool) (d : VReg) (a : VReg) (t : SfuType)
  /-- VCVT (R365). -/
  | vcvt (p : Bool) (d : VReg) (a : VReg) (t : CvtType) (u : CvtType) (r : CvtRnd) (s : Bool)
  /-- VPACK4 (R368). -/
  | vpack4 (p : Bool) (d : VReg) (a : VReg) (t : BlkType)
  /-- VUNPK4 (R368). -/
  | vunpk4 (p : Bool) (d : VReg) (a : VReg) (t : BlkType)
  /-- VSHFL (R361). -/
  | vshfl (p : Bool) (d : VReg) (a : VReg) (b : VReg)
  /-- VBCAST (R361). -/
  | vbcast (p : Bool) (d : VReg) (a : VReg) (k : BitVec 7)
  /-- VREADL (R361). -/
  | vreadl (p : Bool) (s : SReg) (a : VReg) (k : BitVec 7)
  /-- VWRITEL (R361). -/
  | vwritel (p : Bool) (d : VReg) (s : SReg) (k : BitVec 7)
  /-- VRED (R361). -/
  | vred (p : Bool) (d : VReg) (a : VReg) (o : RedOp)
  /-- VSCAN (R361). -/
  | vscan (p : Bool) (d : VReg) (a : VReg) (o : RedOp)
  /-- VLANE (R361). -/
  | vlane (p : Bool) (d : VReg)
  /-- LD (R317). -/
  | ld (p : Bool) (v : VReg) (s : SReg) (o : VReg) (z : MSize) (c : Cache)
  /-- ST (R349). -/
  | st (p : Bool) (v : VReg) (s : SReg) (o : VReg) (z : MSize) (c : Cache)
  /-- SLD (R344). -/
  | sld (p : Bool) (d : SReg) (s : SReg) (o : BitVec 10) (z : WSize)
  /-- SST (R344). -/
  | sst (p : Bool) (d : SReg) (s : SReg) (o : BitVec 10) (z : WSize)
  /-- LDS (R322). -/
  | lds (p : Bool) (v : VReg) (s : SReg) (o : VReg) (z : MSize) (c : Cache)
  /-- STS (R351). -/
  | sts (p : Bool) (v : VReg) (s : SReg) (o : VReg) (z : MSize) (c : Cache)
  /-- LDAS (R225). -/
  | ldas (p : Bool) (v : VReg) (s : SReg) (o : VReg) (z : MSize) (q : BitVec 2)
  /-- STC (R226). -/
  | stc (p : Bool) (v : VReg) (s : SReg) (o : VReg) (z : MSize) (q : BitVec 2)
  /-- ATOM (R295). -/
  | atom (p : Bool) (v : VReg) (s : SReg) (o : VReg) (a : AtomOp)
  /-- ATOMS (R297). -/
  | atoms (p : Bool) (v : VReg) (s : SReg) (o : VReg) (a : AtomOp)
  /-- LR (R324). -/
  | lr (p : Bool) (v : VReg) (s : SReg) (o : VReg) (z : WSize)
  /-- SC (R338). -/
  | sc (p : Bool) (v : VReg) (s : SReg) (o : VReg) (z : WSize)
  /-- PREF (R330). -/
  | pref (p : Bool) (s : SReg) (o : VReg) (l : PrefLevel) (c : PrefClass)
  /-- BAR (R292). -/
  | bar (p : Bool) (g : BitVec 8)
  /-- ARRIVE (R292). -/
  | arrive (p : Bool) (g : BitVec 8)
  /-- WAITB (R373). -/
  | waitb (p : Bool) (g : BitVec 8) (h : Bool)
  /-- WAITA (R371). -/
  | waita (p : Bool) (a : SReg) (v : SReg) (c : WCond) (s : Space)
  /-- WAITC (R191). -/
  | waitc (p : Bool) (c : EClass) (n : BitVec 6)
  /-- WAITBIT (R62). -/
  | waitbit (p : Bool) (b : SReg) (i : SReg)
  /-- CPY_G2S (R302). -/
  | cpyG2s (p : Bool) (d : SReg)
  /-- CPY_S2G (R302). -/
  | cpyS2g (p : Bool) (d : SReg)
  /-- CPY_G2G (R302). -/
  | cpyG2g (p : Bool) (d : SReg)
  /-- CPYG (R305). -/
  | cpyg (p : Bool) (d : SReg)
  /-- CPYAS (R306). -/
  | cpyas (p : Bool) (d : SReg)
  /-- TAKE (R67). -/
  | take (p : Bool) (a : SReg)
  /-- MMA (R245). -/
  | mma (p : Bool) (z : ZReg) (h : MRows × KCode) (t : MType) (a : SReg) (c : Bool) (s : Bool)
  /-- LDSTAT (R243). -/
  | ldstat (p : Bool) (a : SReg) (k : KCode) (t : MType) (m : Bool) (s : SReg)
  /-- SWAPS (R244). -/
  | swaps (p : Bool)
  /-- RMMA (R265). -/
  | rmma (p : Bool) (z : ZReg) (a : SReg) (l : PalReg) (w : WType) (r : BitVec 5) (c : Bool)
  /-- ZZERO (R381). -/
  | zzero (p : Bool) (z : ZReg)
  /-- ZLD (R379). -/
  | zld (p : Bool) (z : ZReg) (s : SReg)
  /-- ZST (R379). -/
  | zst (p : Bool) (z : ZReg) (s : SReg)
  /-- ZRD (R380). -/
  | zrd (p : Bool) (z : ZReg) (s : SReg) (v : VReg)
  /-- ZWR (R380). -/
  | zwr (p : Bool) (z : ZReg) (s : SReg) (v : VReg)
  /-- ZGIVE (R378). -/
  | zgive (p : Bool) (z : ZReg)
  /-- ZTAKE (R378). -/
  | ztake (p : Bool) (z : ZReg)
  /-- GANG (R251). -/
  | gang (p : Bool) (g : BitVec 8)
  /-- RANK (R258). -/
  | rank (p : Bool) (a : VReg) (n : NReg) (t : RType) (d : SReg) (c : BitVec 6) (o : Bool) (g : Bool)
  /-- LDPAL (R263). -/
  | ldpal (p : Bool) (l : PalReg) (a : SReg)
  /-- RKREC (R268). -/
  | rkrec (p : Bool) (l : PalReg) (a : SReg) (v : VReg) (t : PType)
  /-- DOORBELL (R50). -/
  | doorbell (func queue : Nat) (value : Word)
  /-- DESCRIPTOR_READ (R53). -/
  | descriptorRead (func queue : Nat)
  /-- QCEIL_WRITE (R71). -/
  | qceilWrite (byFunc func queue : Nat) (value : Word)
  /-- QSIZE_WRITE (R49). -/
  | qsizeWrite (byFunc func queue : Nat) (value : Word)
  /-- BLOCK_PLACEMENT (R32). -/
  | blockPlacement (launch block core p0 : Nat)
  /-- CORES_PLACEMENT (R65). -/
  | coresPlacement (launch : Nat) (places : List (Nat × Nat))
  /-- BLOCK_RETIREMENT (R57). -/
  | blockRetirement (block : Nat)
  /-- AGEING_EXPIRY (R69). -/
  | ageingExpiry (launch : Nat)
  /-- WAIT_OVERDUE (R73). -/
  | waitOverdue (wave : Nat)
  /-- VICTIM_CHOICE (R76). -/
  | victimChoice (launch block : Nat)
  /-- SLICE_EXPIRY (R79). -/
  | sliceExpiry (wave : Nat)
  /-- EVICTION (R81). -/
  | eviction (block : Nat)
  /-- BLOCK_RESTORE (R82). -/
  | blockRestore (block core p0 : Nat)
  /-- LONG_RESULT_RETURN (R92). -/
  | longResultReturn (wave k : Nat)
  /-- TRANSLATION_CHECK_COMPLETE (R96). -/
  | translationCheckComplete (wave : Nat)
  /-- INSTRUCTION_FETCH_FAIL (R101). -/
  | instructionFetchFail (wave : Nat)
  /-- TRAP_DELIVERY (R198). -/
  | trapDelivery (wave : Nat)
  /-- FAULT_FINAL_RECORD (R206). -/
  | faultFinalRecord (launch : Nat)
  /-- WAVE_END (R28). -/
  | waveEnd (wave : Nat)
  /-- HOME_STORE_EVENT (R214). -/
  | homeStoreEvent (k : Nat)
  /-- HOME_ASOF_READ (R224). -/
  | homeAsofRead (wave k : Nat)
  /-- WC_DRAIN_TIMEOUT (R170). -/
  | wcDrainTimeout (core part k : Nat)
  /-- REMOTE_CLEAN_EXPIRY (R174). -/
  | remoteCleanExpiry (tower line : Nat)
  /-- REMOTE_DIRTY_FLUSH (R174). -/
  | remoteDirtyFlush (tower line : Nat)
  /-- PIN_LEASE_EXPIRY (R188). -/
  | pinLeaseExpiry (core line : Nat)
  /-- CLOCK_EXCHANGE (R213). -/
  | clockExchange
  /-- HORIZON_RAISE (R230). -/
  | horizonRaise (func : Nat) (byPF : Option Stamp)
  /-- HORIZON_ANNOUNCE_ACK (R230). -/
  | horizonAnnounceAck (func core : Nat)
  /-- HORIZON_RAISE_COMPLETE (R230). -/
  | horizonRaiseComplete (func : Nat)
  /-- LOG_SHARE_FULL (R231). -/
  | logShareFull (func tower : Nat)
  /-- WAIT_POLL_TICK (R62). -/
  | waitPollTick (wave entry : Nat)
  /-- WAKETO_EXPIRY (R371). -/
  | waketoExpiry (wave entry : Nat)
  /-- COPY_COMPLETE (R304). -/
  | copyComplete (op : Nat)
  /-- MATRIX_OP_BEGIN (R250). -/
  | matrixOpBegin (core k : Nat)
  /-- MATRIX_OP_COMPLETE (R253). -/
  | matrixOpComplete (core k : Nat)
  /-- RANK_OP_COMPLETE (R262). -/
  | rankOpComplete (core : Nat)
  /-- TILE_TRANSFER_COMPLETE (R379). -/
  | tileTransferComplete (op : Nat)
  /-- MARKET_ANSWER (R67). -/
  | marketAnswer (launch : Nat)
  /-- HOST_BAR2_ACCESS (R272). -/
  | hostBar2Access (func addr len : Nat) (data : Option (List Byte))
  /-- PEER_ACCESS (R215). -/
  | peerAccess (peer func addr len : Nat) (data : Option (List Byte))
  /-- SAMPLE_TICK (R287). -/
  | sampleTick (core part : Nat)
  /-- VERIFY_COMPLETE (R98). -/
  | verifyComplete (func : Nat)
  /-- INVALIDATE_COMPLETE (R277). -/
  | invalidateComplete (func : Nat)
  /-- L1_LEASE_EXPIRY (R169). -/
  | l1LeaseExpiry (core line : Nat)
  /-- KEEP_REQUEST_COMPLETE (R222). -/
  | keepRequestComplete (func : Nat)
  /-- KEY_COMMAND_COMPLETE (R278). -/
  | keyCommandComplete
  /-- ATTESTATION_COMPLETE (R280). -/
  | attestationComplete (func : Nat)
  /-- INSTRUCTION_FETCH_COMPLETE (R72). -/
  | instructionFetchComplete (wave : Nat)
  /-- VERIFY (R99). -/
  | verify (func : Nat) (value : Word64)
  /-- VERIFY_RELEASE (R100). -/
  | verifyRelease (func : Nat) (value : Word64)
  /-- KEEP_REGISTER (R222). -/
  | keepRegister (func : Nat) (value : Word64)
  /-- KEEP_END (R222). -/
  | keepEnd (func : Nat) (value : Word64)
  /-- TRANSLATION_INVALIDATE (R277). -/
  | translationInvalidate (func : Nat) (value : Word64)
  /-- KEY_LOAD (R278). -/
  | keyLoad (byFunc key : Nat)
  /-- KEY_ERASE (R278). -/
  | keyErase (byFunc key : Nat)
  /-- ATTESTATION_REQUEST (R280). -/
  | attestationRequest (func : Nat) (value : Word64)
  /-- FHOLD_WRITE (R230). -/
  | fholdWrite (func : Nat) (value : Word64)
  /-- FHLOGQ_WRITE (R231). -/
  | fhlogqWrite (byFunc func : Nat) (value : Word)
  /-- FHLOGB_WRITE (R231). -/
  | fhlogbWrite (byFunc func : Nat) (value : Word64)
  /-- FCORE_WRITE (R275). -/
  | fcoreWrite (byFunc func j : Nat) (value : Word64)
  /-- SUSPEND (R276). -/
  | suspend (byFunc func : Nat)
  /-- UNSUSPEND (R276). -/
  | unsuspend (byFunc func : Nat)
  /-- FSLICE_WRITE (R70). -/
  | fsliceWrite (byFunc func : Nat) (value : Word)
  /-- FPIN_WRITE (R189). -/
  | fpinWrite (byFunc func : Nat) (value : Word)
  /-- DEBUG_STOP (R285). -/
  | debugStop (func : Nat) (value : Word)
  /-- DEBUG_RESUME (R285). -/
  | debugResume (func : Nat) (value : Word)
  /-- DEBUG_REGISTER_WRITE (R286). -/
  | debugRegisterWrite (func wave : Nat) (reg : DbgReg) (lanes : Word64) (value : Word)
  /-- REGISTER_WRITE (R11). -/
  | registerWrite (byFunc func : Nat) (reg : BarReg) (value : Word64)
  /-- LINK_TRAINING (R281). -/
  | linkTraining (port : Nat) (lanes : Word)
  /-- DEVICE_DEGRADED (R26). -/
  | deviceDegraded
  /-- CORRECTED_SOFT_ERROR (R197). -/
  | correctedSoftError (func : Nat)
  /-- DEVICE_RESET (R279). -/
  | deviceReset (boot : Boot)
  /-- FIRMWARE_UPDATE_STAGE (R279). -/
  | firmwareUpdateStage (genuine : Bool)
  /-- THERMAL_THROTTLE (R75). -/
  | thermalThrottle (die rate : Nat) (withhold : Bool)
  /-- THERMAL_SHUTDOWN (R290). -/
  | thermalShutdown
  /-- UNCORRECTABLE_ERROR (R197). -/
  | uncorrectableError (block : Nat) (reader : Option Reader)
  /-- HOME_WAY_RETIRE (R26). -/
  | homeWayRetire (tower way : Nat)
  /-- DRAM_ROW_REMAP (R26). -/
  | dramRowRemap (tower row : Nat)
  deriving DecidableEq, Repr, Inhabited

end Sys2Proof
end

