-- ==== Sys2Proof/Config.lean ====
section
/-! DEFINITION. What the device is built to (R15 to R22) and the free values: what the spec leaves open is an opaque
constant without a body, so that no proof can see a value of it (log 3, 8, 10: DESIGN CHOICE). -/

namespace Sys2Proof

/-- Logical cores of the device (R17, R21). -/
def Config.cores : Nat := 192
/-- Towers (R15). -/
def Config.towers : Nat := 4
/-- Compute dies (R20). -/
def Config.dies : Nat := 8
/-- Issue partitions of a core (R18). -/
def Config.partitions : Nat := 4
/-- Wave slots of a partition (R18, R19). -/
def Config.slotsPerPartition : Nat := 16
/-- Lane-registers of a partition (R18, R19). -/
def Config.laneRegs : Nat := 32768
/-- Units of 128 lane-registers in which a partition's registers are carved for waves: W x V is a multiple of 128 (R31, log 3: DESIGN CHOICE). -/
def Config.regUnits : Nat := 256
/-- Resident blocks of a core (R18). -/
def Config.residentBlocks : Nat := 8
/-- Tile slots of a core (R18). -/
def Config.tileSlots : Nat := 64
/-- Ways of 16 KiB that resident blocks of a core may hold together (R165). -/
def Config.scratchWays : Nat := 32
/-- Ways of the unified scratchpad and L1 (R165). -/
def Config.ways : Nat := 40
/-- Device memory in bytes: 384 GiB (R21). -/
def Config.memoryBytes : Nat := 384 * 2 ^ 30
/-- Sets of the home and of the remote cache of a tower (R173; of the remote cache log 16: DESIGN CHOICE). -/
def Config.cacheSets : Nat := 65536
/-- Ways of a home cache: 192 MiB in lines of 128 bytes (R21, R173). -/
def Config.homeWays : Nat := 24
/-- Ways that a home cache is built with: one is a spare (R25). -/
def Config.homeWaysBuilt : Nat := 25
/-- Ways of a remote cache: 64 MiB in lines of 128 bytes (R21, log 16: DESIGN CHOICE). -/
def Config.remoteWays : Nat := 8
/-- Core cycles of an L1 lease (R169). -/
def Config.l1Lease : Nat := 4096
/-- Base-die cycles of a remote-cache lease and drain interval (R174). -/
def Config.remoteLease : Nat := 8192
/-- Core cycles in which a write-combining line drains (R170). -/
def Config.wcDrain : Nat := 256
/-- Base-die cycles between clock exchanges (R213). -/
def Config.exchange : Nat := 256
/-- Index of the PF in the list of functions; VF n has index n (R52, R272). -/
def Config.pf : Nat := 128
/-- Functions: 128 VFs and the PF (R21). -/
def Config.functions : Nat := 129

/-- An undefined register word (R11, R33), the `n`-th drawn. -/
opaque Config.undefWord : Nat → Word
/-- An undefined byte of a scratchpad that nothing has written (R33, R90). -/
opaque Config.undefByte : Nat → Byte
/-- The SM3 digest of a byte string (R99, R280): the spec names the standard and not the function. -/
opaque Config.sm3 : List Byte → List Byte
/-- The SM2 signature of a digest with the device's attestation key (R280). -/
opaque Config.sm2 : List Byte → List Byte
/-- The SM3 digest of the firmware image of a number (R280). -/
opaque Config.firmwareDigest : Nat → List Byte
/-- The SM3 digest of the device's certificate chain (R280). -/
opaque Config.certDigest : List Byte
/-- A byte of a block of 16 bytes encrypted under one key pair and decrypted under another (R163, R278): the two pairs, the block's number, its
bytes as they were written, and the byte's place. -/
opaque Config.throughKey : List Word64 → List Word64 → Nat → List Byte → Nat → Byte
/-- Samples that the ring of FSAMPBUF holds (R287): the spec does not give its size. -/
opaque Config.sampleRing : Nat

end Sys2Proof
end

