-- ==== Sys2Proof/Machine/State.lean ====
section
/-! DEFINITION. The machine's state as plain data: every piece of state the spec gives the device (INVENTORY.md, State), and
the state right after reset. Launches, blocks and waves are append-only lists, and an index in one is that unit's number. -/

namespace Sys2Proof.Machine

/-- Why the machine stops. Both are safe: the model stops where the spec gives the machine nothing to do. -/
inductive Fault where
  /-- Raised by an instruction word when no wave stands on the issue port (`State.issuing` names none). Safe. -/
  | noIssuingWave
  /-- Raised by an access whose physical address no memory of the device answers (R21, R282). Safe. -/
  | absentMemory
  /-- Raised by a step whose fetched word is no instruction: a verified page holds none (R98, R101). Safe. -/
  | illegalWord
  deriving DecidableEq, Repr

/-- What the model does not give a meaning; safe. -/
inductive Refusal where
  /-- Raised by an arm of `exec` whose instruction has no meaning yet. Safe. -/
  | notModelled (mnemonic : String)
  deriving DecidableEq, Repr

/-- The state code of a split-table entry (R39). -/
inductive FragState where
  | free | live | parked | parent | defer | held | wait
  deriving DecidableEq, Repr, Inhabited

/-- The 3-bit codes of R39. -/
def FragState.code : FragState → BitVec 3
  | .free => 0 | .live => 1 | .parked => 2 | .parent => 3 | .defer => 4 | .held => 5 | .wait => 6

/-- What a fragment in state WAIT waits for (R43, R292, R371, R62, R373, R191), as WAKE of R210 holds it. -/
inductive WaitFor where
  /-- A second arrival at a group waits until its phase leaves `phase`; the word then issues again (R292). `met` records, here and in the next
  two, that the completion came while the wave was taken (R239). -/
  | rearm (group : Nat) (phase met : Bool)
  /-- A BAR waits for the completion that its arrival joined: the phase leaves `phase` (R292). -/
  | bar (group : Nat) (phase met : Bool)
  /-- WAITB (R373). -/
  | waitb (group : Nat) (phase met : Bool)
  /-- WAITA: a scratchpad offset, or a physical address when `space` is global (R371). -/
  | waita (cond : WCond) (value : Word) (space : Space) (addr : Nat) (key : Nat) (timeout : Nat)
  /-- WAITBIT: the physical address of the 64-bit word and the bit in it (R62). Both hold the key of the page (R163). -/
  | waitbit (addr : Nat) (bit : Nat) (key : Nat) (timeout : Nat)
  /-- WAITC: the operations that must complete (R191). -/
  | waitc (cls : EClass) (ops : List Nat)
  deriving DecidableEq, Repr, Inhabited

/-- Deferral of the fragment switch of item 1 of R43. -/
inductive Defer where
  | none
  /-- After an LR: words issued since, until the SC or the 16th (R43). -/
  | lr (words : Nat)
  /-- After a CALL or CALLI, until a P = 1 word that is neither (R301). -/
  | call
  /-- After a TRAMP, until a JMPI that names s58 (R356). -/
  | tramp
  deriving DecidableEq, Repr, Inhabited

/-- A split-table entry with the two items beside it (R39), and the wake condition of the fragment (R210). PC, SCC and
XMASK of the current entry are not meaningful: the wave holds its own. -/
structure Frag where
  state : FragState
  scc : Bool
  link : Nat
  rejoin : VAddr
  pc : VAddr
  mask : Mask
  xmask : Mask
  wait : Option WaitFor
  /-- Core cycles waited so far, and those at which a word on a peer page is next read (R371, R374). -/
  waited : Nat
  pollAt : Nat
  /-- Words that its wave had retired when the wait began: it names the wait among those of the wave. -/
  since : Nat
  /-- A store event at the home has met its wait condition: the stamp of the value then (R62, R371). -/
  seen : Option Stamp
  /-- Deferral of a switch while the fragment is not current (R356). -/
  defer : Defer
  deriving DecidableEq, Repr, Inhabited

/-- A free entry: the reset values of R39. -/
def Frag.none : Frag := ⟨.free, false, 0, 0, 0, 0, 0, .none, 0, 0, 0, .none, .none⟩

/-- The pending hints of the current fragment (R86, R94) and the first word of their run that issued (R97). -/
structure Hints where
  imm : Option (BitVec 21)
  ord : Option (Order × Scope)
  /-- Slots to wait for, and the slot to set (R94). -/
  dep : Option (BitVec 8 × Option (BitVec 3))
  rnd : Option RMode
  off : Option (BitVec 21)
  start : Option VAddr
  deriving DecidableEq, Repr, Inhabited

/-- No pending hint. -/
def Hints.none : Hints := ⟨.none, .none, .none, .none, .none, .none⟩

/-- A write that a long-class result makes when it returns (R91). -/
inductive RegWrite where
  | s (r : Nat) (x : Word)
  | v (r : Nat) (lanes : Mask) (xs : List Word)
  deriving DecidableEq, Repr, Inhabited

/-- A destination register of a load. -/
inductive Dest where
  | s (r : Nat)
  | v (r : Nat)
  deriving DecidableEq, Repr, Inhabited

/-- A load as R80 records it: destination, size, each lane's physical address, the key of each page (R163), and the stamp of an as-of load. -/
structure LoadRec where
  dest : Dest
  size : MSize
  lanes : List (Nat × Nat)
  keys : List (Nat × Nat)
  asof : Option Stamp
  deriving DecidableEq, Repr, Inhabited

/-- What an outstanding long-class result still waits for. -/
inductive PendTag where
  /-- Nothing: LONG_RESULT_RETURN writes it (R92). -/
  | ready
  /-- The core cycle in which it is written (R253). -/
  | timed (cycle : Nat)
  /-- The home's count to pass the stamp's (R224). -/
  | asof (load : LoadRec) (at_ : Stamp)
  /-- The stamps of the listed store requests; the pair of the stamp and the largest stamp so far (R226). -/
  | stc (reqs : List Nat) (pair : Nat) (best : Stamp)
  /-- The completion of a horizon raise (R342). -/
  | raise
  /-- A rank operation (R268). -/
  | rank (op : Nat)
  /-- An access that waits on its release: the number of its order (R180). -/
  | order (id : Nat)
  deriving DecidableEq, Repr, Inhabited

/-- An outstanding long-class result (R91). -/
structure Pending where
  tag : PendTag
  writes : List RegWrite
  /-- The stamp to which SF rises when the result reaches the core (R217). -/
  sf : Stamp
  /-- The load to record when the wave is taken with it outstanding (R79, R80). -/
  load : Option LoadRec
  /-- The load's memory is homed in another tower (R79). -/
  remote : Bool
  /-- The address of the word that reads memory (R197), and the base-die cycle in which it read. -/
  pc : VAddr
  born : Nat
  deriving DecidableEq, Repr, Inhabited

/-- A cause to be delivered (R196, R198). -/
structure TrapInfo where
  cause : BitVec 8
  lanes : Mask
  addr : Word64
  deriving DecidableEq, Repr, Inhabited

/-- An element of the rank network's held state (R260, R269). -/
structure RankElem where
  type : RType
  index : Nat
  bits : Word
  deriving DecidableEq, Repr, Inhabited

/-- Why a wave that could issue does not (R287's stall reasons use it). -/
inductive Stall where
  | none | counter | array | ztake | latch | keep | retry | tile | gang
  /-- The lines of its store events, one for each, of which some wait for records (R231). -/
  | log (lines : List Nat)
  deriving DecidableEq, Repr, Inhabited

/-- A leaf entry of the page tables (R161). -/
structure Leaf where
  key : Nat
  hcw : Bool
  keep : Bool
  x : Bool
  w : Bool
  rd : Bool
  deriving DecidableEq, Repr, Inhabited

/-- An entry of a translation cache (R164). -/
structure TlbEntry where
  func : Nat
  vpage : Nat
  page : Nat
  leaf : Leaf
  deriving DecidableEq, Repr, Inhabited

/-- A checked access of a lane: its virtual and physical address and the leaf of its page. -/
structure Acc where
  lane : Nat
  va : Nat
  pa : Nat
  leaf : Leaf
  deriving DecidableEq, Repr, Inhabited

/-- An access that has issued: its word and order, the registers and EXEC as they stood then, its checked lanes, its address and its
fragment. Where its order has a release, it begins when that is complete (R180). -/
structure Access where
  word : Instr
  order : Order × Scope
  sregs : List Word
  vregs : List (List Word)
  exec : Mask
  accs : List Acc
  pc : VAddr
  frag : Nat
  deriving DecidableEq, Repr, Inhabited

/-- An order under way: accesses of some classes that the wave issued before it are awaited, and those of others after it held (R180, R183).
The earlier ones are the first `pend` outstanding results, the store requests numbered below `req` and the engine operations below `op`. -/
structure Hold where
  pend : Nat
  req : Nat
  op : Nat
  /-- The classes awaited, as FENCE gives them (R184). -/
  pred : BitVec 8
  /-- The classes held; bit 8 stands for every other engine operation (R180). -/
  succ : BitVec 9
  scope : Scope
  /-- It publishes: a release of the wave is complete when it is done (R183). -/
  publish : Bool
  /-- An acquire follows (R180, R183). -/
  acquire : Bool
  /-- The access whose release it is, with the number of its order: it begins when the order is done (R180). -/
  access : Option (Nat × Access)
  deriving DecidableEq, Repr, Inhabited

/-- A wave (R33, R86 to R89). -/
structure Wave where
  block : Nat
  /-- Index in its block (c1 WAVE). -/
  index : Nat
  /-- Partition (c0 PART) and wave slot of it. -/
  part : Nat
  slot : Nat
  width : Nat
  ended : Bool
  sregs : List Word
  /-- v0 to v(V - 1), each a list of W lanes. -/
  vregs : List (List Word)
  /-- m0 (EXEC) to m7. -/
  mregs : List Mask
  scc : Bool
  /-- PC of the current fragment. -/
  pc : VAddr
  /-- Current split-table entry. -/
  cur : Nat
  frags : List Frag
  hints : Hints
  sf : Stamp
  /-- Outstanding engine operations of each class by issue order: their number is the counter (R87, R191). -/
  outC : List Nat
  outM : List Nat
  outK : List Nat
  outD : List Nat
  /-- The operations issued, the youngest first: of each class the last 63, which WAITC may except (R191). -/
  recent : List (EClass × Nat)
  rndMode : BitVec 3
  quantum : Nat
  hzStaged : Word
  gate : Word
  wakeTo : Word
  cause : BitVec 8
  trapPc : VAddr
  trapMask : Mask
  trapAddr : Word64
  srSeed : Word
  clockLatch : Option Word
  savExec : Mask
  inTrap : Bool
  /-- Address of the word after the faulting word, for RETT with skip (R202). -/
  skipPc : VAddr
  /-- Stochastic-rounding state of each lane (R143). -/
  srState : List Word
  rank : List RankElem
  pending : List Pending
  /-- Ineligible after a P = 1 word until the pending results return (R92). -/
  held : Bool
  /-- The suspended word (R96). -/
  susp : Option Instr
  trapPending : Option TrapInfo
  /-- A trap has been delivered and the handler's first word has not issued (R204). -/
  entering : Bool
  /-- Instructions the current fragment has issued since it became current, and the quantum it runs under (R43, R44). -/
  qcount : Nat
  qActive : Nat
  defer : Defer
  /-- A fragment switch, or a fusion at the entry, that waits for the wave's long-class results (R41, R43). -/
  switchDue : Bool
  fuseDue : Option Nat
  /-- The group that is the wave's gang; none before its first GANG (R251). -/
  gang : Option Nat
  /-- Writes to KEEP pages whose stamp has not returned (R218). -/
  keepOut : List Nat
  /-- The orders under way, the earliest first (R180, R183). -/
  holds : List Hold
  /-- Address of the latest word that read memory (R197). -/
  readPc : VAddr
  /-- The lane-registers carved for it, in units of 128 of its partition (R31, R176). -/
  units : List Nat
  waitCount : Nat
  /-- Issue number of the wave's last word; 0 when it never issued (R73). -/
  lastIssue : Nat
  /-- The partition skips the wave in the cycle after YIELD's wait, where another wave is eligible (R376). -/
  skipCycle : Bool
  taken : Bool
  /-- The wave's last word had P = 1: with its results back the wave stands at a park marker (R79). -/
  marker : Bool
  /-- The slice timer of the victim choice has expired (R79). -/
  sliceDone : Bool
  /-- The core cycle from which its slice timer counts: it stands still while its partition is stopped (R79, R285). -/
  sliceFrom : Nat
  stall : Stall
  /-- Core cycle from which its stalled word is tried again: until then the word's resource is not free (R72, log 5: DEDUCED). -/
  stallAt : Nat
  /-- The fetched next word, and the address it was fetched from (R72). -/
  ibuf : Option (VAddr × Word)
  /-- Retired words (R288). -/
  retired : Nat
  /-- Lanes whose reservation stood on a pin that ended by its lease (R188, R338). -/
  pinLost : Mask
  /-- Core cycle at which the wave ended (R287). -/
  endAt : Nat
  deriving DecidableEq, Repr, Inhabited

/-- What a byte of a scratchpad or word of a register that nothing has written holds: zero after a scrub (R176), else undefined (R33). -/
inductive Fill where
  | zero
  | undef (seed : Nat)
  deriving DecidableEq, Repr, Inhabited

/-- A block's scratchpad allocation (R90): its size, what the unlisted bytes of each way hold, and the bytes written, by rising offset. -/
structure Scratch where
  size : Nat
  fills : List Fill
  cells : List Host.Cell
  deriving DecidableEq, Repr, Inhabited

/-- A tile slot: 1,024 words and its token, true on the matrix side (R247). -/
structure Tile where
  words : List Word
  matrix : Bool
  deriving DecidableEq, Repr, Inhabited

/-- The status of a block. -/
inductive BlockStatus where
  | resident | saved | retired | stopped | discarded
  deriving DecidableEq, Repr, Inhabited

/-- A member's word at the rendezvous latch of a gang (R252). -/
structure LatchEntry where
  group : Nat
  wave : Nat
  word : Instr
  dep : Option (BitVec 8 × Option (BitVec 3))
  deriving DecidableEq, Repr, Inhabited

/-- How a launch stands, and the status codes of R54. -/
inductive LaunchStatus where
  | accepted | done | rejShape | rejGroups | rejCycle | rejUpstream | rejCores | rejFlags | rejAddr | rejScan | fault | splitDepth
  | upstreamFailed
  /-- CREC failed: no record can be written (R384). -/
  | noRecord
  deriving DecidableEq, Repr, Inhabited

/-- The code of a status in a completion record (R54). -/
def LaunchStatus.code : LaunchStatus → BitVec 8
  | .accepted => 0x01 | .done => 0x02 | .rejShape => 0x10 | .rejGroups => 0x11 | .rejCycle => 0x12 | .rejUpstream => 0x13
  | .rejCores => 0x14 | .rejFlags => 0x15 | .rejAddr => 0x16 | .rejScan => 0x20 | .fault => 0x21 | .splitDepth => 0x22
  | .upstreamFailed => 0x23 | .noRecord => 0x00

/-- The fields of a launch descriptor (R52). -/
structure Desc where
  entry : Nat
  args : Word64
  trapVec : Nat
  groups : Nat
  cbmp : Nat
  crec : Nat
  scratch : Nat
  tiles : Nat
  width : Nat
  nwaves : Nat
  vregs : Nat
  umap : Bool
  ups : Bool
  ndep : Nat
  morder : Nat
  prio : Nat
  dbg : Bool
  hown : Bool
  sweep : Bool
  cores : Bool
  func : Nat
  gridX : Nat
  gridY : Nat
  gridZ : Nat
  mkx : Nat
  mky : Nat
  depv : List (Int × Int × Int)
  rel : Bool
  upSeq : Nat
  ox : Int
  oy : Int
  txm1 : Nat
  tym1 : Nat
  sx : Nat
  sy : Nat
  /-- Some reserved field, as R52 and R53 list them, is nonzero. -/
  reserved : Bool
  deriving DecidableEq, Repr, Inhabited

/-- A market request or a TAKE in flight: wave, scratchpad address, operation number (R67). -/
structure TakeReq where
  wave : Nat
  addr : Nat
  op : Nat
  deriving DecidableEq, Repr, Inhabited

/-- A launch (R28, R52 to R61). Its index in the state is its sequence number (R51). -/
structure Launch where
  func : Nat
  queue : Nat
  desc : Desc
  /-- MEMBERS of groups 1 and up (R35). -/
  members : List Word
  status : LaunchStatus
  cause : BitVec 8
  pc : Nat
  block : Nat
  /-- Sequence number of the upstream launch (R59). -/
  upstream : Option Nat
  lvl : Nat
  /-- For each die, the core cycle of the latest change of the level, and the level before it: a change acts from the next core cycle on
  (R71). -/
  lvlWas : List (Nat × Nat)
  age : Nat
  /-- Retirement board: the linear indices retired (R57). -/
  board : List Nat
  /-- Linear indices ever placed. -/
  placed : List Nat
  /-- The market's next tile and its requests in order (R66). -/
  nextTile : Nat
  takes : List TakeReq
  /-- The store requests that zero its bitmap (R56). -/
  clearing : List Nat
  /-- The final completion record is written (R54, R206). -/
  closed : Bool
  deriving DecidableEq, Repr, Inhabited

/-- The replacement hint of a line (R175). -/
inductive Mark where
  | dflt | ef | el
  deriving DecidableEq, Repr, Inhabited

/-- A line of an L1 (R168). -/
structure L1Line where
  line : Nat
  gen : BitVec 8
  /-- Core cycle of the fill. -/
  filled : Nat
  /-- The valid words of the line, by word of the line. -/
  words : List (Option Word)
  stamp : Stamp
  mark : Mark
  /-- The key pair through which its words were read: another misses (R163). -/
  pair : Option (List Word64)
  deriving DecidableEq, Repr, Inhabited

/-- A dirty byte of a remote-cache line: its offset and value, and the SF and the wave of the store that wrote it (R216). -/
structure DirtyByte where
  off : Nat
  val : Byte
  sf : Stamp
  wave : Nat
  deriving DecidableEq, Repr, Inhabited

/-- A line of a remote cache (R172, R174). -/
structure RLine where
  line : Nat
  words : List (Option Word)
  dirty : List DirtyByte
  stamp : Stamp
  /-- Base-die cycles of the last fill, and of the oldest dirty byte. -/
  filled : Nat
  dirtied : Nat
  /-- Its owner's tag (R284), and the key of its dirty bytes (R163). -/
  func : Nat
  key : Nat
  mark : Mark
  /-- The key pair through which its words were read (R163). -/
  pair : Option (List Word64)
  /-- The strong accesses of a launch with DBG set among its dirty bytes (R186). -/
  strong : List (Nat × Nat)
  deriving DecidableEq, Repr, Inhabited

/-- A write-combining line (R170). A store that must reach its home as an event of its own is not held here but sent at once. -/
structure WcLine where
  wave : Nat
  line : Nat
  /-- Physical addresses and bytes, the latest write of an address first. -/
  bytes : List (Nat × Byte)
  /-- Core cycle of the first write. -/
  first : Nat
  sf : Stamp
  /-- The addresses whose latest store was a CB store: it invalidates the L1 copies of their words instead of updating them (R349). -/
  cb : List Nat
  key : Nat
  mark : Mark
  /-- The strong accesses of a launch with DBG set that it holds (R186). -/
  strong : List (Nat × Nat)
  deriving DecidableEq, Repr, Inhabited

/-- A pin of a core: the words of a line held in its pin buffer (R187). -/
structure Pin where
  line : Nat
  words : List (Nat × Word)
  /-- Core cycle at which it was taken. -/
  taken : Nat
  lease : Nat
  users : List Nat
  sf : Stamp
  key : Nat
  deriving DecidableEq, Repr, Inhabited

/-- A reservation: held by the home directory, or standing on a pin of a core (R325). -/
structure Resv where
  wave : Nat
  lane : Nat
  addr : Nat
  size : Nat
  pin : Option Nat
  /-- Words that its wave had retired when the LR took it (R207). -/
  since : Nat
  deriving DecidableEq, Repr, Inhabited

/-- What a request for a store event carries: a store of a wave or of an engine, a flush of a remote cache, the write-back of a pin, which the home
clears with it, or a write of the host or a peer (R188, R214, R215). -/
inductive ReqKind where
  | store | flush | pin | host
  deriving DecidableEq, Repr, Inhabited

/-- How the caches of the core that sent a request stand to its bytes (R168, R174, R180). -/
inductive Via where
  /-- The caches of a tower show them already; the waves whose stores they are. -/
  | shown (tower : Nat) (waves : List Nat)
  /-- The caches of a core and of its tower take them when the request is performed; the addresses of CB stores among them. -/
  | direct (core : Nat) (cb : List Nat)
  /-- None: an engine, the host, a peer or a pin sent it. -/
  | other
  deriving DecidableEq, Repr, Inhabited

/-- A request for a store event at a home (R214). -/
structure Req where
  id : Nat
  wave : Option Nat
  func : Nat
  line : Nat
  /-- Physical addresses and their bytes, within one line. -/
  bytes : List (Nat × Byte)
  floor : Stamp
  key : Nat
  mark : Mark
  /-- The addresses and sizes of the strong accesses of a launch with DBG set that it carries (R186). -/
  strong : List (Nat × Nat)
  kind : ReqKind
  via : Via
  deriving DecidableEq, Repr, Inhabited

/-- A line of a registered page that a store event has met since: the stamp of the latest, the events so far, and the indices of the records of
the latest sixteen, the newest first (R224, R228). -/
structure KLine where
  line : Nat
  stamp : Stamp
  count : Nat
  recent : List Nat
  deriving DecidableEq, Repr, Inhabited

/-- A registered KEEP page of a home (R222). -/
structure Keep where
  page : Nat
  func : Nat
  ks : Stamp
  lines : List KLine
  deriving DecidableEq, Repr, Inhabited

/-- The keys under which blocks of 16 bytes are encrypted: a block's number and its key pair; a block not listed has never been written (R163,
R278). -/
abbrev Seals := List (Nat × List Word64)

/-- A version record of a home's share of the log (R228): its index is its place in the share. -/
structure Version where
  func : Nat
  index : Nat
  line : Nat
  stamp : Stamp
  /-- STAMP of the record that BACK names, or KS: the stamp of the event that wrote the image (R228). -/
  prev : Stamp
  back : Option Nat
  skip : Option Nat
  image : List Byte
  /-- The keys of the image (R163). -/
  seals : Seals
  deriving DecidableEq, Repr, Inhabited

/-- A line of a home cache (R173): its way, LSTAMP, its replacement mark, and its owner's tag (R175, R216, R284). -/
structure HLine where
  line : Nat
  way : Nat
  stamp : Stamp
  mark : Mark
  func : Nat
  deriving DecidableEq, Repr, Inhabited

/-- A tower (R15, R173, R174, R213). The lines of each cache stand with the latest filled first. -/
structure Tower where
  count : Nat
  eFloor : Stamp
  home : List HLine
  keeps : List Keep
  log : List Version
  remote : List RLine
  tlb : List TlbEntry
  /-- The ways of the home cache that are out of service (R26). -/
  retiredWays : List Nat
  deriving DecidableEq, Repr, Inhabited

/-- A plane of the array: the bytes of each of its 32 columns (R240). -/
structure Plane where
  weight : List (List Byte)
  scale : List (List Byte)
  mdata : List (List Byte)
  sparse : Bool
  deriving DecidableEq, Repr, Inhabited

/-- The plane with every byte zero (R241). -/
def Plane.zero : Plane := ⟨List.replicate 32 [], List.replicate 32 [], List.replicate 32 [], false⟩

/-- A matrix operation (R243 to R245, R265), with the scratchpad addresses its registers gave at issue. -/
inductive MatKind where
  | ldstat (k : KCode) (t : MType) (sparse : Bool) (b c : Nat)
  | swaps
  | mma (z : Nat) (m : MRows) (k : KCode) (t : MType) (acc sparse : Bool) (a : Nat)
  | rmma (z pal : Nat) (t : WType) (rows : Nat) (acc : Bool) (a kbase : Nat)
  deriving DecidableEq, Repr, Inhabited

/-- An entry of the array queue (R250). -/
structure MatOp where
  id : Nat
  block : Nat
  /-- The waves whose M counts it. -/
  waves : List Nat
  kind : MatKind
  /-- Its gang: the group, or none and the wave for a gang of one (R251). -/
  gang : Option Nat
  lead : Nat
  waitMask : BitVec 8
  setSlot : Option (BitVec 3)
  begun : Bool
  /-- Core cycle at which it began, or went on after it was frozen (R253, R255). -/
  beginAt : Nat
  /-- The core cycles for which it holds the stream or the read port, found when it begins (R253, R266). -/
  cycles : Nat
  /-- Core cycles that it had run when it was frozen, and the sums of the rows that it had streamed (R158, R255). -/
  ran : Nat
  sums : List (List Nat)
  deriving DecidableEq, Repr, Inhabited

/-- A block (R90, R209). -/
structure Block where
  launch : Nat
  /-- Linear index (R55). -/
  index : Nat
  core : Nat
  p0 : Nat
  status : BlockStatus
  waves : List Nat
  scratch : Scratch
  tiles : List Tile
  pals : List (List Word)
  phases : List Bool
  /-- Arrival marks: group, wave index in the block, split-table entry (R292). -/
  marks : List (Nat × Nat × Nat)
  latch : List LatchEntry
  bsf : Stamp
  /-- Core cycle of the victim choice (R79). -/
  victim : Option Nat
  /-- The waiting block for which it was chosen: its launch and linear index (R78). -/
  victimFor : Nat × Nat
  /-- The scope of the release of its last eviction, at which its restoration acquires (R81, R82). -/
  moved : Scope
  /-- Order of its last placement or restoration (R76). -/
  placed : Nat
  /-- Ways, tile slots and palette set that it holds on its core. -/
  ways : List Nat
  tileSlots : List Nat
  palSlot : Nat
  /-- Offset of its record in the save area in 4 KiB units, its size, and whether software has written it (R208, R211). -/
  save : Option (Nat × Nat)
  invalid : Bool
  /-- The planes of its array image, active and shadow, and the operations of the queue saved with it (R255). -/
  image : Option (Plane × Plane)
  queue : List MatOp
  deriving DecidableEq, Repr, Inhabited

/-- A rank-class operation (R258, R263, R268). -/
inductive RankKind where
  | rank (cands : List RankElem) (cutoff : Nat) (cont : Bool) (a : Nat)
  | ldpal (pal a : Nat)
  | rkrec (pal a b v : Nat) (t : PType) (exec : Mask)
  deriving DecidableEq, Repr, Inhabited

/-- An entry of a core's rank engine (R262). -/
structure RankOp where
  id : Nat
  wave : Nat
  block : Nat
  kind : RankKind
  deriving DecidableEq, Repr, Inhabited

/-- A partition's histogram of a function: the cycles by number of eligible waves, and by stall reason (R287). -/
structure Hist where
  func : Nat
  bins : List Nat
  reasons : List Nat
  deriving DecidableEq, Repr, Inhabited

/-- A partition of a core (R18). -/
structure Part where
  wc : List WcLine
  /-- Core cycle from which its vector datapath is free (R22). -/
  dpFree : Nat
  /-- Core cycle from which the partition has its next issue choice: it makes one in every core cycle (R73). -/
  turnAt : Nat
  stopped : Bool
  /-- Core cycle at which it was stopped (R285). -/
  stopAt : Nat
  /-- Histograms, one for each function that had the oldest wave here (R287). -/
  hists : List Hist
  /-- The launch that last held each unit of 128 lane-registers, where one has (R176). -/
  regOwner : List (Nat × Nat)
  /-- Core cycles of its last samples, each with its function (R287). -/
  sampledAt : List (Nat × Nat)
  deriving DecidableEq, Repr, Inhabited

/-- The matrix array of a core (R240, R241). -/
structure Array' where
  holder : Option Nat
  active : Plane
  shadow : Plane
  queue : List MatOp
  /-- Core cycle from which an operation may begin: the clear for a new holder, or the reload of an image, has ended (R211, R241). -/
  readyAt : Nat
  deriving DecidableEq, Repr, Inhabited

/-- A core (R18). -/
structure Core where
  gen : BitVec 8
  l1 : List L1Line
  tlb : List TlbEntry
  pins : List Pin
  /-- HZcopy of each function that has one here (R230). -/
  hz : List (Nat × Stamp)
  /-- The core's copy of its home count (R213). -/
  now : Nat
  array : Array'
  rankq : List RankOp
  parts : List Part
  /-- The launch that last held each scratchpad way, tile slot, palette set and wave slot (R176). -/
  wayOwner : List (Option Nat)
  tileOwner : List (Option Nat)
  palOwner : List (Option Nat)
  slotOwner : List (Option Nat)
  deriving DecidableEq, Repr, Inhabited

/-- A launch queue's registers (R49). -/
structure Queue where
  base : Nat
  log2 : Nat
  ceil : Nat
  head : Nat
  tail : Nat
  /-- Reading stopped at HEAD until the next doorbell (R50). -/
  stopped : Bool
  deriving DecidableEq, Repr, Inhabited

/-- A raise under way or waiting at the horizon agent (R230). -/
structure Raise where
  h : Stamp
  /-- The wave whose SETC of c12 asked for it. -/
  wave : Option Nat
  /-- The tower whose full share asked for it (R231). -/
  tower : Option Nat
  deriving DecidableEq, Repr, Inhabited

/-- What a request for an invalidation has found (R277): the store requests and engine operations numbered so far, the base-die cycle, the core cycle of
each die, the physical pages that the matching entries name, the accesses that wait on their orders, by wave and order, and the waits on words of
memory, by wave, entry and beginning. -/
structure InvMark where
  req : Nat
  op : Nat
  tick : Nat
  cycles : List Nat
  pages : List Nat
  orders : List (Nat × Nat)
  waits : List (Nat × Nat × Nat)
  deriving DecidableEq, Repr, Inhabited

/-- The registers of a function (R49, R70, R99, R189, R208, R229, R275, R277, R280, R284 to R288). -/
structure Func where
  queues : List Queue
  fage : Word
  fslice : Nat
  vfyBusy : Bool
  vfyReq : Nat
  vfyOp : Bool
  vfyResult : Nat
  vfyReason : Nat
  vfyWord : Nat
  fpin : Nat
  saveBase : Nat
  saveSize : Nat
  hlogBase : Nat
  hlogQuota : Nat
  hwmin : Nat
  hz : Stamp
  hold : Stamp
  hownEn : Bool
  hStall : Bool
  hBreach : Bool
  raising : Option Raise
  /-- Cores that have not acknowledged the raise (R230). -/
  acks : List Nat
  raises : List Raise
  keepBusy : Bool
  keepReq : Nat
  keepOp : Bool
  keepResult : Nat
  keepKs : Stamp
  floor : Stamp
  ptRoot : Nat
  ptEn : Bool
  memBase : Nat
  memSize : Nat
  cores : List Word64
  peers : BitVec 16
  susp : Bool
  invBusy : Bool
  invPage : Nat
  invAll : Bool
  invMark : InvMark
  attn : List Word64
  attBusy : Bool
  attMore : Bool
  attAddr : Nat
  attStart : Nat
  /-- The store requests of the report that is being written (R280). -/
  attOut : List Nat
  cntSel : List Word
  cntVal : List Nat
  cntOvf : BitVec 8
  fdbg : Word
  dbgStopped : Bool
  dbgBuf : Nat
  samp : Nat
  sampBuf : Nat
  sampIdx : Nat
  replay : Nat
  replayBuf : Nat
  replayIdx : Nat
  /-- The first mismatch of a comparison: launch, block, wave, PC, expected and actual count; empty for none (R288). -/
  replayMiss : List Nat
  deriving DecidableEq, Repr, Inhabited

/-- A compute die: elapsed core cycles in 1/32 of a cycle, the clock in sixteenths of the rated clock, and whether placement is
withheld (R75). -/
structure Die where
  acc : Nat
  rate : Nat
  withheld : Bool
  deriving DecidableEq, Repr, Inhabited

/-- A page that the checks of an engine operation passed: virtual and physical page, and its key. -/
structure PageUse where
  vpage : Nat
  page : Nat
  key : Nat
  deriving DecidableEq, Repr, Inhabited

/-- A copy in flight (R302 to R306). The pages its checks passed are in `map`. -/
structure CopyOp where
  id : Nat
  wave : Nat
  block : Nat
  /-- Kind code of R114. -/
  kind : Nat
  src : Nat
  dst : Nat
  n : Nat
  notify : Nat
  value : Word
  rows : List Nat
  stamp : Stamp
  map : List PageUse
  /-- The destination lies on a KEEP page (R218). -/
  keep : Bool
  sf : Stamp
  /-- Bytes moved so far, and the largest stamp of their reads and writes (R217, R231). -/
  moved : Nat
  top : Stamp
  deriving DecidableEq, Repr, Inhabited

/-- A ZLD or ZST in flight (R379). -/
structure XferOp where
  id : Nat
  wave : Nat
  block : Nat
  z : Nat
  isLoad : Bool
  addr : Nat
  map : List PageUse
  keep : Bool
  sf : Stamp
  deriving DecidableEq, Repr, Inhabited

/-- A strong access of a launch with DBG set (R186): base-die cycle, address and size. -/
structure Strong where
  tick : Nat
  addr : Nat
  size : Nat
  deriving DecidableEq, Repr, Inhabited

/-- A pair of overlapping strong accesses of different sizes that a home reports (R186). -/
structure StrongPair where
  addr1 : Nat
  size1 : Nat
  addr2 : Nat
  size2 : Nat
  deriving DecidableEq, Repr, Inhabited

/-- A verified code page with the digest recorded for it (R99). -/
structure Verified where
  page : Nat
  func : Nat
  digest : List Byte
  deriving DecidableEq, Repr, Inhabited

/-- The machine. -/
structure State where
  /-- Physical memory in its canonical form: addresses rising, no listed byte 0 (log 1: DESIGN CHOICE). -/
  mem : List Host.Cell
  /-- Base-die cycles since reset (R9, R23). -/
  tick : Nat
  dies : List Die
  /-- The model's own: the events still to come from outside, each with the base-die cycles before it (log 2: DESIGN CHOICE). -/
  agenda : List (Nat × Instr)
  /-- The model's own: whose turn the next step is (log 2: DESIGN CHOICE). -/
  turn : Nat
  /-- The model's own: the wave on the issue port (log 2: DESIGN CHOICE). -/
  issuing : Nat
  /-- The model's own: words issued so far, the order of `Wave.lastIssue`. -/
  issues : Nat
  /-- The model's own: how many free values have been drawn (log 3: DESIGN CHOICE). -/
  free : Nat
  funcs : List Func
  launches : List Launch
  blocks : List Block
  waves : List Wave
  cores : List Core
  towers : List Tower
  /-- Store requests that wait at their home, in order of arrival (R173, R214). -/
  reqs : List Req
  nextReq : Nat
  resvs : List Resv
  copies : List CopyOp
  xfers : List XferOp
  nextOp : Nat
  placements : Nat
  verified : List Verified
  /-- The keys under which memory is encrypted (R163). -/
  seals : Seals
  /-- Key slots: the loaded key pair, or none (R278). -/
  keys : List (Option (List Word64))
  keyData : List Word64
  /-- The running key command: load, and its key index (R278). -/
  keyCmd : Option (Bool × Nat)
  keyResult : Nat
  /-- Bytes of the device's own records that a pin holds back, with the key of each write: they are written when the pin has ended (R187). -/
  late : List (Nat × List (Nat × Byte))
  hcwBase : Nat
  hcwSize : Nat
  fwStat : Nat
  /-- The number of the firmware image that runs: it rises when a staged update takes effect (R279). -/
  fwImage : Nat
  spCore : List Word
  spDram : Nat
  spRows : Nat
  spWays : Nat
  spErr : Nat
  degraded : Bool
  /-- Firmware or the power controller places nothing more until reset (R26, R279, R290). -/
  noPlace : Bool
  /-- The boot ROM found no genuine image (R279). -/
  recovery : Bool
  /-- Base-die cycle of the last clock exchange (R213). -/
  lastExchange : Nat
  /-- Interrupts and error reports sent: function and vector (R289). -/
  irqs : List (Nat × Nat)
  /-- The strong accesses of the last 8,192 base-die cycles, and the debug events reported (R186). -/
  strong : List Strong
  dbgEvents : List StrongPair
  /-- The lanes in use of each fabric port, 0 to 15, and of each tower link, 16 to 21 (R25, R281). -/
  links : List (Nat × Word)
  /-- The last value a host or peer read returned (R272, R282). -/
  busData : List Byte
  deriving DecidableEq, Repr, Inhabited

/-- A queue at reset (R49). -/
def Queue.reset : Queue := ⟨0, 4, 0, 0, 0, false⟩

/-- A function's registers at reset, with the reset values of the rules that give them; the others are 0 (log 6: DESIGN CHOICE). -/
def Func.reset : Func where
  queues := List.replicate 8 Queue.reset
  fage := 0x000F4240
  fslice := 0x186A0
  vfyBusy := false
  vfyReq := 0
  vfyOp := false
  vfyResult := 0
  vfyReason := 0
  vfyWord := 0
  fpin := 0x010000
  saveBase := 0
  saveSize := 0
  hlogBase := 0
  hlogQuota := 0
  hwmin := 0
  hz := 0
  hold := 0xFFFFFFFFFFFFFFFF
  hownEn := false
  hStall := false
  hBreach := false
  raising := none
  acks := []
  raises := []
  keepBusy := false
  keepReq := 0
  keepOp := false
  keepResult := 0
  keepKs := 0
  floor := 0
  ptRoot := 0
  ptEn := false
  memBase := 0
  memSize := 0
  cores := [0, 0, 0]
  peers := 0
  susp := false
  invBusy := false
  invPage := 0
  invAll := false
  invMark := ⟨0, 0, 0, [], [], [], []⟩
  attn := [0, 0, 0, 0]
  attBusy := false
  attMore := false
  attAddr := 0
  attStart := 0
  attOut := []
  cntSel := List.replicate 8 0
  cntVal := List.replicate 8 0
  cntOvf := 0
  fdbg := 0
  dbgStopped := false
  dbgBuf := 0
  samp := 0
  sampBuf := 0
  sampIdx := 0
  replay := 0
  replayBuf := 0
  replayIdx := 0
  replayMiss := []

/-- A partition at reset. -/
def Part.reset : Part := ⟨[], 0, 0, false, 0, [], [], []⟩

/-- The array at reset: no holder, both planes zero (R241). -/
def Array'.reset : Array' := ⟨none, Plane.zero, Plane.zero, [], 0⟩

/-- A core at reset. -/
def Core.reset : Core where
  gen := 0
  l1 := []
  tlb := []
  pins := []
  hz := []
  now := 0
  array := Array'.reset
  rankq := []
  parts := List.replicate 4 Part.reset
  wayOwner := List.replicate 40 none
  tileOwner := List.replicate 64 none
  palOwner := List.replicate 8 none
  slotOwner := List.replicate 64 none

/-- A tower at reset: its count is 0 (R213). -/
def Tower.reset : Tower := ⟨0, 0, [], [], [], [], [], []⟩

/-- The machine right after reset: nothing is running, every count is 0 and every register of every function is at its reset value. -/
def State.reset : State where
  mem := []
  tick := 0
  dies := List.replicate 8 ⟨0, 16, false⟩
  agenda := []
  turn := 0
  issuing := 0
  issues := 0
  free := 0
  funcs := List.replicate 129 Func.reset
  launches := []
  blocks := []
  waves := []
  cores := List.replicate 192 Core.reset
  towers := List.replicate 4 Tower.reset
  reqs := []
  nextReq := 0
  resvs := []
  copies := []
  xfers := []
  nextOp := 0
  placements := 0
  verified := []
  seals := []
  keys := List.replicate 128 none
  keyData := List.replicate 8 0
  keyCmd := none
  keyResult := 0
  late := []
  hcwBase := 0
  hcwSize := 0
  fwStat := 1
  fwImage := 0
  spCore := List.replicate 8 0x3000000
  spDram := 0
  spRows := 0
  spWays := 0
  spErr := 0
  degraded := false
  noPlace := false
  recovery := false
  lastExchange := 0
  irqs := []
  strong := []
  dbgEvents := []
  links := []
  busData := []

/-- The outcome of a meaning. -/
abbrev Out := Host.Outcome State Fault Refusal

end Sys2Proof.Machine
end

