-- ==== Sys2Proof/Machine/Flags.lean ====
section
/-! DEFINITION. The conditions that SCC, the masks of VCMP and the wait forms take from two values (R106, R340, R363, R371). -/

namespace Sys2Proof.Machine

/-- A condition on two values of one width: EQ to GE signed, ULT to UGE unsigned (R340). -/
def Cond.holds {n : Nat} (c : Cond) (a b : BitVec n) : Bool :=
  match c with
  | .eq => a == b
  | .ne => a != b
  | .lt => a.slt b
  | .le => a.sle b
  | .gt => b.slt a
  | .ge => b.sle a
  | .ult => a.ult b
  | .ule => a.ule b
  | .ugt => b.ult a
  | .uge => b.ule a

/-- An integer condition of VCMP (R363); ORD and UNORD are reserved on the integer types (R108). -/
def VCond.onInt {n : Nat} (c : VCond) (a b : BitVec n) : Bool :=
  match c with
  | .eq => a == b
  | .ne => a != b
  | .lt => a.slt b
  | .le => a.sle b
  | .gt => b.slt a
  | .ge => b.sle a
  | .ult => a.ult b
  | .ule => a.ule b
  | .ugt => b.ult a
  | .uge => b.ule a
  | .ord => true
  | .unord => false

/-- A condition of WAITA: unsigned (R371). -/
def WCond.holds (c : WCond) (w v : Word) : Bool :=
  match c with
  | .eq => w == v
  | .ne => w != v
  | .uge => v.ule w
  | .ult => w.ult v

/-- The larger of two stamps, compared unsigned (R212). -/
def maxStamp (a b : Stamp) : Stamp := if a.ult b then b else a

/-- The stamp of a count and a tower (R212, R214). -/
def stampOf (count tower : Nat) : Stamp := BitVec.ofNat 64 (count * 4 + tower)

/-- COUNT of a stamp (R212). -/
def stampCount (s : Stamp) : Nat := s.toNat / 4

end Sys2Proof.Machine
end

