-- ==== Sys2Proof/Machine/Mem.lean ====
section
/-! DEFINITION. Memory: the canonical list of (address, byte) pairs, and little-endian access to any byte space (R4). -/

namespace Sys2Proof.Machine

/-- The canonical form of memory: addresses strictly rising, and no listed byte equal to what an unlisted address reads as. -/
abbrev Memory.wf (m : List Host.Cell) : Prop := m.Pairwise (fun x y => x.1 < y.1) ∧ ∀ c ∈ m, c.2 ≠ 0

/-- The listed byte at an address. -/
def Cells.get : List Host.Cell → Nat → Option Byte
  | [], _ => none
  | (k, b) :: r, a => if k = a then some b else Cells.get r a

/-- The list with the byte at an address listed as `b`. -/
def Cells.put : List Host.Cell → Nat → Byte → List Host.Cell
  | [], a, b => [(a, b)]
  | (k, v) :: r, a, b =>
    if a < k then (a, b) :: (k, v) :: r
    else if a = k then (a, b) :: r
    else (k, v) :: Cells.put r a b

/-- The list with no entry at an address. -/
def Cells.drop (m : List Host.Cell) (a : Nat) : List Host.Cell := m.filter fun c => c.1 != a

/-- What an unlisted address of memory reads as (log 1: DESIGN CHOICE). -/
def Memory.unlisted : Byte := 0

/-- The byte of memory at a physical address. -/
def Memory.read (m : List Host.Cell) (a : Nat) : Byte := (Cells.get m a).getD Memory.unlisted

/-- Memory with one byte written, in canonical form. -/
def Memory.write (m : List Host.Cell) (a : Nat) (b : Byte) : List Host.Cell :=
  if b = Memory.unlisted then Cells.drop m a else Cells.put m a b

/-- Memory with the listed bytes written in order. -/
def Memory.writeAll (m : List Host.Cell) : List (Nat × Byte) → List Host.Cell
  | [] => m
  | (a, b) :: r => Memory.writeAll (Memory.write m a b) r

/-- The little-endian value of `n` bytes from `a` in a byte space (R4). -/
def leNat (f : Nat → Byte) (a : Nat) : Nat → Nat
  | 0 => 0
  | n + 1 => (f a).toNat + 256 * leNat f (a + 1) n

/-- The `n` bytes of a value from `a` up, least significant first (R4). -/
def leBytes (a x : Nat) : Nat → List (Nat × Byte)
  | 0 => []
  | n + 1 => (a, BitVec.ofNat 8 x) :: leBytes (a + 1) (x / 256) n

/-- The bytes at addresses `a` to `a + n - 1`. -/
def bytesAt (f : Nat → Byte) (a : Nat) : Nat → List Byte
  | 0 => []
  | n + 1 => f a :: bytesAt f (a + 1) n

/-- A byte list placed from `a` up. -/
def placeBytes (a : Nat) : List Byte → List (Nat × Byte)
  | [] => []
  | b :: r => (a, b) :: placeBytes (a + 1) r

/-- The members of a list, each once, in the order of their first place. -/
def distinct : List Nat → List Nat
  | [] => []
  | x :: r => x :: (distinct r).filter fun y => y != x

/-- One byte of physical memory, as it was written. -/
def State.peek (s : State) (a : Nat) : Byte := Memory.read s.mem a

/-- A 32-bit word of physical memory. -/
def State.peek32 (s : State) (a : Nat) : Word := BitVec.ofNat 32 (leNat s.peek a 4)

/-- A 64-bit word of physical memory. -/
def State.peek64 (s : State) (a : Nat) : Word64 := BitVec.ofNat 64 (leNat s.peek a 8)

/-- The state with the listed bytes of physical memory written. -/
def State.poke (s : State) (bs : List (Nat × Byte)) : State := { s with mem := Memory.writeAll s.mem bs }

/-! ### Encryption (R163, R278) -/

/-- The key pair in a slot; an access without a key names `Config.pf`, which is no slot. The device's own accesses without a key read a byte as it
was written (`State.peek`) and leave its key (log 8: DESIGN CHOICE). -/
def State.pair (s : State) (key : Nat) : Option (List Word64) := s.keys.getD key none

/-- The key pair under which the block of an address is encrypted. -/
def sealOf (t : Seals) (a : Nat) : Option (List Word64) := (t.find? fun x => x.1 == a / 16).map fun x => x.2

/-- A byte read through a key pair, or through none: as it was written under that pair, else what decrypting under another gives (R163, R278). -/
def decipher (t : Seals) (pair : Option (List Word64)) (f : Nat → Byte) (a : Nat) : Byte :=
  match sealOf t a with
  | none => f a
  | some w => if pair = some w then f a else Config.throughKey w (pair.getD []) (a / 16) (bytesAt f (a / 16 * 16) 16) (a % 16)

/-- A byte of physical memory read through the key in a slot. -/
def State.peekBy (s : State) (key a : Nat) : Byte := decipher s.seals (s.pair key) s.peek a

/-- The blocks of some addresses come to stand under the key in a slot: those that stand under another take the bytes that it reads there
(R163). -/
def State.reseal (s : State) (key : Nat) (as : List Nat) : State :=
  match s.pair key with
  | none => s
  | some p =>
    let blocks := distinct (as.map fun a => a / 16)
    let other := blocks.filter fun b => sealOf s.seals (16 * b) != none && sealOf s.seals (16 * b) != some p
    let t := s.poke (other.flatMap fun b => placeBytes (16 * b) (bytesAt (s.peekBy key) (16 * b) 16))
    { t with seals := (blocks.map fun b => (b, p)) ++ s.seals.filter fun x => !blocks.contains x.1 }

/-- Bytes written through the key in a slot. -/
def State.pokeBy (s : State) (key : Nat) (bs : List (Nat × Byte)) : State := (s.reseal key (bs.map fun b => b.1)).poke bs

/-- What was encrypted under a pair can never be read again (R278). -/
def Seals.lose (t : Seals) (pair : List Word64) : Seals := t.map fun x => if x.2 = pair then (x.1, []) else x

/-- The line of a physical address (R21). -/
def lineOf (a : Nat) : Nat := a / 128 * 128

/-- The home tower of a physical address (R16). -/
def homeOf (a : Nat) : Nat := a / 65536 % 4

/-- The peer that a physical address names, 1 to 15; 0 for the device's own memory (R282). -/
def peerOf (a : Nat) : Nat := a / 2 ^ 48 % 16

/-- Some memory answers at the physical address: the device's 384 GiB, or a peer (R21, R282). -/
def physOk (a : Nat) : Bool := peerOf a != 0 || a < Config.memoryBytes

/-- A byte of a scratchpad (R90). -/
def Scratch.get (c : Scratch) (a : Nat) : Byte :=
  match Cells.get c.cells a with
  | some b => b
  | none => match c.fills.getD (a / 16384) .zero with
    | .zero => 0
    | .undef seed => Config.undefByte (seed + a)

/-- A scratchpad with the listed bytes written. -/
def Scratch.put (c : Scratch) (bs : List (Nat × Byte)) : Scratch :=
  { c with cells := bs.foldl (fun m x => Cells.put m x.1 x.2) c.cells }

/-- The little-endian value of `n` bytes of a scratchpad. -/
def Scratch.nat (c : Scratch) (a n : Nat) : Nat := leNat c.get a n

end Sys2Proof.Machine
end

