-- ==== Sys2Proof/Machine/Ops.lean ====
section
/-! DEFINITION. The named operations over the registers of a wave and over the units of the machine: reading and writing registers,
ending a word, fragments and their fusion, taking a trap and ending a launch, and the passing of time. -/

namespace Sys2Proof.Machine

/-! ### Registers of a wave (R30, R31, R86, R327) -/

/-- The lanes 0 to W - 1 (R6). -/
def Wave.lanes (w : Wave) : Mask := BitVec.ofNat 64 (2 ^ w.width - 1)

/-- The split-table entry of the current fragment (R39). -/
def Wave.frag (w : Wave) : Frag := w.frags.getD w.cur Frag.none

/-- A mask register within W (R30). -/
def Wave.m (w : Wave) (r : MReg) : Mask := w.mregs.getD r.toNat 0 &&& w.lanes

/-- EXEC (R86). -/
def Wave.exec (w : Wave) : Mask := w.m 0

/-- A write to a mask register within W; a write to m0 stays within the MASK of the current fragment (R30, R327). -/
def Wave.setM (w : Wave) (r : MReg) (x : Mask) : Wave :=
  { w with mregs := w.mregs.set r.toNat (if r = 0 then x &&& w.lanes &&& w.frag.mask else x &&& w.lanes) }

/-- EXEC set by the device itself: at a switch, a split, a trap or a return (R39, R198). -/
def Wave.setExec (w : Wave) (x : Mask) : Wave := { w with mregs := w.mregs.set 0 (x &&& w.lanes) }

/-- A scalar register: s0 reads 0 (R86). -/
def Wave.s (w : Wave) (r : SReg) : Word := if r = 0 then 0 else w.sregs.getD r.toNat 0

/-- A write to a scalar register: s0 discards it (R86). -/
def Wave.setS (w : Wave) (r : SReg) (x : Word) : Wave := if r = 0 then w else { w with sregs := w.sregs.set r.toNat x }

/-- The scalar pair at an even register (R5). -/
def Wave.s64 (w : Wave) (r : SReg) : Word64 := w.s (r + 1) ++ w.s r

/-- The target in a scalar pair: bits [63:52] and [1:0] are ignored (R314). -/
def Wave.pairTarget (w : Wave) (r : SReg) : VAddr := (w.s64 r).setWidth 52 &&& ~~~ 3

/-- A write to a scalar pair, even register first; of s0:s1 only the s0 half is discarded (R5, R336). -/
def Wave.setS64 (w : Wave) (r : SReg) (x : Word64) : Wave :=
  (w.setS r (x.setWidth 32)).setS (r + 1) ((x >>> 32).setWidth 32)

/-- A lane of a vector register by number; a register at or above V reads 0 (R31). -/
def Wave.vn (w : Wave) (r l : Nat) : Word := (w.vregs.getD r []).getD l 0

/-- A lane of a vector register. -/
def Wave.v (w : Wave) (r : VReg) (l : Nat) : Word := w.vn r.toNat l

/-- A lane of a vector pair (R5). -/
def Wave.v64 (w : Wave) (r : VReg) (l : Nat) : Word64 := w.vn (r.toNat + 1) l ++ w.vn r.toNat l

/-- The lanes of a register from lane `l` on: those of a mask take their new value, the others keep theirs (R353). -/
def mergeLanes (m : Mask) (f : Nat → Word) : Nat → List Word → List Word
  | _, [] => []
  | l, x :: xs => (if m.getLsbD l then f l else x) :: mergeLanes m f (l + 1) xs

/-- A write to the lanes of a mask of the register by number; a register at or above V discards it (R31). -/
def Wave.setVn (w : Wave) (r : Nat) (m : Mask) (f : Nat → Word) : Wave :=
  { w with vregs := w.vregs.modify r (mergeLanes m f 0) }

/-- A write to the lanes of EXEC (R353). -/
def Wave.setV (w : Wave) (r : VReg) (f : Nat → Word) : Wave := w.setVn r.toNat w.exec f

/-- A write to the lanes of EXEC of a pair; the values are read before either register is written (R5, R353). -/
def Wave.setV64 (w : Wave) (r : VReg) (f : Nat → Word64) : Wave :=
  (w.setVn r.toNat w.exec fun l => (f l).setWidth 32).setVn (r.toNat + 1) w.exec fun l => (f l >>> 32).setWidth 32

/-- A value for each lane 0 to W - 1. -/
def Wave.perLane {α : Type} (w : Wave) (f : Nat → α) : List α := (List.range w.width).map f

/-- The lanes of EXEC, ascending. -/
def Wave.active (w : Wave) : List Nat := (List.range w.width).filter fun l => w.exec.getLsbD l

/-- A register write of a returned long-class result (R91). -/
def Wave.applyWrite (w : Wave) : RegWrite → Wave
  | .s r x => w.setS (BitVec.ofNat 6 r) x
  | .v r m xs => w.setVn r m fun l => xs.getD l 0

/-- SF raised to at least a stamp; SF never falls (R217). -/
def Wave.raise (w : Wave) (x : Stamp) : Wave := { w with sf := maxStamp w.sf x }

/-- The outstanding operations of a class by issue order (R87, R191). -/
def Wave.out (w : Wave) : EClass → List Nat
  | .c => w.outC
  | .m => w.outM
  | .k => w.outK
  | .d => w.outD

/-- An engine counter (R87). -/
def Wave.counter (w : Wave) (cls : EClass) : Nat := (w.out cls).length

/-- The outstanding operations of a class replaced. -/
def Wave.setOut (w : Wave) (cls : EClass) (l : List Nat) : Wave :=
  match cls with
  | .c => { w with outC := l }
  | .m => { w with outM := l }
  | .k => { w with outK := l }
  | .d => { w with outD := l }

/-! ### Units of the machine -/

/-- The state with one wave changed. -/
def State.modWave (s : State) (i : Nat) (f : Wave → Wave) : State := { s with waves := s.waves.modify i f }
/-- The state with one block changed. -/
def State.modBlock (s : State) (i : Nat) (f : Block → Block) : State := { s with blocks := s.blocks.modify i f }
/-- The state with one launch changed. -/
def State.modLaunch (s : State) (i : Nat) (f : Launch → Launch) : State := { s with launches := s.launches.modify i f }
/-- The state with one core changed. -/
def State.modCore (s : State) (i : Nat) (f : Core → Core) : State := { s with cores := s.cores.modify i f }
/-- The state with one tower changed. -/
def State.modTower (s : State) (i : Nat) (f : Tower → Tower) : State := { s with towers := s.towers.modify i f }
/-- The state with one function's registers changed. -/
def State.modFunc (s : State) (i : Nat) (f : Func → Func) : State := { s with funcs := s.funcs.modify i f }

/-- A wave by number. -/
def State.wave (s : State) (i : Nat) : Wave := s.waves.getD i default
/-- A block by number. -/
def State.block (s : State) (i : Nat) : Block := s.blocks.getD i default
/-- A launch by sequence number. -/
def State.launch (s : State) (i : Nat) : Launch := s.launches.getD i default
/-- A core by its logical number (R17). -/
def State.core (s : State) (i : Nat) : Core := s.cores.getD i default
/-- A tower. -/
def State.tower (s : State) (i : Nat) : Tower := s.towers.getD i default
/-- A function's registers: VF n at n, the PF at 128. -/
def State.func (s : State) (i : Nat) : Func := s.funcs.getD i default

/-- The die of a core (R20). -/
def dieOf (core : Nat) : Nat := core / 24
/-- The tower of a core (R17). -/
def towerOf (core : Nat) : Nat := core / 48

/-- Core cycles since reset of each die. -/
def State.dieCycles (s : State) : List Nat := s.dies.map fun d => d.acc / 32

/-- A launch takes a level; on each die the level before acts until the present core cycle is over (R71). -/
def Launch.relevel (l : Launch) (cycles : List Nat) (lvl : Nat) : Launch :=
  { l with
    lvl := lvl
    lvlWas := (List.range cycles.length).map fun d =>
      let c := cycles.getD d 0
      match l.lvlWas[d]? with
      | some x => if x.1 = c then x else (c, l.lvl)
      | none => (c, l.lvl) }

/-- Core cycles since reset of the die of a core (R75, R88). -/
def State.cycle (s : State) (core : Nat) : Nat := (s.dies.getD (dieOf core) default).acc / 32

/-- The block of a wave. -/
def State.blockOf (s : State) (w : Wave) : Block := s.block w.block
/-- The launch of a wave. -/
def State.launchOf (s : State) (w : Wave) : Launch := s.launch (s.blockOf w).launch
/-- The core of a wave. -/
def State.coreOf (s : State) (w : Wave) : Nat := (s.blockOf w).core
/-- The function of a wave's launch. -/
def State.funcOf (s : State) (w : Wave) : Nat := (s.launchOf w).func

/-- The wave on the issue port: the issuing wave of R12. -/
def State.cur (s : State) : Option Wave := s.waves[s.issuing]?

/-- The outcome of a meaning that needs the issuing wave. -/
def State.onWave (s : State) (f : Wave → Out) : Out :=
  match s.cur with
  | none => .fault .noIssuingWave
  | some w => f w

/-- The state with the issuing wave replaced. -/
def State.setCur (s : State) (w : Wave) : State := { s with waves := s.waves.set s.issuing w }

/-- The outcome of a meaning that changes the issuing wave alone. -/
def State.updWave (s : State) (f : Wave → Wave) : Out := s.onWave fun w => .next (s.setCur (f w))

/-- The outcome of a meaning or an event that always goes on. -/
def State.done (s : State) : Out := .next s

/-- Interrupts and error reports are messages to a function's system software (R289). -/
def State.interrupt (s : State) (func vector : Nat) : State := { s with irqs := s.irqs ++ [(func, vector)] }

/-- Every block of the function that is resident (R276). -/
def State.residentOf (s : State) (func : Nat) : List Nat :=
  (List.range s.blocks.length).filter fun i =>
    ((s.block i).status == .resident || (s.block i).status == .stopped) && (s.launch (s.block i).launch).func == func

/-- SUSPD: the function is suspended and has no resident block (R275). -/
def State.suspd (s : State) (func : Nat) : Bool := (s.func func).susp && (s.residentOf func).isEmpty

/-- One counter of a function adds to its value; a wrap sets its overflow bit and, with OVIE, interrupts (R284). -/
def State.countOne (s : State) (func ev n i : Nat) : State :=
  let f := s.func func
  let sel := f.cntSel.getD i 0
  if sel.getLsbD 31 && (sel.toNat % 256 == ev) then
    let x := f.cntVal.getD i 0 + n
    let s := s.modFunc func fun f => { f with
      cntVal := f.cntVal.set i (x % 2 ^ 48)
      cntOvf := if x < 2 ^ 48 then f.cntOvf else f.cntOvf ||| (1 <<< i) }
    if x < 2 ^ 48 || !sel.getLsbD 30 then s else s.interrupt func 1
  else s

/-- An event of a function, counted by those of its counters that select it; never while SUSPD is 1 (R284). -/
def State.count (s : State) (func ev n : Nat) : State :=
  if (s.func func).cntSel.all (· == 0) || n == 0 || s.suspd func then s
  else (List.range 8).foldl (fun s i => s.countOne func ev n i) s

/-! ### Fragments (R39 to R45) -/

/-- A split-table entry changed. -/
def Wave.modFrag (w : Wave) (e : Nat) (f : Frag → Frag) : Wave := { w with frags := w.frags.modify e f }

/-- The entry of a number. -/
def Wave.fragAt (w : Wave) (e : Nat) : Frag := w.frags.getD e Frag.none

/-- The entries whose state is FREE, ascending. -/
def Wave.freeEntries (w : Wave) : List Nat := (List.range 8).filter fun e => (w.fragAt e).state == .free

/-- The entries in use other than `p` whose LINK is `p`. -/
def Wave.children (w : Wave) (p : Nat) : List Nat :=
  (List.range 8).filter fun e => e != p && (w.fragAt e).state != .free && (w.fragAt e).link == p

/-- Every entry is free: the wave has no lanes left (R28, R41). -/
def Wave.noLanes (w : Wave) : Bool := w.frags.all fun f => f.state == .free

/-- The next entry in state LIVE, searching upward from the current one and wrapping; the current one last (R43). -/
def Wave.nextLive (w : Wave) : Option Nat :=
  ((List.range 8).map fun k => (w.cur + 1 + k) % 8).find? fun e => (w.fragAt e).state == .live

/-- The current fragment leaves the wave's PC, EXEC and SCC in its entry (R39). -/
def Wave.stow (w : Wave) : Wave :=
  w.modFrag w.cur fun f => { f with pc := w.pc, xmask := w.exec, scc := w.scc, defer := w.defer }

/-- An entry becomes current: EXEC and SCC are loaded from it, and a new quantum begins (R39, R44). -/
def Wave.become (w : Wave) (e : Nat) : Wave :=
  let f := w.fragAt e
  { (w.setExec f.xmask) with cur := e, pc := f.pc, scc := f.scc, defer := f.defer, qcount := 0, qActive := w.quantum, hints := Hints.none }

/-- FRAGMENT_SWITCH: the wave issues from the next LIVE fragment; where only one can issue, nothing changes (R43). -/
def Wave.switch (w : Wave) : Wave :=
  match w.nextLive with
  | none => w
  | some e => if e = w.cur then { w with switchDue := false } else { w.stow.become e with switchDue := false }

/-- TryFuse and Arrive of R41, to the depth of the table. No long-class result is outstanding here. The fused entry keeps the deferral with
which it split or was held. Of a handler whose JOIN leaves a fused fragment without lanes, INTRAP stays 1 where its parent cannot fuse yet (R204, log
38: DESIGN CHOICE). -/
def Wave.fuse : Nat → Nat → Wave → Wave
  | 0, _, w => w
  | n + 1, p, w =>
    let f := w.fragAt p
    let kids := w.children p
    let parked := kids.filter fun e => (w.fragAt e).state == .parked
    if f.state = .held ∨ (f.state = .parent ∧ kids.all fun e => (w.fragAt e).state == .parked) then
      let u := parked.foldl (fun u e => u ||| (w.fragAt e).mask) (if f.state = .held then f.mask else 0)
      let w := parked.foldl (fun w e => w.modFrag e fun _ => Frag.none) w
      if u = 0 then
        -- nothing is left: p itself counts as arrived
        let w := w.modFrag p fun _ => Frag.none
        Wave.fuse n f.link w
      else
        let w := w.modFrag p fun f => { f with state := .live, mask := u }
        { (w.setExec u) with cur := p, pc := f.pc + 4, qcount := 0, qActive := w.quantum, hints := Hints.none, switchDue := false,
                             defer := f.defer }
    else w

/-- The fusion and the switch that waited for the wave's long-class results (R41, R43); none inside a handler (R45). -/
def Wave.settle (w : Wave) : Wave :=
  if w.pending.isEmpty then
    let w := match w.fuseDue with
      | none => w
      | some p => Wave.fuse 8 p { w with fuseDue := none }
    if w.switchDue && !w.inTrap then w.switch else w
  else w

/-- What a word is for the deferral of a switch (R43, R301, R356). -/
inductive WordKind where
  | plain | lr | sc | call | tramp | jmpi58
  deriving DecidableEq, Repr

/-- The deferral after a word and whether item 1 of R43 switches after it, given that the quantum is reached at a P = 1 word. An LR defers
only the switch that falls due at it, and one within the window of another begins none; a switch that falls due at a CALL as the window ends is
the CALL's (R301). -/
def deferAfter (k : WordKind) (p : Bool) (reached : Bool) (d : Defer) : Defer × Bool :=
  match k, d with
  | .tramp, _ => (.tramp, false)
  | .jmpi58, .tramp => (.none, reached)
  | _, .tramp => (.tramp, false)
  | _, .lr n =>
    if k = .sc ∧ n < 16 then (.none, true)
    else if 16 ≤ n + 1 ∧ p = true then (if k = .call then .call else .none, k != .call)
    else (.lr (n + 1), false)
  | .lr, _ => (if reached then .lr 0 else d, false)
  | .call, _ => (if reached then .call else d, false)
  | _, _ => (if reached then .none else d, reached)

/-- The deferral after a word of a handler, where no switch is made: a TRAMP and the JMPI that names s58 count, and so do the words after an LR
(R43, R45, R356). -/
def deferInTrap (k : WordKind) (d : Defer) : Defer :=
  match k, d with
  | .tramp, _ => .tramp
  | .jmpi58, .tramp => .none
  | _, .lr n => .lr (n + 1)
  | _, _ => d

/-- Another fragment has issued a TRAMP and not yet its JMPI of s58: the wave makes no switch under item 1 of R43 (R356). -/
def Wave.trampOpen (w : Wave) : Bool := (List.range 8).any fun e => e != w.cur && (w.fragAt e).state != .free && (w.fragAt e).defer == .tramp

/-- The book-keeping of a word that is done: it counts toward the quantum outside a handler, a P = 1 word holds the wave for its
pending results, and a switch may fall due (R43, R45, R92, R288). -/
def Wave.mark (w : Wave) (k : WordKind) (p : Bool) : Wave :=
  let q := w.qcount + 1
  let d := if w.inTrap then (deferInTrap k w.defer, false) else deferAfter k p (p && decide (w.qActive ≤ q)) w.defer
  { w with
    hints := Hints.none, retired := w.retired + 1, qcount := if w.inTrap then w.qcount else q, defer := d.1
    switchDue := w.switchDue || (d.2 && !w.trampOpen), held := p && !w.pending.isEmpty, marker := p, stall := .none, susp := none
    entering := false }

/-- The word is retired, and a fusion or switch that is due takes place (R41, R43). -/
def Wave.retired' (w : Wave) (k : WordKind) (p : Bool) : Wave := Wave.settle (w.mark k p)

/-- A word ends and the next one follows it (R83). -/
def Wave.step (w : Wave) (p : Bool) : Wave := Wave.retired' { w with pc := w.pc + 4 } .plain p

/-- A word of some kind ends and the next one follows it. -/
def Wave.stepAs (w : Wave) (k : WordKind) (p : Bool) : Wave := Wave.retired' { w with pc := w.pc + 4 } k p

/-- A taken branch: the whole fragment continues at a target (R298, R314). Its word has P = 1. -/
def Wave.jump (w : Wave) (k : WordKind) (t : VAddr) : Wave := Wave.retired' { w with pc := t } k true

/-- Core cycles between two reads of a waiting word on a peer page (R371). -/
def pollTick : Nat := 4096

/-- The current fragment waits at a blocking point: state WAIT, and the wave issues from another (item 3 of R43, R45). -/
def Wave.block' (w : Wave) (c : WaitFor) : Wave :=
  Wave.settle { (w.modFrag w.cur fun f => { f with state := .wait, wait := some c, waited := 0, pollAt := pollTick, since := w.retired, seen := none }) with switchDue := true }

/-- A waiting fragment's wait is satisfied: it is LIVE again (R43). Where its switch still waits for long-class results, the switch is no
longer made (log 13: DESIGN CHOICE). -/
def Wave.wake (w : Wave) (e : Nat) : Wave :=
  Wave.settle { (w.modFrag e fun f => { f with state := .live, wait := none, waited := 0, pollAt := 0, since := 0, seen := none }) with
    switchDue := w.switchDue && e != w.cur }

/-- SCC of a fragment, current or not (R39). -/
def Wave.setSccOf (w : Wave) (e : Nat) (b : Bool) : Wave :=
  if e = w.cur then { w with scc := b } else w.modFrag e fun f => { f with scc := b }

/-- The word stalls at issue: it has not issued, and it issues later (R87, R254). -/
def State.stall (s : State) (r : Stall) : Out := s.updWave fun w => { w with stall := r, susp := none }

/-- The lanes of EXEC leave the current fragment; where none is left it has arrived at its join: a DEFER partner runs at once, else
the entry is free and its parent may fuse (R42, R203, R307). -/
def Wave.exitLanes (w : Wave) : Wave :=
  let e := w.cur
  let f := w.frag
  let m := f.mask &&& ~~~ w.exec
  if m ≠ 0 then ((w.modFrag e fun f => { f with mask := m }).setExec 0).step true
  else
    let w := { ((w.setExec 0).mark .plain true) with inTrap := false, switchDue := false }
    match (w.children e).filter fun d => (w.fragAt d).state == .defer with
    | d :: _ =>
      let g := w.fragAt d
      let w := w.stow.modFrag e fun f => { f with state := .held, mask := 0, pc := g.rejoin }
      (w.modFrag d fun f => { f with state := .live }).become d
    | [] => Wave.settle { (w.modFrag e fun _ => Frag.none) with switchDue := true, fuseDue := some f.link }

/-! ### Ending a launch, and taking a trap (R198, R205, R206) -/

/-- The launch has not ended. -/
def Launch.live (l : Launch) : Bool := l.status == .accepted

/-- The first fatal end of a launch is recorded: its resident blocks stop, its saved blocks are discarded, and launches that name
it upstream place no further block (R61, R205, R206). -/
def State.endLaunch (s : State) (li : Nat) (st : LaunchStatus) (cause : BitVec 8) (pc blk : Nat) : State :=
  if (s.launch li).live then
    let s := s.modLaunch li fun l => { l with status := st, cause := cause, pc := pc, block := blk }
    { s with blocks := s.blocks.map fun b =>
        if b.launch != li then b
        else match b.status with
          | .resident => { b with status := .stopped, victim := none }
          | .saved => { b with status := .discarded, save := none }
          | _ => b }
  else s

/-- The first word of the faulting word's run that issued (R97). -/
def Wave.runStart (w : Wave) : VAddr := w.hints.start.getD w.pc

/-- The reservations of a wave are lost (R207, R325). A lane whose reservation stood on a pin that its lease ended faults PINLOST at its SC still
(R199, R338). -/
def State.loseResvs (s : State) (wi : Nat) : State := { s with resvs := s.resvs.filter fun r => r.wave != wi }

/-- TAKING A TRAP (R198). With no outstanding result: in a handler or without a vector the launch ends with FAULT; else the trap
registers are set, EXEC and INTRAP are saved and set, and the wave continues at TRAPVEC. SCC, SF, counters and other registers stay. -/
def State.deliver (s : State) (wi : Nat) (t : TrapInfo) : State :=
  let w := s.wave wi
  let l := s.launchOf w
  let s := s.loseResvs wi
  if w.inTrap ∨ l.desc.trapVec = 0 then
    (s.modWave wi fun w => { w with trapPending := none, susp := none }).endLaunch (s.blockOf w).launch .fault t.cause
      w.pc.toNat (s.blockOf w).index
  else
    s.modWave wi fun w => { (w.setExec t.lanes) with
      trapMask := t.lanes, trapAddr := t.addr, cause := t.cause, trapPc := w.runStart, skipPc := w.pc + 4, savExec := w.exec
      inTrap := true, hints := Hints.none, pc := BitVec.ofNat 52 l.desc.trapVec, trapPending := none, susp := none
      held := false, stall := .none, marker := false, entering := true }

/-- A word traps: its wave issues nothing more, and the trap is delivered once its long-class results have returned (R96, R97, R198). -/
def State.trapWave (s : State) (wi : Nat) (t : TrapInfo) : State :=
  if (s.wave wi).pending.isEmpty then s.deliver wi t
  else s.modWave wi fun w => { w with trapPending := some t, susp := none, stall := .none }

/-- The issuing wave traps with a wave cause: TRAPMASK is EXEC (R196). -/
def State.trap (s : State) (cause : BitVec 8) (addr : Word64) : Out :=
  s.onWave fun w => .next (s.trapWave s.issuing ⟨cause, w.exec, addr⟩)

/-- RETURNING FROM A TRAP (R202): EXEC is SAVEXEC within the current MASK, and the wave continues at TRAPPC, after the faulting word,
or at s62:s63. It is no switch point (R200). -/
def Wave.returnFrom (w : Wave) (mode : RettMode) : Wave :=
  let t := match mode with
    | .retry => w.trapPc
    | .skip => w.skipPc
    | .resume => w.pairTarget 62
  { ((w.mark .plain true).setExec (w.savExec &&& w.frag.mask)) with inTrap := false, pc := t }

/-! ### Long-class results, and the horizon of a core -/

/-- A long-class result of the wave: it waits, and its writes are made when it returns (R91). -/
def Wave.later (w : Wave) (ws : List RegWrite) : Wave :=
  { w with pending := w.pending ++ [⟨.ready, ws, 0, none, false, 0, 0⟩] }

/-- A long-class result of the wave that is written in a given core cycle (R253). -/
def Wave.laterAt (w : Wave) (cycle : Nat) (ws : List RegWrite) : Wave :=
  { w with pending := w.pending ++ [⟨.timed cycle, ws, 0, none, false, 0, 0⟩] }

/-- The write of a long-class result to the lanes of EXEC (R91, R353). -/
def Wave.lanesOf (w : Wave) (r : Nat) (f : Nat → Word) : RegWrite := .v r w.exec (w.perLane f)

/-- The core's HZcopy of a function, which follows FHZ where the core has none of its own (R230). -/
def State.hzCopy (s : State) (core f : Nat) : Stamp :=
  match (s.core core).hz.find? fun x => x.1 == f with
  | some x => x.2
  | none => (s.func f).hz

/-! ### Cause codes (R196, R197) -/

/-- 0x02 PAGE. -/
def Cause.page : BitVec 8 := 0x02
/-- 0x03 PROT. -/
def Cause.prot : BitVec 8 := 0x03
/-- 0x04 MISALIGN. -/
def Cause.misalign : BitVec 8 := 0x04
/-- 0x05 HISTORY_RECLAIMED. -/
def Cause.reclaimed : BitVec 8 := 0x05
/-- 0x06 FUTURE_STAMP. -/
def Cause.future : BitVec 8 := 0x06
/-- 0x07 NOHIST. -/
def Cause.nohist : BitVec 8 := 0x07
/-- 0x08 TOKEN. -/
def Cause.token : BitVec 8 := 0x08
/-- 0x09 GANG_MISMATCH. -/
def Cause.gang : BitVec 8 := 0x09
/-- 0x0A WIDTH. -/
def Cause.width : BitVec 8 := 0x0A
/-- 0x0B SETC_RO. -/
def Cause.setcRo : BitVec 8 := 0x0B
/-- 0x0C BRK. -/
def Cause.brk : BitVec 8 := 0x0C
/-- 0x0D TRAP. -/
def Cause.trap : BitVec 8 := 0x0D
/-- 0x0F PINLOST. -/
def Cause.pinlost : BitVec 8 := 0x0F

/-! ### Time (R9, R23, R75) -/

/-- The partition of a wave is stopped by its debugger (R285). -/
def State.stoppedWave (s : State) (w : Wave) : Bool := ((s.core (s.coreOf w)).parts.getD w.part default).stopped

/-- A wave's wait counts of R371 after some core cycles; none pass while it is evicted or its partition is stopped (R372). -/
def Wave.passWait (w : Wave) (n : Nat) : Wave :=
  if w.frags.any fun f => f.state == .wait then
    { w with frags := w.frags.map fun f => if f.state == .wait then { f with waited := f.waited + n } else f }
  else w

/-- Base-die cycles pass: every home count and every die's core cycles advance, and the wait counts of waiting fragments with them. -/
def State.elapse (s : State) (n : Nat) : State :=
  let passed := fun core =>
    let d := s.dies.getD (dieOf core) default
    (d.acc + n * d.rate) / 32 - d.acc / 32
  { s with
    tick := s.tick + n
    dies := s.dies.map fun d => { d with acc := d.acc + n * d.rate }
    towers := s.towers.map fun t => { t with count := t.count + n }
    agenda := match s.agenda with
      | (d, i) :: r => (d - n, i) :: r
      | [] => []
    waves := s.waves.map fun w =>
      if w.ended || (s.blockOf w).status != .resident || s.stoppedWave w then w else w.passWait (passed (s.coreOf w)) }

end Sys2Proof.Machine
end

