-- ==== Sys2Proof/Machine/Operands.lean ====
section
/-! DEFINITION. The operand forms: immediates and targets with their hints (R85, R313), the rounding mode and the order of a word,
access sizes with the words a load writes (R112, R316), and the addresses of a lane (R160, R322). -/

namespace Sys2Proof.Machine

/-- The immediate of an SI word, with a HINT.IMM before it (R85). -/
def Wave.imm10 (w : Wave) (i : BitVec 10) : Word :=
  match w.hints.imm with
  | none => i.signExtend 32
  | some p => (p ++ i).signExtend 32

/-- The immediate of a VI word, with a HINT.IMM before it (R85). -/
def Wave.imm8 (w : Wave) (i : BitVec 8) : Word :=
  match w.hints.imm with
  | none => i.signExtend 32
  | some p => (p ++ i).signExtend 32

/-- The shift count of a shift form: bits [4:0] (R85, R336, R359). -/
def shiftCount {n : Nat} (x : BitVec n) : Nat := x.toNat % 32

/-- The target of an offset that counts words, modulo 2^52 (R85). -/
def Wave.target {n : Nat} (w : Wave) (o : BitVec n) : VAddr := w.pc + 4 + 4 * o.signExtend 52

/-- The byte offset of HINT.OFF, else 0 (R313). -/
def Wave.off (w : Wave) : Word64 := (w.hints.off.getD 0).signExtend 64

/-- Order and scope of an access: those of HINT.ORD, else relaxed at the scope given (R180). -/
def Wave.order (w : Wave) (dflt : Scope) : Order × Scope := w.hints.ord.getD (.rlx, dflt)

/-- The order releases (R180). -/
def isRel : Order → Bool
  | .rel | .acqrel => true
  | .rlx | .acq => false

/-- The order acquires (R180). -/
def isAcq : Order → Bool
  | .acq | .acqrel => true
  | .rlx | .rel => false

/-- The scope discards copies on an acquire: TW, DV and SY (R179). -/
def wideScope : Scope → Bool
  | .tw | .dv | .sy => true
  | .wv | .bk => false

/-- The scope's point of performance for stores is the home: DV and SY (R179). -/
def homeScope : Scope → Bool
  | .dv | .sy => true
  | .wv | .bk | .tw => false

/-- RNDMODE as a mode; c9 never holds 6 or 7 (R88). -/
def Wave.rnd (w : Wave) : RMode := (RMode.ofCode w.rndMode).getD .rne

/-- The effective mode of a word with or without a mode of its own (R142). -/
def Wave.mode (w : Wave) (own : Option RMode) : RMode :=
  match w.hints.rnd, own with
  | some m, _ => m
  | none, some m => m
  | none, none => w.rnd

/-- Stochastic rounding where it does not apply is RNE (R142). -/
def noSr : RMode → RMode
  | .sr => .rne
  | m => m

/-- Bytes of an access (R316). -/
def MSize.bytes : MSize → Nat
  | .b8 | .s8 => 1
  | .b16 | .s16 => 2
  | .b32 => 4
  | .b64 => 8
  | .b128 => 16

/-- Registers of an access (R316). -/
def MSize.regs : MSize → Nat
  | .b64 => 2
  | .b128 => 4
  | .b8 | .s8 | .b16 | .s16 | .b32 => 1

/-- The word of a narrow load: S8 and S16 sign-extended, B8 and B16 zero-extended (R316). -/
def MSize.extend (z : MSize) (x : Nat) : Word :=
  match z with
  | .s8 => (BitVec.ofNat 8 x).signExtend 32
  | .s16 => (BitVec.ofNat 16 x).signExtend 32
  | .b8 | .b16 | .b32 | .b64 | .b128 => BitVec.ofNat 32 x

/-- The k-th register of a load from the value of its bytes (R316). -/
def MSize.reg (z : MSize) (x k : Nat) : Word := MSize.extend z (x / 2 ^ (32 * k))

/-- Bytes of an LR, SC, SLD or SST (R324, R343). -/
def WSize.bytes : WSize → Nat
  | .b32 => 4
  | .b64 => 8

/-- Registers of an LR, SC, SLD or SST. -/
def WSize.regs : WSize → Nat
  | .b32 => 1
  | .b64 => 2

/-- The access size of an LR, SC, SLD or SST. -/
def WSize.msize : WSize → MSize
  | .b32 => .b32
  | .b64 => .b64

/-- The value that a lane's registers from `r` give to a store of `k` registers, the first lowest (R5). -/
def Wave.vnat (w : Wave) (r l : Nat) : Nat → Nat
  | 0 => 0
  | k + 1 => (w.vn r l).toNat + 2 ^ 32 * w.vnat (r + 1) l k

/-- The value that scalars from `r` give to a store of `k` registers. -/
def Wave.snat (w : Wave) (r : SReg) : Nat → Nat
  | 0 => 0
  | k + 1 => (w.s r).toNat + 2 ^ 32 * w.snat (r + 1) k

/-- The 64-bit sum of base, vo and OFF of a lane (R160, R322). -/
def Wave.laneSum (w : Wave) (base : SReg) (vo : VReg) (l : Nat) : Word64 := w.s64 base + (w.v vo l).setWidth 64 + w.off

/-- The global address of a lane, or the cause of R160 that forming it meets, with its TRAPADDR. -/
def formGlobal (base sum : Word64) (size : Nat) : Except (BitVec 8 × Word64) Nat :=
  if base.toNat / 2 ^ 52 ≠ 0 then .error (Cause.prot, base)
  else
    let a := sum.toNat % 2 ^ 52
    if a % size ≠ 0 then .error (Cause.misalign, BitVec.ofNat 64 a) else .ok a

/-- The global address of a lane (R160). -/
def Wave.globalAddr (w : Wave) (base : SReg) (vo : VReg) (size l : Nat) : Except (BitVec 8 × Word64) Nat :=
  formGlobal (w.s64 base) (w.laneSum base vo l) size

/-- The scratchpad offset of an access, or its cause: MISALIGN, then PROT beyond 2^32 or the allocation (R159, R160, R322). -/
def formScratch (sum : Word64) (size alloc : Nat) : Except (BitVec 8 × Word64) Nat :=
  let a := sum.toNat
  if a % size ≠ 0 then .error (Cause.misalign, sum)
  else if 2 ^ 32 ≤ a ∨ alloc < a + size then .error (Cause.prot, sum)
  else .ok a

end Sys2Proof.Machine
end

