-- ==== Sys2Proof/Machine/Groups.lean ====
section
/-! DEFINITION. Groups of a block's waves, arrival at a barrier, and its completion (R35 to R38, R292, R293). -/

namespace Sys2Proof.Machine

/-- The groups of a launch, group 0 included (R35). -/
def Launch.groups (l : Launch) : Nat := l.members.length + 1

/-- The wave of an index is a member of a group (R35): group 0 holds every wave. -/
def Launch.isMember (l : Launch) (g i : Nat) : Bool := g == 0 || (g < l.groups && (l.members.getD (g - 1) 0).getLsbD i)

/-- The wave may name the group (R37). -/
def State.mayName (s : State) (w : Wave) (g : Nat) : Bool := (s.launchOf w).isMember g w.index

/-- The phase of a group (R90). -/
def Block.phase (b : Block) (g : Nat) : Bool := b.phases.getD g false

/-- The fragment counts for arrival: LIVE or WAIT (R38). -/
def Frag.counts (f : Frag) : Bool := f.state == .live || f.state == .wait

/-- The entries of a wave that count for arrival. -/
def Wave.counting (w : Wave) : List Nat := (List.range 8).filter fun e => (w.fragAt e).counts

/-- The wave has arrived at a group: every fragment that counts is marked; a wave without lanes holds no barrier back (R38, R293, log 12: DEDUCED). -/
def Block.arrived (b : Block) (w : Wave) (g : Nat) : Bool :=
  w.noLanes || (!w.counting.isEmpty && w.counting.all fun e => b.marks.contains (g, w.index, e))

/-- Every member wave of a group that has not ended has arrived (R292). -/
def State.complete (s : State) (bi g : Nat) : Bool :=
  let b := s.block bi
  let l := s.launch b.launch
  b.waves.all fun wi =>
    let w := s.wave wi
    w.ended || !l.isMember g w.index || b.arrived w g

/-- The wait of a fragment for a group whose phase is now `ph` is over (R239, R292, R373). -/
def WaitFor.phaseLeft (g : Nat) (ph : Bool) : WaitFor → Bool
  | .bar g' p m | .waitb g' p m | .rearm g' p m => m || (g' == g && p != ph)
  | _ => false

/-- The completion is recorded in a wake condition (R239). -/
def WaitFor.record : WaitFor → WaitFor
  | .bar g p _ => .bar g p true
  | .waitb g p _ => .waitb g p true
  | .rearm g p _ => .rearm g p true
  | c => c

/-- A fragment whose wait for a phase is over goes on: BAR and WAITB acquire at BK, a second arrival issues again (R219, R292, R373). -/
def Wave.goOn (bsf : Stamp) (w : Wave) (e : Nat) : Wave :=
  match (w.fragAt e).wait with
  | some (.rearm ..) => w.wake e
  | _ => (w.raise bsf).wake e

/-- What a completed phase of a group does to a waiting fragment: it goes on; where the wave has been taken, the completion is recorded, and the
fragment goes on when it is restored (R239, R292, R373). `ph` is the new phase. -/
def Wave.releaseFrag (bsf : Stamp) (g : Nat) (ph : Bool) (w : Wave) (e : Nat) : Wave :=
  match (w.fragAt e).wait with
  | some c =>
    if !c.phaseLeft g ph then w
    else if w.taken then w.modFrag e fun f => { f with wait := some c.record }
    else w.goOn bsf e
  | none => w

/-- The first test of a fragment's wait after its wave was taken: a wait whose completion has come is over (R82, R239, log 31: DEDUCED). SF rises
to BSF as it then stands. A word of a peer is read again in the wave's first cycle (R372, R374). -/
def Wave.retestFrag (b : Block) (w : Wave) (e : Nat) : Wave :=
  match (w.fragAt e).wait with
  | some (.waitc _ []) => w.wake e
  | some c =>
    if (List.range b.phases.length).any fun g => c.phaseLeft g (b.phase g) then w.goOn b.bsf e
    else w.modFrag e fun f => { f with pollAt := f.waited }
  | none => w

/-- The waits of a wave that is no longer taken are tested (R82, R239). -/
def State.retest (s : State) (wi : Nat) : State :=
  s.modWave wi fun w => (List.range 8).foldl (Wave.retestFrag (s.block w.block)) w

/-- The barrier of a group completes: the phase flips, its marks are cleared, and every waiting fragment goes on (R292). -/
def State.flip (s : State) (bi g : Nat) : State :=
  let b := s.block bi
  let ph := !b.phase g
  let s := s.modBlock bi fun b => { b with phases := b.phases.set g ph, marks := b.marks.filter fun m => m.1 != g }
  b.waves.foldl (fun s wi => s.modWave wi fun w => (List.range 8).foldl (Wave.releaseFrag b.bsf g ph) w) s

/-- The barrier of a group completes where every member has arrived. -/
def State.tryFlip (s : State) (bi g : Nat) : State := if s.complete bi g then s.flip bi g else s

/-- Completion is evaluated again for every group at which some fragment has arrived: a fragment or a wave has left (R38, R293). -/
def State.recheck (s : State) (bi : Nat) : State :=
  (List.range (s.block bi).phases.length).foldl (fun s g =>
    if (s.block bi).marks.any fun m => m.1 == g then s.tryFlip bi g else s) s

/-- An order after its access's fragment has left, where that was one of some entries: the access names no entry any more. -/
def Hold.disown (es : List Nat) (h : Hold) : Hold :=
  { h with access := h.access.map fun a => (a.1, { a.2 with frag := if es.contains a.2.frag then 8 else a.2.frag }) }

/-- The arrivals of some entries of a wave are dropped, those that wait on their release among them: a new fragment in an entry has arrived nowhere
(R180, R292). -/
def State.unmark (s : State) (w : Wave) (es : List Nat) : State :=
  (s.modBlock w.block fun b => { b with marks := b.marks.filter fun m => !(m.2.1 == w.index && es.contains m.2.2) }).modWave s.issuing fun w =>
    { w with holds := w.holds.map (Hold.disown es) }

end Sys2Proof.Machine
end

