-- ==== Sys2Proof/Machine/Xlat.lean ====
section
/-! DEFINITION. Address translation and access checks: the page walk (R161, R162, R276), the host-coherent window (R274), the
permission and key checks (R163, R278), peers (R282), the translation caches (R164), and the causes of lanes and ranges (R196). -/

namespace Sys2Proof.Machine

/-- What a walk gives: the 64 KiB physical page and its leaf, PAGE, an address that no memory answers, or a wait for an entry that is pinned
(R187). -/
inductive Walk where
  | ok (page : Nat) (leaf : Leaf)
  | page
  | absent
  | wait
  deriving DecidableEq, Repr, Inhabited

/-- The words of a line meet some addresses. -/
def meetsWords (line : Nat) (words : List Nat) (as : List Nat) : Bool := words.any fun k => as.any fun a => line + 4 * k == a / 4 * 4

/-- The home's directory records a pin on some of these bytes: a core holds it, or its write-back waits (R173, R187, R231). -/
def State.pinned (s : State) (as : List Nat) : Bool :=
  (s.cores.any fun c => c.pins.any fun p => meetsWords p.line (p.words.map fun w => w.1) as) ||
    s.reqs.any fun r => r.kind == .pin && meetsWords r.line (r.bytes.map fun b => (b.1 - r.line) / 4) as

/-- The bytes `a` to `a + n - 1` lie in the function's memory range (R276, R382). -/
def State.owns (s : State) (f a n : Nat) : Bool :=
  let r := s.func f
  r.memBase * 65536 ≤ a && a + n ≤ (r.memBase + r.memSize) * 65536

/-- A walk of the function may use these bytes: any for the PF and at a peer address, else those of its range (R276). -/
def State.inRange (s : State) (f a n : Nat) : Bool := f == Config.pf || peerOf a != 0 || s.owns f a n

/-- Address bits below a table of a level: its size (R161). -/
def tableSize : Nat → Nat
  | 0 => 256
  | 3 => 65536
  | _ => 4096

/-- The lowest address bit of a level's index, and so the size of its leaf (R161). -/
def levelShift : Nat → Nat
  | 0 => 16
  | 1 => 21
  | 2 => 30
  | _ => 39

/-- The index of an address in a level's table (R161). -/
def levelIndex (n va : Nat) : Nat := va / 2 ^ levelShift n % (tableSize n / 8)

/-- The page lies inside the host-coherent window (R274). -/
def State.inWindow (s : State) (p n : Nat) : Bool :=
  s.hcwSize != 0 && s.hcwBase * 65536 ≤ p && p + n ≤ (s.hcwBase + s.hcwSize) * 65536

/-- Some byte of the page lies inside the host-coherent window (R274). -/
def State.meetsWindow (s : State) (p n : Nat) : Bool :=
  s.hcwSize != 0 && s.hcwBase * 65536 < p + n && p < (s.hcwBase + s.hcwSize) * 65536

/-- The leaf fields of an entry (R161). -/
def leafOf (e : Nat) : Leaf where
  key := e / 2 ^ 53 % 128
  hcw := e.testBit 52
  keep := e.testBit 5
  x := e.testBit 4
  w := e.testBit 3
  rd := e.testBit 2

/-- The address of an entry: bits [51:8] (R161). -/
def entryAddr (e : Nat) : Nat := e / 256 % 2 ^ 44 * 256

/-- What a leaf entry of a level gives for an address (R162, R274, R276, R282). -/
def State.walkLeaf (s : State) (f va n e : Nat) : Walk :=
  let p := entryAddr e
  let size := 2 ^ levelShift n
  let l := leafOf e
  if n = 3 ∨ p % size ≠ 0 ∨ (l.x && l.w) then .page
  else if (if l.hcw then !s.inWindow p size else s.meetsWindow p size) then .page
  else if !s.inRange f p size then .page
  else if peerOf p ≠ 0 ∧ (l.keep || l.x) then .page
  else
    let page := (p + va % size) / 65536
    if physOk (page * 65536) then .ok page l else .absent

/-- The walk from the table of a level (R161, R162). -/
def State.walkFrom (s : State) (f va : Nat) : Nat → Nat → Walk
  | n, t =>
    if !s.inRange f t (tableSize n) then .page
    else if !physOk t then .absent
    else if s.pinned ((List.range 8).map fun k => t + 8 * levelIndex n va + k) then .wait
    else
      let e := (s.peek64 (t + 8 * levelIndex n va)).toNat
      if !e.testBit 0 || e / 2 ^ 60 != 0 || e / 64 % 4 != 0 then .page
      else if e.testBit 1 then s.walkLeaf f va n e
      else match n with
        | 0 => .page
        | k + 1 =>
          if e / 2 ^ 52 % 256 ≠ 0 ∨ e / 4 % 16 ≠ 0 ∨ (k ≠ 0 ∧ entryAddr e % 4096 ≠ 0) then .page
          else State.walkFrom s f va k (entryAddr e)

/-- A walk of the function's page tables (R161, R275). -/
def State.walk (s : State) (f va : Nat) : Walk :=
  let r := s.func f
  if !r.ptEn then .page else s.walkFrom f va 3 (r.ptRoot * 65536)

/-- The function may use the key, and its slot holds one (R163, R278). -/
def State.keyOk (s : State) (f key : Nat) : Bool := (f == Config.pf || key == f) && (s.keys.getD key none).isSome

/-- The peer of a physical address may be addressed (R275, R282). -/
def State.peerOk (s : State) (f a : Nat) : Bool := peerOf a == 0 || (s.func f).peers.getLsbD (peerOf a - 1)

/-- The page is verified (R99, R100). -/
def State.verifiedPage (s : State) (page : Nat) : Bool := s.verified.any fun v => v.page == page

/-- A write of the device itself to physical memory through a key: bytes of a verified page are not written (R100), and pinned bytes are written
when the pin has ended (R187). -/
def State.devicePoke (s : State) (key : Nat) (bs : List (Nat × Byte)) : State :=
  let bs := bs.filter fun b => !s.verifiedPage (b.1 / 65536)
  let held := bs.filter fun b => s.pinned [b.1]
  let t := s.pokeBy key (bs.filter fun b => !s.pinned [b.1])
  if held.isEmpty then t else { t with late := t.late ++ [(key, held)] }

/-- The device's own bytes that a pin held back are written, in order, as far as no pin stands on them (R187). -/
def State.pokeLate (s : State) : State := s.late.foldl (fun s x => s.devicePoke x.1 x.2) { s with late := [] }

/-- The rows of R163 that can trap. -/
inductive AccKind where
  | load | store | atom | asof
  deriving DecidableEq, Repr

/-- The checks of a leaf: the key, the peer, then the access's own row (R163, R282). -/
def State.checkLeaf (s : State) (f : Nat) (k : AccKind) (page : Nat) (l : Leaf) : Option (BitVec 8) :=
  if !s.keyOk f l.key || !s.peerOk f (page * 65536) then some Cause.prot
  else match k with
    | .load => if l.rd then none else some Cause.prot
    | .store => if l.w && !s.verifiedPage page then none else some Cause.prot
    | .atom => if l.rd && l.w && !s.verifiedPage page then none else some Cause.prot
    | .asof => if !l.rd then some Cause.prot else if l.keep then none else some Cause.nohist

/-- A cached translation of a virtual page (R164). -/
def findTlb (t : List TlbEntry) (f vpage : Nat) : Option TlbEntry := t.find? fun e => e.func == f && e.vpage == vpage

/-- A translation cache with an entry added; beyond its size the one filled longest ago leaves (R164, log 16: DESIGN CHOICE). -/
def addTlb (n : Nat) (e : TlbEntry) (t : List TlbEntry) : List TlbEntry :=
  (e :: t.filter fun x => !(x.func == e.func && x.vpage == e.vpage)).take n

/-- Both translation caches filled with a page (R164). -/
def State.fillTlb (s : State) (core f vpage page : Nat) (l : Leaf) : State :=
  let e : TlbEntry := ⟨f, vpage, page, l⟩
  (s.modCore core fun c => { c with tlb := addTlb 64 e c.tlb }).modTower (towerOf core) fun t => { t with tlb := addTlb 16384 e t.tlb }

/-- The translation of an address beyond the core's cache: the tower's cache, else a walk (R164). -/
def State.walkVia (s : State) (core f va : Nat) : Walk :=
  match findTlb (s.tower (towerOf core)).tlb f (va / 65536) with
  | some e => .ok e.page e.leaf
  | none => s.walk f va

/-- The translation of an address for a wave's word: the core's cache, else none while the word is at issue, else as far as the walk
(R96, R164). -/
def State.lookup (s : State) (w : Wave) (va : Nat) : Option Walk :=
  match findTlb (s.core (s.coreOf w)).tlb (s.funcOf w) (va / 65536) with
  | some e => some (.ok e.page e.leaf)
  | none => if w.susp.isSome then (match s.walkVia (s.coreOf w) (s.funcOf w) va with
      | .wait => none
      | x => some x) else none

/-- What the checks of one address give. -/
inductive Check where
  | ok (a : Acc)
  | miss
  | bad (cause : BitVec 8) (addr : Word64)
  | absent
  deriving DecidableEq, Repr, Inhabited

/-- Translation and checks of one address (R160, R163). -/
def State.checkAt (s : State) (w : Wave) (k : AccKind) (l va : Nat) : Check :=
  match s.lookup w va with
  | none | some .wait => .miss
  | some .page => .bad Cause.page (BitVec.ofNat 64 va)
  | some .absent => .absent
  | some (.ok page leaf) =>
    match s.checkLeaf (s.funcOf w) k page leaf with
    | some c => .bad c (BitVec.ofNat 64 va)
    | none => .ok ⟨l, va, page * 65536 + va % 65536, leaf⟩

/-- The checks of one formed address. -/
def State.checkFormed (s : State) (w : Wave) (k : AccKind) (l : Nat) : Except (BitVec 8 × Word64) Nat → Check
  | .error (c, a) => .bad c a
  | .ok va => s.checkAt w k l va

/-- The passed accesses, in order. -/
def passed : List Check → List Acc
  | [] => []
  | .ok a :: r => a :: passed r
  | _ :: r => passed r

/-- The causes of lanes, in lane order. -/
def failures : List (Nat × Check) → List (Nat × BitVec 8 × Word64)
  | [] => []
  | (l, .bad c a) :: r => (l, c, a) :: failures r
  | _ :: r => failures r

/-- The lowest cause code. -/
def lowestCause : List (Nat × BitVec 8 × Word64) → Nat
  | [] => 255
  | x :: r => min x.2.1.toNat (lowestCause r)

/-- The mask of some lanes. -/
def maskOf (ls : List Nat) : Mask := ls.foldl (fun m l => m ||| 1 <<< l) 0

/-- The cause that lanes together deliver: the lowest code, the lanes that have it, and the address of the lowest of them (R198). -/
def laneTrap (fs : List (Nat × BitVec 8 × Word64)) : TrapInfo :=
  let c := lowestCause fs
  let hit := fs.filter fun x => x.2.1.toNat == c
  ⟨BitVec.ofNat 8 c, maskOf (hit.map fun x => x.1), match hit with
    | x :: _ => x.2.2
    | [] => 0⟩

/-- The word is suspended until its translations have been checked (R96). -/
def State.suspend' (s : State) (i : Instr) : Out := s.updWave fun w => { w with susp := some i }

/-- Both translation caches filled with the pages of the accesses that a suspended word has checked (R164). -/
def State.fillFrom (s : State) (w : Wave) (as : List Acc) : State :=
  if w.susp.isSome then
    as.foldl (fun s a => s.fillTlb (s.coreOf w) (s.funcOf w) (a.va / 65536) (a.pa / 65536) a.leaf) s
  else s

/-- A word goes on when the checks of every lane have passed; else it is suspended, traps, or meets no memory (R96, R198). -/
def State.afterChecks (s : State) (i : Instr) (w : Wave) (cs : List (Nat × Check)) (k : State → List Acc → Out) : Out :=
  if cs.any fun c => c.2 == .miss then s.suspend' i
  else match failures cs with
    | f :: fs => .next (s.trapWave s.issuing (laneTrap (f :: fs)))
    | [] => if cs.any fun c => c.2 == .absent then .fault .absentMemory else k (s.fillFrom w (passed (cs.map fun c => c.2))) (passed (cs.map fun c => c.2))

/-- The checks of a lane-wise global form, for every lane of EXEC (R160, R196). -/
def State.checkLanes (s : State) (w : Wave) (k : AccKind) (base : SReg) (vo : VReg) (size : Nat) : List (Nat × Check) :=
  w.active.map fun l => (l, s.checkFormed w k l (w.globalAddr base vo size l))

/-- A check that does not pass, as the wave cause of a form that decides its cause once (R196). -/
def waveCause (w : Wave) : Check → TrapInfo
  | .bad c a => ⟨c, w.exec, a⟩
  | _ => ⟨0, 0, 0⟩

/-- The bytes of a range by page: the first byte in each page that the range meets. -/
def pageStarts (a n : Nat) : List Nat :=
  if n = 0 then []
  else (List.range ((a + n - 1) / 65536 + 1 - a / 65536)).map fun k => max a ((a / 65536 + k) * 65536)

/-- The checks of a range, page by page (R196). The address space wraps at 2^52. -/
def State.checkRange (s : State) (w : Wave) (k : AccKind) (a n : Nat) : List Check :=
  (pageStarts a n).map fun x => s.checkAt w k 0 (x % 2 ^ 52)

/-- The first check of a list that fails. -/
def firstBad : List Check → Option Check
  | [] => none
  | .bad c a :: _ => some (.bad c a)
  | _ :: r => firstBad r

/-- As `afterChecks`, for a form whose cause is a wave cause: the first failing byte gives it (R196). -/
def State.afterRange (s : State) (i : Instr) (w : Wave) (cs : List Check) (k : State → List Acc → Out) : Out :=
  if cs.any fun c => c == .miss then s.suspend' i
  else match firstBad cs with
    | some c => .next (s.trapWave s.issuing (waveCause w c))
    | none => if cs.any fun c => c == .absent then .fault .absentMemory else k (s.fillFrom w (passed cs)) (passed cs)

/-- The physical address of a byte through the pages that an operation's checks passed. -/
def mapAddr (m : List PageUse) (va : Nat) : Nat :=
  match m.find? fun x => x.vpage == va / 65536 with
  | some x => x.page * 65536 + va % 65536
  | none => 0

/-- The pages of passed checks. -/
def mapOf (as : List Acc) : List PageUse := as.map fun a => ⟨a.va / 65536, a.pa / 65536, a.leaf.key⟩

/-- The key of a physical page among those that an operation's checks passed (R163). -/
def keyIn (m : List PageUse) (page : Nat) : Nat := ((m.find? fun x => x.page == page).map fun x => x.key).getD Config.pf

end Sys2Proof.Machine
end

