-- ==== Sys2Proof/Machine/Cache.lean ====
section
/-! DEFINITION. The memory path: the caches of a tower and their replacement (R172 to R175), homes and their store events (R173, R214, R216,
R228), pins (R187, R188), the L1 (R168, R169), write combining (R170, R171), and release and acquire at a scope (R179, R180, R218, R219). -/

namespace Sys2Proof.Machine

/-! ### Replacement (R175) -/

/-- The next victim of a set: an EF line, else the oldest that is not EL, else the oldest (R175). The list has the latest first. -/
def victimBy {α : Type} (mark : α → Mark) (ls : List α) : Option α :=
  match ls.reverse.find? fun l => mark l == .ef with
  | some l => some l
  | none => match ls.reverse.find? fun l => mark l != .el with
    | some l => some l
    | none => ls.getLast?

/-- The mark of a line that an access with a hint meets: EF on an EL line is ignored, and no hint leaves it (R175). -/
def mergeMark (old new : Mark) : Mark :=
  match old, new with
  | o, .dflt => o
  | .el, .ef => .el
  | _, n => n

/-- The first member of a list that satisfies a condition is changed. -/
def modifyFirst {α : Type} (p : α → Bool) (f : α → α) : List α → List α
  | [] => []
  | x :: r => if p x then f x :: r else x :: modifyFirst p f r

/-- Beyond three quarters of the ways, the oldest EL line of a set loses its mark (R175). -/
def trimEl {α : Type} (mark : α → Mark) (clear : α → α) (ways : Nat) (inSet : α → Bool) (ls : List α) : List α :=
  if (ls.filter fun l => inSet l && mark l == .el).length * 4 ≤ ways * 3 then ls
  else (modifyFirst (fun l => inSet l && mark l == .el) clear ls.reverse).reverse

/-- A fill of a function takes the place of a line: counted as its own for the owner, or as an external one (R284). -/
def State.countEvict (s : State) (owner filler : Nat) : State := s.count owner (if owner = filler then 8 else 7) 1

/-- Replacement mark of a cache code (R175). -/
def markOf : Cache → Mark
  | .ef => .ef
  | .el => .el
  | .dflt | .cb => .dflt

/-! ### Homes -/

/-- The set of a line in its home cache: the homes alternate by 64 KiB (R16, R173, log 16: DESIGN CHOICE). -/
def homeSet (line : Nat) : Nat := (line / 2 ^ 18 * 512 + line % 65536 / 128) % Config.cacheSets

/-- A line of a home cache. -/
def Tower.homeLine (t : Tower) (line : Nat) : Option HLine := t.home.find? fun h => h.line == line

/-- The ways of a home cache in service: its spare takes the place of one that is retired (R25, R26). -/
def Tower.homeWays (t : Tower) : List Nat :=
  ((List.range Config.homeWaysBuilt).filter fun w => !t.retiredWays.contains w).take Config.homeWays

/-- LSTAMP of a home line; EFLOOR where the home has it only from memory (R216). -/
def State.lstampOf (s : State) (line : Nat) : Stamp :=
  let t := s.tower (homeOf line)
  match t.homeLine line with
  | some h => h.stamp
  | none => t.eFloor

/-- The limit of EL lines in the set of a home line (R175). -/
def trimHome (line : Nat) (l : List HLine) : List HLine :=
  trimEl HLine.mark (fun h => { h with mark := .dflt }) Config.homeWays (fun h => homeSet h.line == homeSet line) l

/-- The home cache with a line filled from memory into a way: LSTAMP is EFLOOR (R175, R216). -/
def Tower.fillHome (t : Tower) (f line way : Nat) (mark : Mark) : Tower :=
  { t with home := trimHome line (⟨line, way, t.eFloor, mark, f⟩ :: t.home) }

/-- The home cache without a line, which it writes back: EFLOOR is the largest LSTAMP of these (R216). -/
def Tower.writeBack (t : Tower) (v : HLine) : Tower :=
  { t with home := t.home.filter fun h => h.line != v.line, eFloor := maxStamp t.eFloor v.stamp }

/-- The mark of a home line that an access meets (R175). -/
def Tower.markHome (t : Tower) (line : Nat) (mark : Mark) : Tower :=
  let marked := modifyFirst (fun h => h.line == line) (fun h => { h with mark := mergeMark h.mark mark }) t.home
  { t with home := trimHome line marked }

/-- An access of a function reaches a line at its home: it is counted where the function's own blocks, engines or lines cause it, and where the home
cache does not hold the line it is filled from memory, in a free way of its set or in place of the next victim (R173, R175, R216, R284). -/
def State.touchBy (s : State) (own : Bool) (f line : Nat) (mark : Mark) : State :=
  if peerOf line ≠ 0 then s
  else
    let t := s.tower (homeOf line)
    let s := if own then s.count f 5 1 else s
    if (t.homeLine line).isSome then (if mark = .dflt then s else s.modTower (homeOf line) fun t => t.markHome line mark)
    else
      let s := if own then s.count f 6 1 else s
      let mine := t.home.filter fun h => homeSet h.line == homeSet line
      match t.homeWays.find? fun w => !mine.any fun h => h.way == w with
      | some w => s.modTower (homeOf line) fun t => t.fillHome f line w mark
      | none => match victimBy HLine.mark mine with
        | none => s
        | some v => (s.modTower (homeOf line) fun t => (t.writeBack v).fillHome f line v.way mark).countEvict v.func f

/-- As `touchBy`, for an access that the function's own blocks, engines or lines cause. -/
def State.touch (s : State) (f line : Nat) (mark : Mark) : State := s.touchBy true f line mark

/-- The registration of the page of an address (R222). -/
def State.keepOf (s : State) (a : Nat) : Option Keep :=
  if peerOf a ≠ 0 then none else (s.tower (homeOf a)).keeps.find? fun k => k.page == a / 65536

/-- What the home keeps of a line of a registered page; before the first event, KS stands for its stamp (R224, R228). -/
def Keep.kline (k : Keep) (line : Nat) : KLine := (k.lines.find? fun x => x.line == line).getD ⟨line, k.ks, 0, []⟩

/-- Records of 144 bytes that a home's share of a function's log holds (R228, R229). -/
def State.shareSize (s : State) (f : Nat) : Nat := (s.func f).hlogQuota / 4 * 65536 / 144

/-- A home's share of the function's log has room for `n` records (R228, R229, R231). -/
def State.logRoom (s : State) (f t n : Nat) : Bool := ((s.tower t).log.filter fun v => v.func == f).length + n ≤ s.shareSize f

/-- A store request waits at its home: its bytes are pinned, or its record has no room (R187, R231). -/
def State.blocked (s : State) (r : Req) : Bool :=
  (r.kind != .pin && s.pinned (r.bytes.map fun b => b.1)) ||
    match s.keepOf r.line with
    | some k => !s.logRoom k.func (homeOf r.line) 1
    | none => false

/-- A count query: COUNT one above the largest answer, TOWER 0 (R220). -/
def State.countQuery (s : State) : Stamp := stampOf (s.towers.foldl (fun m t => max m t.count) 0 + 1) 0

/-- The stamp that the next store event at a home receives: its count is at least the floor's plus one, it names one event on the line, and
on a registered page it is above KS (R173, R214, R222). -/
def State.nextStamp (s : State) (line : Nat) (floor : Stamp) : Stamp :=
  let t := homeOf line
  let st := stampOf (max (s.tower t).count (stampCount floor + 1)) t
  let last := maxStamp (s.lstampOf line) (((s.keepOf line).map fun k => k.ks).getD 0)
  if last.ult st then st else stampOf (stampCount last + 1) t

/-- The lowest number that is not in use. -/
def freeIndex (used : List Nat) : Nat := ((List.range (used.length + 1)).find? fun n => !used.contains n).getD 0

/-- The record of a store event on a registered page: the line as it stood before (R228). -/
def State.versionFor (s : State) (k : Keep) (line : Nat) (st : Stamp) : Version :=
  let l := k.kline line
  { func := k.func, line := line, stamp := st, prev := l.stamp, back := l.recent.head?
    index := freeIndex (((s.tower (homeOf line)).log.filter fun v => v.func == k.func).map fun v => v.index)
    skip := if (l.count + 1) % 16 = 0 then l.recent[15]? else none
    image := bytesAt s.peek line 128
    seals := s.seals.filter fun x => x.1 / 8 == line / 128 }

/-- The registration after a record of one of its lines (R228). -/
def Keep.noted (k : Keep) (v : Version) : Keep :=
  let l := k.kline v.line
  { k with lines := ⟨v.line, v.stamp, l.count + 1, (v.index :: l.recent).take 16⟩ :: k.lines.filter fun x => x.line != v.line }

/-- The 144 bytes of a record: its header and its image (R228). -/
def Version.bytes (v : Version) : List Byte :=
  ((leBytes 0 v.stamp.toNat 8 ++ leBytes 0 (v.back.getD 0xFFFFFFFF) 4 ++ leBytes 0 (v.skip.getD 0xFFFFFFFF) 4).map fun b => b.2) ++ v.image

/-- The physical address of a byte of a home's share of a function's log: the units of the log alternate among the homes (R16, R229). -/
def State.logAddr (s : State) (f t o : Nat) : Nat :=
  let base := (s.func f).hlogBase
  (base + (t + 4 - base % 4) % 4 + 4 * (o / 65536)) * 65536 + o % 65536

/-- The bytes of a record in the log, as far as the device's memory reaches, but for those of verified pages (R21, R100, R228, R229). -/
def State.logCells (s : State) (v : Version) : List (Nat × Byte) :=
  ((List.range 144).map fun k => (s.logAddr v.func (homeOf v.line) (144 * v.index + k), v.bytes.getD k 0)).filter fun x =>
    decide (x.1 < Config.memoryBytes) && !s.verifiedPage (x.1 / 65536)

/-- A store event on a registered page appends its record to the log (R214, R228, R284). -/
def State.appendVersion (s : State) (line : Nat) (st : Stamp) : State :=
  match s.keepOf line with
  | none => s
  | some k =>
    let v := s.versionFor k line st
    let s := s.modTower (homeOf line) fun t => { t with
      log := v :: t.log, keeps := t.keeps.map fun x => if x.page = k.page then x.noted v else x }
    (s.poke (s.logCells v)).count k.func 0x0B 1

/-- The bytes of two ranges overlap. -/
def overlaps (a n b m : Nat) : Bool := a < b + m && b < a + n

/-- Reservations of the home whose span a store event meets are lost, but for the lane's own SC (R325). -/
def State.loseSpan (s : State) (pin : Option Nat) (as : List Nat) (own : Option (Nat × Nat)) : State :=
  { s with resvs := s.resvs.filter fun r =>
      r.pin != pin || own == some (r.wave, r.lane) || !as.any fun a => overlaps a 1 r.addr r.size }

/-- Saved records that a write meets are invalid from then on (R208, R211). -/
def State.spoil (s : State) (as : List Nat) : State :=
  { s with blocks := s.blocks.map fun b =>
      match b.status, b.save with
      | .saved, some (off, size) =>
        let base := (s.func (s.launch b.launch).func).saveBase * 65536 + off * 4096
        if as.any fun a => overlaps a 1 base (size * 4096) then { b with invalid := true } else b
      | _, _ => b }

/-- The home takes the stamp of an event on a line (R214). A line that the home cache has no way for goes back to memory at once (R216). -/
def Tower.stamped (t : Tower) (line : Nat) (st : Stamp) : Tower :=
  { t with
    count := max t.count (stampCount st), home := t.home.map fun h => if h.line = line then { h with stamp := st } else h
    eFloor := if (t.homeLine line).isSome then t.eFloor else maxStamp t.eFloor st }

/-! ### Waits on words of memory (R62, R371) -/

/-- The wave is where its waits are tested: resident and not stopped (R372). -/
def State.waits (s : State) (wi e : Nat) : Bool :=
  let w := s.wave wi
  !w.ended && (s.blockOf w).status == .resident && !s.stoppedWave w && !w.taken && (w.fragAt e).state == .wait

/-- What a wait form reads at a home of the device: the address, the bytes and the key of its page (R62, R371). -/
def WaitFor.watch : WaitFor → Option (Nat × Nat × Nat)
  | .waita _ _ .global a key _ => if peerOf a = 0 then some (a, 4, key) else none
  | .waitbit a _ key _ => if peerOf a = 0 then some (a, 8, key) else none
  | _ => none

/-- A value read by a wait form meets its condition (R62, R371). -/
def WaitFor.metBy (c : WaitFor) (x : Nat) : Bool :=
  match c with
  | .waita cond v _ _ _ _ => WCond.holds cond (BitVec.ofNat 32 x) v
  | .waitbit _ bit _ _ => x.testBit bit
  | _ => false

/-- The wait of a fragment after a store event of some bytes at the home: it reads the value that the event leaves, and a met one stays met whatever
later events write (R62, R371). -/
def State.seeFrag (s : State) (as : List Nat) (st : Stamp) (f : Frag) : Frag :=
  match f.wait.bind WaitFor.watch with
  | none => f
  | some (a, n, key) =>
    if (as.any fun x => overlaps x 1 a n) && f.seen.isNone && ((f.wait.map fun c => c.metBy (leNat (s.peekBy key) a n)).getD false) then
      { f with seen := some st }
    else f

/-- Every wait on a word that a store event of some bytes meets reads it again at that event (R62, R371). -/
def State.seeEvent (s : State) (as : List Nat) (st : Stamp) : State :=
  { s with waves := (List.range s.waves.length).map fun wi =>
      let w := s.wave wi
      if w.frags.any fun f => f.state == .wait then
        { w with frags := (List.range w.frags.length).map fun e => if s.waits wi e then s.seeFrag as st (w.fragAt e) else w.fragAt e }
      else w }

/-- A store event performed at its home: the stamp, the version record of a registered page, the bytes, LSTAMP, the reservations that it ends, and
the waits that it meets (R214, R228, R325, R371). At a peer the stamp is that of a count query (R283). -/
def State.homeStore (s : State) (r : Req) (own : Option (Nat × Nat)) : State × Stamp :=
  let as := r.bytes.map fun b => b.1
  let s := s.spoil as
  if peerOf r.line ≠ 0 then
    (((s.poke r.bytes).loseSpan none as own).count r.func 0x0E (if r.func = Config.pf then as.length else 0), s.countQuery)
  else
    let s := s.touchBy (r.kind != .host) r.func r.line r.mark
    let st := s.nextStamp r.line r.floor
    let s := (s.appendVersion r.line st).modTower (homeOf r.line) fun t => t.stamped r.line st
    (((s.pokeBy r.key r.bytes).loseSpan none as own).seeEvent as st, st)

/-! ### Words of the caches -/

/-- A byte of a word replaced. -/
def setByte (x : Word) (k : Nat) (b : Byte) : Word := (x &&& ~~~ ((0xFF : Word) <<< (8 * k))) ||| (b.setWidth 32 <<< (8 * k))

/-- The valid words of a line with the bytes of a store put in; a word that is not valid stays so. -/
def updateWords (line : Nat) (ws : List (Option Word)) (bs : List (Nat × Byte)) : List (Option Word) :=
  bs.foldl (fun ws b => ws.modify ((b.1 - line) / 4) fun x => x.map fun x => setByte x ((b.1 - line) % 4) b.2) ws

/-- The words that a store meets become invalid. -/
def dropWords (line : Nat) (ws : List (Option Word)) (as : List Nat) : List (Option Word) :=
  as.foldl (fun ws a => ws.set ((a - line) / 4) none) ws

/-- The valid words of a line after a store: they take its bytes, but those of CB stores become invalid, and all of them where the line was read
through another key pair (R163, R168, R349). -/
def storedWords (line : Nat) (same : Bool) (ws : List (Option Word)) (bs : List (Nat × Byte)) (cb : List Nat) : List (Option Word) :=
  if same then dropWords line (updateWords line ws bs) cb else dropWords line ws (bs.map fun b => b.1)

/-- The L1 line after a store on its way (R168, R216, R349). -/
def L1Line.stored (l : L1Line) (pair : Option (List Word64)) (r : Req) (cb : List Nat) : L1Line :=
  if l.line = r.line then { l with words := storedWords r.line (l.pair == pair) l.words r.bytes cb, stamp := maxStamp l.stamp r.floor } else l

/-- The remote line after a store that is forwarded to the home: it keeps no dirty byte of it (R174, R216). -/
def RLine.stored (l : RLine) (pair : Option (List Word64)) (r : Req) : RLine :=
  if l.line = r.line then
    { l with
      words := storedWords r.line (l.pair == pair) l.words r.bytes [], stamp := maxStamp l.stamp r.floor, mark := mergeMark l.mark r.mark }
  else l

/-- The valid words of a core's L1 take a store (R168). -/
def State.storeL1 (s : State) (core : Nat) (r : Req) (cb : List Nat) : State :=
  s.modCore core fun c => { c with l1 := c.l1.map fun l => l.stored (s.pair r.key) r cb }

/-- The valid words of a tower's remote cache take a store that the home performs (R174). -/
def State.storeRemote (s : State) (t : Nat) (r : Req) : State :=
  s.modTower t fun w => { w with remote := w.remote.map fun l => l.stored (s.pair r.key) r }

/-! ### Requests (R173, R214) -/

/-- Strong accesses performed now: the home reports those that overlap one of another size of the last 8,192 base-die cycles (R186). -/
def State.noteStrong (s : State) (as : List (Nat × Nat)) : State :=
  let old := s.strong.filter fun x => s.tick < x.tick + 8192
  let new := as.map fun a => Strong.mk s.tick a.1 a.2
  let clashes := fun (a b : Strong) => a.size != b.size && overlaps a.addr a.size b.addr b.size
  if as.isEmpty then s
  else
    { s with
      strong := old ++ new
      dbgEvents := s.dbgEvents ++ new.flatMap fun x => (old.filter fun y => clashes x y).map fun y =>
        StrongPair.mk x.addr x.size y.addr y.size }

/-- A pending STC that waits for the stamps of its events takes one; with the last it is ready to write the pair (R226). -/
def Pending.acked (p : Pending) (id : Nat) (st : Stamp) : Pending :=
  match p.tag with
  | .stc reqs pair best =>
    if reqs.contains id then
      let rest := reqs.filter fun r => r != id
      let top := maxStamp best st
      if rest.isEmpty then
        { p with
          tag := .ready, sf := top, writes := [.s pair (top.setWidth 32), .s (pair + 1) ((top >>> 32).setWidth 32)] ++ p.writes.drop 2 }
      else { p with tag := .stc rest pair top }
    else p
  | _ => p

/-- A store acknowledgement reaches its wave: SF rises, and a KEEP stamp is no longer outstanding (R214, R217, R218). -/
def State.ack (s : State) (r : Req) (st : Stamp) : State :=
  match r.wave with
  | none => s
  | some wi => s.modWave wi fun w => { (w.raise st) with
      keepOut := w.keepOut.filter fun k => k != r.id, pending := w.pending.map fun p => p.acked r.id st }

/-- The caches of the core that sent a request take its bytes, where they have waited for its event (R168, R180). -/
def State.showDirect (s : State) (r : Req) : State :=
  match r.via with
  | .direct core cb => (s.storeL1 core r cb).storeRemote (towerOf core) r
  | .shown _ _ | .other => s

/-- A waiting request is performed; the end of a pin lets the device's own writes go on (R187). -/
def State.perform (s : State) (r : Req) : State :=
  let x := { s with reqs := s.reqs.filter fun q => q.id != r.id }.homeStore r none
  let t := ((x.1.ack r x.2).noteStrong r.strong).showDirect r
  if r.kind = .pin then t.pokeLate else t

/-- The waiting requests of a list that satisfy a condition are performed in order, as far as none of their line is blocked. -/
def State.performList (p : Req → Bool) : List Req → List Nat → State → State
  | [], _, s => s
  | r :: rest, held, s =>
    if !p r then State.performList p rest held s
    else if held.contains r.line || s.blocked r then State.performList p rest (r.line :: held) s
    else State.performList p rest held (s.perform r)

/-- The waiting requests that satisfy a condition are performed. -/
def State.performWhere (s : State) (p : Req → Bool) : State := State.performList p s.reqs [] s

/-- The waiting requests of a line are performed: an access that reaches the home later comes after them (R173). -/
def State.flushLine (s : State) (line : Nat) : State := s.performWhere fun r => r.line == line

/-- A request is sent to its home under the next number. -/
def State.send (s : State) (r : Req) : State := { s with reqs := s.reqs ++ [{ r with id := s.nextReq }], nextReq := s.nextReq + 1 }

/-! ### Remote caches (R172, R174) -/

/-- No word of a line. -/
def noWords : List (Option Word) := List.replicate 32 none

/-- The remote-cache line of a tower; its clean words are valid for 8,192 base-die cycles after a fill (R174). -/
def State.rline (s : State) (t line : Nat) : Option RLine :=
  ((s.tower t).remote.find? fun r => r.line == line).map fun r =>
    if s.tick < r.filled + Config.remoteLease then r else { r with words := noWords }

/-- The set of a line in a remote cache (log 16: DESIGN CHOICE). -/
def remoteSet (line : Nat) : Nat := line / 128 % Config.cacheSets

/-- The limit of EL lines in the set of a remote line (R175). -/
def trimRemote (line : Nat) (l : List RLine) : List RLine :=
  trimEl RLine.mark (fun x => { x with mark := .dflt }) Config.remoteWays (fun x => remoteSet x.line == remoteSet line) l

/-- The remote cache with a line replaced or added. -/
def Tower.putRline (t : Tower) (r : RLine) : Tower :=
  { t with remote := trimRemote r.line (r :: t.remote.filter fun x => x.line != r.line) }

/-- The dirty bytes of a remote line after a store of a wave: one entry for each byte, the latest. -/
def dirtied (line : Nat) (d : List DirtyByte) (bs : List (Nat × Byte)) (sf : Stamp) (wi : Nat) : List DirtyByte :=
  bs.foldl (fun d b => ⟨b.1 - line, b.2, sf, wi⟩ :: d.filter fun x => x.off != b.1 - line) d

/-- The dirty bytes of a remote line are sent to the home, with the largest SF among them as floor (R174, R214). -/
def State.flushRemote (s : State) (t line : Nat) : State :=
  match s.rline t line with
  | none => s
  | some r =>
    if r.dirty.isEmpty then s
    else
      let bs := r.dirty.reverse.map fun d => (line + d.off, d.val)
      let s := s.modTower t fun w => { w with remote := w.remote.map fun x => if x.line = line then { x with dirty := [], strong := [] } else x }
      s.send ⟨0, none, r.func, line, bs, r.dirty.foldl (fun m d => maxStamp m d.sf) 0, r.key, .dflt, r.strong, .flush,
        .shown t (distinct (r.dirty.map fun d => d.wave))⟩

/-- A line comes into a remote cache: where its set is full, the next victim leaves, its dirty bytes flushed first (R174, R175, R284). -/
def State.makeRoom (s : State) (t f line : Nat) : State :=
  let mine := (s.tower t).remote.filter fun r => remoteSet r.line == remoteSet line
  if (mine.any fun r => r.line == line) || mine.length < Config.remoteWays then s
  else match victimBy RLine.mark mine with
    | none => s
    | some v => ((s.flushRemote t v.line).modTower t fun w => { w with remote := w.remote.filter fun r => r.line != v.line }).countEvict v.func f

/-- The remote cache of a tower takes the bytes of a store as dirty (R174). Dirty bytes under another key leave first (R163). -/
def State.remoteStore (s : State) (t : Nat) (r : Req) : State :=
  let p := s.pair r.key
  let s := match s.rline t r.line with
    | some x => if x.key = r.key ∧ x.pair = p then s else s.flushRemote t r.line
    | none => s.makeRoom t r.func r.line
  let x := (s.rline t r.line).getD ⟨r.line, noWords, [], 0, 0, 0, r.func, r.key, .dflt, p, []⟩
  s.modTower t fun w => w.putRline
    { x with
      words := if x.pair = p then updateWords r.line x.words r.bytes else noWords
      dirty := dirtied r.line x.dirty r.bytes r.floor (r.wave.getD 0), func := r.func, key := r.key, pair := p, strong := x.strong ++ r.strong
      dirtied := if x.dirty.isEmpty then s.tick else x.dirtied, mark := mergeMark x.mark r.mark }

/-- The home recalls the dirty bytes of a line from every remote cache and performs their flush (R173). -/
def State.recall (s : State) (line : Nat) : State :=
  ((List.range Config.towers).foldl (fun s t => s.flushRemote t line) s).flushLine line

/-- Every dirty byte of a tower's remote cache is flushed (R174). -/
def State.flushTower (s : State) (t : Nat) : State := (s.tower t).remote.foldl (fun s r => s.flushRemote t r.line) s

/-- The requests that wait at the home of a line and whose bytes the caches of a tower show (R168, R174). -/
def State.shownReqs (s : State) (t line : Nat) : List Req := s.reqs.filter fun r => r.line == line && match r.via with
  | .shown u _ => u == t
  | .direct _ _ | .other => false

/-- The 32 words of a line as a tower's core finds them at its home through a key: those of memory, with the bytes that wait there and that the
tower's caches show already; a fill brings in nothing older than these (R163, R177, R182). -/
def State.homeWords (s : State) (t key line : Nat) : List (Option Word) :=
  (s.shownReqs t line).foldl (fun ws r => storedWords line (s.pair r.key == s.pair key) ws r.bytes [])
    ((List.range 32).map fun k => some (BitVec.ofNat 32 (leNat (s.peekBy key) (line + 4 * k) 4)))

/-- The stamp of those words: LSTAMP, or the SF of a store that waits (R216). -/
def State.homeStamp (s : State) (t line : Nat) : Stamp := (s.shownReqs t line).foldl (fun m r => maxStamp m r.floor) (s.lstampOf line)

/-- A request that the tower's caches show waits under another key pair: a fetch of the line waits for it (R163). -/
def State.keyWaits (s : State) (t key line : Nat) : Bool := (s.shownReqs t line).any fun r => s.pair r.key != s.pair key

/-- The words of a fetched line with the remote cache's dirty bytes kept (R174). -/
def overlay (line : Nat) (ws : List (Option Word)) (d : List DirtyByte) : List (Option Word) :=
  updateWords line ws (d.reverse.map fun x => (line + x.off, x.val))

/-- The words of a remote line and their stamp: the largest among its fill's and those of the dirty bytes (R216). -/
def RLine.answer (r : RLine) : List Word × Stamp := (r.words.map fun x => x.getD 0, r.dirty.foldl (fun m d => maxStamp m d.sf) r.stamp)

/-- The dirty bytes of a remote line that stand under another key pair leave before an access through a key (R163). -/
def State.rekey (s : State) (t key line : Nat) : State :=
  match s.rline t line with
  | some r => if r.pair = s.pair key then s else s.flushRemote t line
  | none => s

/-- A remote-cache line with every word fetched from the home; the mark of an earlier fill of it ends (R174, R175). -/
def State.fetchRemote (s : State) (t f key line : Nat) (mark : Mark) : State × RLine :=
  let s := (((((s.rekey t key line).flushLine line).touch f line .dflt).count f 9 1).makeRoom t f line)
  let p := s.pair key
  let old := (s.rline t line).getD ⟨line, noWords, [], 0, 0, 0, f, key, .dflt, p, []⟩
  let r := { old with
    words := overlay line (s.homeWords t key line) old.dirty, stamp := s.homeStamp t line, filled := s.tick, func := f, mark := mark
    key := if old.dirty.isEmpty then key else old.key, pair := p }
  (s.modTower t fun w => w.putRline r, r)

/-- The words of a line beyond the L1 through a key, with their stamp: at its home in the core's tower, else in the tower's remote cache, which
fetches it where some word asked for is not valid (R24, R163, R174, R216). -/
def State.readLine (s : State) (core f key line : Nat) (need : List Nat) (mark : Mark) : State × List Word × Stamp :=
  let t := towerOf core
  if homeOf line = t ∨ peerOf line ≠ 0 then
    let s := (s.flushLine line).touch f line mark
    (s, (s.homeWords t key line).map fun x => x.getD 0, s.homeStamp t line)
  else match (s.rline t line).filter fun r => r.pair == s.pair key && need.all fun k => (r.words.getD k none).isSome with
    | some r => (if mark = .dflt then s else s.modTower t fun w => w.putRline { r with mark := mergeMark r.mark mark }, r.answer)
    | none =>
      let x := s.fetchRemote t f key line mark
      (x.1, x.2.answer)

/-! ### The L1 (R168, R169, R175) -/

/-- The line hits: its generation and its lease hold, and the words asked for are valid under the key pair (R163, R168, R169). -/
def L1Line.hits (l : L1Line) (gen : BitVec 8) (now : Nat) (pair : Option (List Word64)) (need : List Nat) : Bool :=
  l.gen == gen && now < l.filled + Config.l1Lease && l.pair == pair && need.all fun k => (l.words.getD k none).isSome

/-- The set of a line: R165 gives their number (log 16: DESIGN CHOICE). -/
def l1Set (line : Nat) : Nat := line / 128 % 128

/-- The ways that no resident block of the core holds (R165). -/
def State.l1Ways (s : State) (core : Nat) : Nat :=
  Config.ways - s.blocks.foldl (fun n b =>
    if b.core == core && (b.status == .resident || b.status == .stopped) then n + b.ways.length else n) 0

/-- The limit of EL lines in a set of an L1 with some ways (R175). -/
def trimL1 (ways line : Nat) (l : List L1Line) : List L1Line :=
  trimEl L1Line.mark (fun l => { l with mark := .dflt }) ways (fun l => l1Set l.line == l1Set line) l

/-- A line filled into the L1 through a key; the mark of an earlier fill of it ends (R168, R175). -/
def State.fillL1 (s : State) (core key line : Nat) (ws : List Word) (st : Stamp) (mark : Mark) : State :=
  let ways := s.l1Ways core
  let now := s.cycle core
  s.modCore core fun c =>
    let rest := c.l1.filter fun l => l.line != line
    let mine := rest.filter fun l => l1Set l.line == l1Set line
    let rest := if mine.length < ways then rest
      else match victimBy L1Line.mark mine with
        | none => rest
        | some v => rest.filter fun l => l.line != v.line
    if ways = 0 then { c with l1 := rest }
    else { c with l1 := trimL1 ways line (⟨line, c.gen, now, ws.map some, st, mark, s.pair key⟩ :: rest) }

/-- The words of a line on the L1 path through a key, with their stamp (R168). -/
def State.readL1 (s : State) (core f key line : Nat) (need : List Nat) (mark : Mark) : State × List Word × Stamp :=
  match (s.core core).l1.find? fun l => l.line == line && l.hits (s.core core).gen (s.cycle core) (s.pair key) need with
  | some l => (s.count f 3 1, l.words.map fun x => x.getD 0, l.stamp)
  | none =>
    let r := (s.count f 4 1).readLine core f key line (List.range 32) mark
    (r.1.fillL1 core key line r.2.1 r.2.2 mark, r.2.1, r.2.2)

/-- The L1 copies of words become invalid (R168). -/
def State.dropL1 (s : State) (core : Nat) (as : List Nat) : State :=
  if as.isEmpty then s
  else s.modCore core fun c => { c with l1 := c.l1.map fun l =>
    let mine := as.filter fun a => lineOf a == l.line
    if mine.isEmpty then l else { l with words := dropWords l.line l.words mine } }

/-- The remote copies of words become invalid; dirty bytes of them do not outlive them (R304). -/
def State.dropRemote (s : State) (t : Nat) (as : List Nat) : State :=
  if as.isEmpty then s
  else s.modTower t fun w => { w with remote := w.remote.map fun r =>
    let mine := as.filter fun a => lineOf a == r.line
    if mine.isEmpty then r else { r with words := dropWords r.line r.words mine, dirty := r.dirty.filter fun d => !mine.contains (r.line + d.off) } }

/-- A remote line whose words at some addresses take values read through a key pair; one read through another loses them (R163, R174). -/
def RLine.put (pair : Option (List Word64)) (as : List Nat) (val : Nat → Word) (st : Stamp) (r : RLine) : RLine :=
  let mine := as.filter fun a => lineOf a == r.line
  if mine.isEmpty then r
  else if r.pair = pair then
    { r with words := mine.foldl (fun ws a => ws.set ((a - r.line) / 4) (some (val (a / 4 * 4)))) r.words, stamp := maxStamp r.stamp st }
  else { r with words := dropWords r.line r.words mine }

/-- The tower's remote copies of the words of some addresses take values read through a key, and with them their stamp; a copy read through another
key pair loses them (R163, R174, R178, R216). -/
def State.putRemote (s : State) (t key : Nat) (as : List Nat) (val : Nat → Word) (st : Stamp) : State :=
  if as.isEmpty then s
  else s.modTower t fun w => { w with remote := w.remote.map (RLine.put (s.pair key) as val st) }

/-! ### Write combining (R170, R171) -/

/-- The partition of a wave. -/
def State.partOf (s : State) (w : Wave) : Part := (s.core (s.coreOf w)).parts.getD w.part default

/-- The state with the partition of a wave changed. -/
def State.modPart (s : State) (core part : Nat) (f : Part → Part) : State :=
  s.modCore core fun c => { c with parts := c.parts.modify part f }

/-- A store leaves the core: its L1 takes it, and it goes to its home in the core's tower or at a peer, else into the tower's remote cache
(R24, R168, R174). -/
def State.forward (s : State) (core : Nat) (r : Req) (cb : List Nat) : State :=
  let s := s.storeL1 core r cb
  if homeOf r.line = towerOf core ∨ peerOf r.line ≠ 0 then s.send r else s.remoteStore (towerOf core) r

/-- A store goes to its home as an event of its own: the remote cache keeps no dirty byte of it. The valid words of the caches take it as it leaves
the core, or, where its order is a release at DV or SY, when the home performs it (R168, R174, R180). -/
def State.forwardHome (s : State) (core : Nat) (r : Req) (cb : List Nat) (strong : Bool) : State :=
  let t := towerOf core
  let s := s.flushRemote t r.line
  let r := { r with mark := if homeOf r.line = t ∨ peerOf r.line ≠ 0 then r.mark else .dflt }
  if strong then s.send { r with via := .direct core cb }
  else ((s.storeL1 core r cb).storeRemote t r).send { r with via := .shown t r.wave.toList }

/-- A write-combining line drains (R170). -/
def State.drainLine (s : State) (core part : Nat) (l : WcLine) : State :=
  (s.modPart core part fun p => { p with wc := p.wc.filter fun x => x != l }).forward core
    ⟨0, some l.wave, s.funcOf (s.wave l.wave), l.line, l.bytes.reverse, l.sf, l.key, l.mark, l.strong, .store,
      .shown (towerOf core) [l.wave]⟩ l.cb

/-- The lines of a wave that satisfy a condition drain. -/
def State.drainWhere (s : State) (wi : Nat) (p : WcLine → Bool) : State :=
  let w := s.wave wi
  ((s.partOf w).wc.filter fun l => l.wave == wi && p l).foldl (fun s l => s.drainLine (s.coreOf w) w.part l) s

/-- Every line of a wave drains. -/
def State.drainAll (s : State) (wi : Nat) : State := s.drainWhere wi fun _ => true

/-- The copies of a line that other waves hold in the wave's buffer drain (R170). -/
def State.drainOthers (s : State) (wi line : Nat) : State :=
  let w := s.wave wi
  ((s.partOf w).wc.filter fun l => l.wave != wi && l.line == line).foldl (fun s l => s.drainLine (s.coreOf w) w.part l) s

/-- The oldest line of a list: the earliest first write. -/
def oldestWc : List WcLine → Option WcLine
  | [] => none
  | l :: r => match oldestWc r with
    | none => some l
    | some m => if m.first < l.first then some m else some l

/-- A write-combining line with a further store of its wave (R170, R175, R186, R349). -/
def WcLine.merge (l : WcLine) (bs : List (Nat × Byte)) (sf : Stamp) (cb : List Nat) (mark : Mark) (strong : List (Nat × Nat)) : WcLine :=
  { l with
    bytes := bs.reverse ++ l.bytes.filter (fun b => !bs.any fun c => c.1 == b.1)
    sf := maxStamp l.sf sf
    cb := cb ++ l.cb.filter fun a => !bs.any fun c => c.1 == a
    mark := mergeMark l.mark mark
    strong := l.strong ++ strong }

/-- A store of a wave enters the write-combining buffer: it merges into the wave's line; another wave's line drains first, and so does the
oldest where none of the four is free (R170). A line under another key drains too (R163). -/
def State.combine (s : State) (wi line key : Nat) (bs : List (Nat × Byte)) (cb : List Nat) (mark : Mark)
    (strong : List (Nat × Nat)) : State :=
  let w := s.wave wi
  let core := s.coreOf w
  let s := (s.drainOthers wi line).drainWhere wi fun l => l.line == line && l.key != key
  match (s.partOf w).wc.find? fun l => l.wave == wi && l.line == line with
  | some l =>
    s.modPart core w.part fun p => { p with wc := p.wc.map fun x => if x = l then l.merge bs w.sf cb mark strong else x }
  | none =>
    let s := if (s.partOf w).wc.length < 4 then s
      else match oldestWc (s.partOf w).wc with
        | none => s
        | some l => s.drainLine core w.part l
    s.modPart core w.part fun p => { p with wc := p.wc ++ [⟨wi, line, bs.reverse, s.cycle core, w.sf, cb, key, mark, strong⟩] }

/-- The wave's own buffered byte at an address (R171). -/
def State.wcByte (s : State) (wi : Nat) (a : Nat) : Option Byte :=
  match (s.partOf (s.wave wi)).wc.find? fun l => l.wave == wi && l.line == lineOf a with
  | none => none
  | some l => (l.bytes.find? fun b => b.1 == a).map fun b => b.2

/-- A request that no cache shows is one of the wave: its own later loads see its bytes while it waits (R177). -/
def Req.hidden (r : Req) (wi : Nat) : Bool := r.wave == some wi && match r.via with
  | .direct _ _ => true
  | .shown _ _ | .other => false

/-- The byte at an address that the wave has stored and that only it sees yet: its buffered byte, or that of a store on its way that no cache shows
(R171, R177). -/
def State.buffered (s : State) (wi : Nat) (a : Nat) : Option Byte :=
  (s.wcByte wi a) <|> ((s.reqs.reverse.filter fun r => r.hidden wi).findSome? fun r => (r.bytes.reverse.find? fun b => b.1 == a).map fun b => b.2)

/-! ### Pins (R187, R188) -/

/-- The write-back of a pin: one store event of its line. -/
def State.pinReq (s : State) (p : Pin) : Req :=
  ⟨s.nextReq, none, match p.users with
    | u :: _ => s.funcOf (s.wave u)
    | [] => Config.pf, p.line, p.words.foldr (fun w l => leBytes (p.line + 4 * w.1) w.2.toNat 4 ++ l) [], p.sf, p.key, .dflt, [], .pin, .other⟩

/-- A pin ends: its words are written back as one store event, before any access that waits for them, and its reservations are lost; where the
lease ended it, their lanes know (R188, R325, R338). On a registered page without room the write-back waits, and with it the pin at the home
(R231). -/
def State.endPin (s : State) (core : Nat) (p : Pin) (byLease : Bool) : State :=
  let r := s.pinReq p
  let mine := s.resvs.filter fun r => r.pin == some core && lineOf r.addr == p.line
  let s := { (s.modCore core fun c => { c with pins := c.pins.filter fun q => q.line != p.line }) with
    resvs := s.resvs.filter fun r => !(r.pin == some core && lineOf r.addr == p.line) }
  let s := if byLease then mine.foldl (fun s r => s.modWave r.wave fun w => { w with pinLost := w.pinLost ||| 1 <<< r.lane }) s else s
  { s with reqs := r :: s.reqs, nextReq := s.nextReq + 1 }.flushLine p.line

/-- The pins of a core that satisfy a condition end. -/
def State.endPins (s : State) (core : Nat) (p : Pin → Bool) : State :=
  ((s.core core).pins.filter p).foldl (fun s q => s.endPin core q false) s

/-- The pins that a wave used end: it reaches a blocking point, is taken, stopped or ends (R188). -/
def State.endPinsOf (s : State) (wi : Nat) : State := s.endPins (s.coreOf (s.wave wi)) fun p => p.users.contains wi

/-- The words of a span. -/
def spanWords (a n : Nat) : List Nat := (List.range ((n + 3) / 4)).map fun k => (a - lineOf a) / 4 + k

/-- The core holds a span pinned. -/
def State.holdsPin (s : State) (core a n : Nat) : Bool :=
  match (s.core core).pins.find? fun p => p.line == lineOf a with
  | none => false
  | some p => (spanWords a n).all fun k => p.words.any fun w => w.1 == k

/-- A pin used by a wave (R188). -/
def Pin.use (p : Pin) (wi : Nat) (sf : Stamp) : Pin :=
  { p with users := if p.users.contains wi then p.users else p.users ++ [wi], sf := maxStamp p.sf sf }

/-- The oldest pin of a list: the one taken first. -/
def oldestPin : List Pin → Option Pin
  | [] => none
  | p :: r => match oldestPin r with
    | none => some p
    | some q => if q.taken < p.taken then some q else some p

/-- A pin of a line under another key ends before a wave uses the line through a key (R163). -/
def State.rekeyPin (s : State) (core key line : Nat) : State :=
  s.endPins core fun p => p.line == line && s.pair p.key != s.pair key

/-- A span is pinned for a wave: the dirty bytes of the line are recalled, and the words come into the pin buffer, whose oldest pin ends
where it is full (R187). A pin lasts as long as FPIN of the function of the wave that took it, or that last pinned a further span of its line, gave
then (log 18: DESIGN CHOICE). -/
def State.takePin (s : State) (wi key a n : Nat) : State :=
  let w := s.wave wi
  let core := s.coreOf w
  let s := s.rekeyPin core key (lineOf a)
  if s.holdsPin core a n then
    s.modCore core fun c => { c with pins := c.pins.map fun p => if p.line = lineOf a then p.use wi w.sf else p }
  else
    let s := (s.recall (lineOf a)).touch (s.funcOf w) (lineOf a) .dflt
    let old := (s.core core).pins.find? fun p => p.line == lineOf a
    let s := if old.isSome || (s.core core).pins.length < 64 then s
      else match oldestPin (s.core core).pins with
        | none => s
        | some p => s.endPin core p false
    let have_ := (old.map fun p => p.words).getD []
    let new := (spanWords a n).filter fun k => !have_.any fun x => x.1 == k
    let words := have_ ++ new.map fun k => (k, BitVec.ofNat 32 (leNat (s.peekBy key) (lineOf a + 4 * k) 4))
    let users := (old.map fun p => p.users).getD []
    let pin : Pin := ⟨lineOf a, words, (old.map fun p => p.taken).getD (s.cycle core), (s.func (s.funcOf w)).fpin,
      if users.contains wi then users else users ++ [wi],
      maxStamp ((old.map fun p => p.sf).getD 0) (maxStamp w.sf (s.lstampOf (lineOf a))), key⟩
    s.modCore core fun c => { c with pins := (c.pins.filter fun p => p.line != lineOf a) ++ [pin] }

/-- A word of a line in a core's pin buffer. -/
def State.pinWord (s : State) (core a : Nat) : Word :=
  match (s.core core).pins.find? fun p => p.line == lineOf a with
  | none => 0
  | some p => ((p.words.find? fun w => w.1 == (a - lineOf a) / 4).map fun w => w.2).getD 0

/-- The value of a pinned span. -/
def State.pinNat (s : State) (core a n : Nat) : Nat :=
  (spanWords a n).foldr (fun k x => (s.pinWord core (lineOf a + 4 * k)).toNat + 2 ^ 32 * x) 0

/-- The stamp that a value of a pinned line carries: that of its words when they were pinned, and the SF of the waves that used it. -/
def State.pinStamp (s : State) (core a : Nat) : Stamp := (((s.core core).pins.find? fun p => p.line == lineOf a).map fun p => p.sf).getD 0

/-- A pin with the words of a span written. -/
def Pin.write (p : Pin) (a n x : Nat) : Pin :=
  { p with
    words := p.words.map fun w =>
      if (spanWords a n).contains w.1 then (w.1, BitVec.ofNat 32 (x / 2 ^ (32 * (w.1 - (a - lineOf a) / 4)))) else w }

/-- A pinned span written; other reservations on it are lost (R188). -/
def State.pinWrite (s : State) (core a n x : Nat) (own : Option (Nat × Nat)) : State :=
  (s.modCore core fun c => { c with pins := c.pins.map fun p => if p.line = lineOf a then p.write a n x else p }).loseSpan
    (some core) ((List.range n).map fun k => a + k) own

/-- The reply of an operation under a pin: the tower's copy takes the words of the pin buffer, and no L1 copy stays (R168, R174, R178). -/
def State.pinReply (s : State) (core key : Nat) (as : List Nat) : State :=
  (s.dropL1 core as).putRemote (towerOf core) key as (s.pinWord core) (as.foldl (fun m a => maxStamp m (s.pinStamp core a)) 0)

/-! ### Release and acquire (R179, R180) -/

/-- The block floor of a wave's block raised to its SF (R219). -/
def State.raiseBsf (s : State) (wi : Nat) : State :=
  let w := s.wave wi
  s.modBlock w.block fun b => { b with bsf := maxStamp b.bsf w.sf }

/-- A write of the wave to a KEEP page has not returned its stamp: a store, a copy or a tile store (R218, R304, R379). -/
def State.keepPending (s : State) (wi : Nat) : Bool :=
  !(s.wave wi).keepOut.isEmpty || (s.copies.any fun c => c.wave == wi && c.keep) || s.xfers.any fun c => c.wave == wi && c.keep

/-- What a release of a wave at a scope sends on its way, performed as far as the homes can go now: its lines drain, at TW and wider the pins of
the core end, and at DV and SY every dirty byte of the tower is flushed (R170, R174, R179, R188). -/
def State.release (s : State) (wi : Nat) (sc : Scope) : State :=
  let w := s.wave wi
  let core := s.coreOf w
  let s := s.drainAll wi
  let s := if wideScope sc then s.endPins core fun _ => true else s
  let s := if homeScope sc then s.flushTower (towerOf core) else s
  s.performWhere fun r => homeScope sc || r.wave == some wi

/-- An outstanding result that an access of memory returns (R184). -/
def Pending.access (p : Pending) : Bool :=
  match p.tag with
  | .raise | .rank _ => false
  | .ready | .timed _ | .asof _ _ | .stc _ _ _ | .order _ => true

/-- An STC whose stamps have not all returned (R226). -/
def Pending.storing (p : Pending) : Bool :=
  match p.tag with
  | .stc _ _ _ => true
  | _ => false

/-- The request flushes dirty bytes, or writes back a pin, that may carry stores of the function: its own, or those of the PF, which uses every
key. -/
def flushOf (f : Nat) (r : Req) : Bool :=
  (r.kind == .flush || r.kind == .pin) && (r.func == f || r.func == Config.pf || f == Config.pf)

/-- The wave's earlier loads and stores have been performed at a scope: their values and KEEP stamps have returned, and no store of the wave, nor at
DV and SY a flush, waits at a home (R179, R180, R218). -/
def State.released (s : State) (wi : Nat) (sc : Scope) : Bool :=
  let w := s.wave wi
  !s.keepPending wi && (w.pending.all fun p => !p.access) && (sc == .wv || s.reqs.all fun r => r.wave != some wi) &&
    (!homeScope sc || s.reqs.all fun r => !flushOf (s.funcOf w) r)

/-- A release that is complete raises the block floor, at BK and wider (R219). -/
def State.published (s : State) (wi : Nat) (sc : Scope) : State := if sc = .wv then s else s.raiseBsf wi

/-- GEN counts up; at the wrap every line is invalid (R169). -/
def Core.nextGen (c : Core) : Core := { c with gen := c.gen + 1, l1 := if c.gen = 255 then [] else c.l1 }

/-- An acquire on a core of its tower: the L1 at TW and wider, the tower's clean remote words at DV and SY (R169, R174, R179). -/
def State.acquireAt (s : State) (core : Nat) (sc : Scope) : State :=
  let s := if wideScope sc then s.modCore core Core.nextGen else s
  if homeScope sc then
    s.modTower (towerOf core) fun t => { t with remote := t.remote.map fun r => { r with words := noWords } }
  else s

/-- The SF of a wave rises to the block floor, at BK and wider (R219). -/
def State.takeBsf (s : State) (wi : Nat) (sc : Scope) : State :=
  if sc = .wv then s else s.modWave wi fun w => w.raise (s.block w.block).bsf

/-- An acquire of a wave at a scope (R179, R219). -/
def State.acquire (s : State) (wi : Nat) (sc : Scope) : State :=
  let s := s.takeBsf wi sc
  s.acquireAt (s.coreOf (s.wave wi)) sc

/-! ### Orders under way (R180, R183, R184) -/

/-- An engine operation of some pages uses one of a peer or of the host-coherent window (R184, R282). -/
def State.farMap (s : State) (m : List PageUse) : Bool := m.any fun x => peerOf (x.page * 65536) != 0 || s.inWindow (x.page * 65536) 65536

/-- The accesses that an order of a wave awaits have been performed, and none that has issued before it waits on an order of its own (R180, R183, R184,
R218, R282). -/
def State.holdDone (s : State) (wi : Nat) (h : Hold) : Bool :=
  let w := s.wave wi
  let pend := w.pending.take h.pend
  let loads := pend.all fun p => !p.access || p.storing
  let stores := (pend.all fun p => !p.storing) && (w.keepOut.all fun r => h.req ≤ r) &&
    (h.scope == .wv || s.reqs.all fun r => r.wave != some wi || h.req ≤ r.id) &&
    (!homeScope h.scope || s.reqs.all fun r => !flushOf (s.funcOf w) r || h.req ≤ r.id)
  let copies := fun (p : CopyOp → Bool) => s.copies.all fun c => !(c.wave == wi && c.id < h.op && p c)
  let xfers := fun (p : XferOp → Bool) => s.xfers.all fun c => !(c.wave == wi && c.id < h.op && p c)
  ((w.holds.takeWhile fun x => x != h).all fun x => x.access.isNone) &&
  (!h.pred.getLsbD 7 || loads) && (!h.pred.getLsbD 6 || stores) &&
  (h.pred &&& 0x30 == 0 || copies fun _ => true) &&
  (h.pred &&& 0x50 == 0 || ((w.keepOut.all fun r => h.req ≤ r) && copies (fun c => c.keep) && xfers fun c => c.keep)) &&
  (h.pred &&& 0x0C == 0 || ((w.outM.all fun o => h.op ≤ o) && (w.outK.all fun o => h.op ≤ o) && xfers fun _ => true)) &&
  (!h.pred.getLsbD 1 || w.outD.all fun o => h.op ≤ o) &&
  (!h.pred.getLsbD 0 || (loads && stores && copies (fun c => s.farMap c.map) && xfers fun c => s.farMap c.map))

/-- The order that the acquire of an access is: what the wave has outstanding of the classes `pred` is awaited, and every later load, store and
engine operation held until the acquire (R180). `req` and `op` bound what has been issued. -/
def Wave.acquireHold (w : Wave) (o : Order × Scope) (pred : BitVec 8) (req op : Nat) : List Hold :=
  if isAcq o.1 then [⟨w.pending.length, req, op, pred, 0x1FF, o.2, false, true, none⟩] else []

/-- An acquire that follows an access of the issuing word (R180). -/
def Wave.acquireAfter (w : Wave) (o : Order × Scope) (pred : BitVec 8) (req op : Nat) : Wave :=
  { w with holds := w.holds ++ w.acquireHold o pred req op }

end Sys2Proof.Machine
end

