-- ==== Sys2Proof/Machine/Access.lean ====
section
/-! DEFINITION. What the memory forms share: the order of an access (R180), the paths of its reads (R168, R171, R174), store events
(R170, R349), accesses performed at the home or under a pin (R173, R187, R296), and reads as of a stamp (R223 to R225). -/

namespace Sys2Proof.Machine

/-! ### Ending a word -/

/-- The issuing wave's word ends with a change of the wave, and the next word follows. -/
def State.retire (s : State) (k : WordKind) (p : Bool) (f : Wave → Wave) : Out :=
  .next (s.modWave s.issuing fun w => (f w).stepAs k p)

/-- A wave with a further outstanding long-class result (R91). -/
def Wave.pend (w : Wave) (x : Pending) : Wave := { w with pending := w.pending ++ [x] }

/-- As `pend`, for a word at an address that reads memory (R197). -/
def Wave.pendRead (w : Wave) (pc : VAddr) (x : Pending) : Wave := { w.pend { x with pc := pc } with readPc := pc }

/-- The acquire of an order follows an access that is performed at once (R180, R219). -/
def State.withAcquire (s : State) (wi : Nat) (o : Order × Scope) : State := if isAcq o.1 then s.acquire wi o.2 else s

/-! ### An access and its order (R180) -/

/-- What beginning an access gives: what holds it back, or the state after it and its outstanding result, if it has one. -/
abbrev Began := Except Stall (State × Option Pending)

/-- An access of a wave as it issues. -/
def Wave.accessOf (w : Wave) (i : Instr) (o : Order × Scope) (as : List Acc) : Access :=
  ⟨i, o, w.sregs, w.vregs, w.exec, as, w.pc, w.cur⟩

/-- The wave with its registers and EXEC as they stood when an access of it issued. -/
def State.issuer (s : State) (wi : Nat) (x : Access) : Wave :=
  let w := s.wave wi
  { w with sregs := x.sregs, vregs := x.vregs, mregs := w.mregs.set 0 x.exec }

/-- The classes of what the acquire of an access awaits; none where the acquire is part of the access (R180, R184). -/
def acquireClass : Instr → Option (BitVec 8)
  | .ld .. | .sld .. | .lds .. | .atom .. | .atoms .. | .lr .. | .sc .. => some 0x80
  | .st .. | .sst .. => some 0x40
  | .stc .. => some 0xC0
  | _ => none

/-- The wave with the outcome of an access: its outstanding result, and the order that its acquire is (R180). -/
def Wave.began (w : Wave) (x : Access) (res : Option Pending) (req op : Nat) : Wave :=
  let w := match res, x.word with
    | some p, .stc .. => w.pend p
    | some p, _ => w.pendRead x.pc p
    | none, _ => w
  match acquireClass x.word with
  | some pred => w.acquireAfter x.order pred req op
  | none => w

/-- The wave with an access that waits on its release, and with the registers that its result will write (R91, R180). -/
def Wave.awaitRelease (w : Wave) (x : Access) (dests : List RegWrite) (req op : Nat) : Wave :=
  { w with
    holds := w.holds ++ [⟨w.pending.length, req, op, 0xC0, 0x1FF, x.order.2, true, false, some (w.retired, x)⟩]
    pending := w.pending ++ if dests.isEmpty then [] else [⟨.order w.retired, dests, 0, none, false, x.pc, 0⟩] }

/-- The checked accesses of the access that waits on an order. -/
def Hold.accs (h : Hold) : List Acc := (h.access.map fun x => x.2.accs).getD []

/-- An access that has issued waits on its order. -/
def Wave.awaiting (w : Wave) : Bool := w.holds.any fun h => h.access.isSome

/-- The release of an order is complete at issue, and no earlier access of the wave waits on its own (R180). -/
def State.releasedNow (s : State) (wi : Nat) (sc : Scope) : Bool := s.released wi sc && !(s.wave wi).awaiting

/-- The issuing word is an access with an order: where the order has a release that is not complete, the word has issued and its access waits, while
the wave issues words that make no memory or engine access; else the access begins (R180, R219). `dests` are the registers of its result. -/
def State.ordered (s : State) (i : Instr) (k : WordKind) (p : Bool) (o : Order × Scope) (as : List Acc) (dests : List RegWrite)
    (act : State → Nat → Access → Began) : Out :=
  let wi := s.issuing
  let x := (s.wave wi).accessOf i o as
  let t := if isRel o.1 then s.release wi o.2 else s
  if isRel o.1 && !t.releasedNow wi o.2 then t.retire k p fun w => w.awaitRelease x dests t.nextReq t.nextOp
  else
    let t := if isRel o.1 then t.published wi o.2 else t
    match act t wi x with
    | .error r => t.stall r
    | .ok (u, res) => u.retire k p fun w => w.began x res u.nextReq u.nextOp

/-! ### Lines -/

/-- The lines of some accesses. -/
def linesOf (as : List Acc) : List Nat := distinct (as.map fun a => lineOf a.pa)

/-- The accesses on a line. -/
def onLine (as : List Acc) (line : Nat) : List Acc := as.filter fun a => lineOf a.pa == line

/-- The bytes of some accesses of a size. -/
def bytesOf (as : List Acc) (n : Nat) : List Nat := as.flatMap fun a => (List.range n).map fun k => a.pa + k

/-- The words of a line that some accesses touch. -/
def wordsOf (as : List Acc) (n : Nat) : List Nat := distinct (as.flatMap fun a => spanWords a.pa n)

/-! ### Reading (R168, R171, R174) -/

/-- The path of a read (R168, R178, R317). -/
inductive Path where
  /-- The L1, with the mark of a fill. -/
  | l1 (mark : Mark)
  /-- Beyond the L1. -/
  | bypass
  /-- At the home, with the mark of its line: host-coherent and peer pages. -/
  | home (mark : Mark)
  deriving DecidableEq, Repr

/-- The path of a load (R168, R317). -/
def pathOf (c : Cache) (a : Acc) : Path :=
  if a.leaf.hcw || peerOf a.pa != 0 then .home (markOf c)
  else match c with
    | .cb => .bypass
    | .dflt | .ef | .el => .l1 (markOf c)

/-- A waiting request carries stores of a wave (R177). -/
def Req.ofWave (r : Req) (wi : Nat) : Bool := r.wave == some wi || match r.via with
  | .shown _ ws => ws.contains wi
  | .direct _ _ | .other => false

/-- A waiting request carries bytes that a read at the home by a wave comes after: stores of the wave itself, flushed bytes, and those that the caches
of its tower show (R173, R177, R178). -/
def State.precedes (s : State) (wi : Nat) (r : Req) : Bool :=
  r.ofWave wi || r.kind == .flush || match r.via with
    | .shown t _ => t == towerOf (s.coreOf (s.wave wi))
    | .direct _ _ | .other => false

/-- The home of a line of a registered page has no room for its next record: what waits there waits for records (R231). -/
def State.awaitsRecord (s : State) (line : Nat) : Bool := match s.keepOf line with
  | some k => !s.logRoom k.func (homeOf line) 1
  | none => false

/-- A read at the home of a line must wait for requests that came before it; never for those that wait for records, whose bytes it sees (R173, R231). -/
def State.homeBehind (s : State) (wi line : Nat) : Bool := !s.awaitsRecord line && s.reqs.any fun r => r.line == line && s.precedes wi r

/-- A byte at its home as a read through a key finds it: that of memory, or that of the latest waiting request of some that come before the read
(R163, R231). -/
def State.byteAfter (s : State) (before : Req → Bool) (key a : Nat) : Byte :=
  (((s.reqs.reverse.filter fun r => r.line == lineOf a && before r && s.pair r.key == s.pair key).findSome? fun r =>
    (r.bytes.reverse.find? fun b => b.1 == a).map fun b => b.2)).getD (s.peekBy key a)

/-- A byte at its home as a read by a wave through a key finds it. -/
def State.homeByte (s : State) (wi key a : Nat) : Byte := s.byteAfter (s.precedes wi) key a

/-- A read of words of a line through a key must wait: it goes to the home, and there some byte that it fetches is pinned, or what comes before it
waits (R163, R177, R187). A fetch that fills a cache fetches the whole line (R168, R174). -/
def State.readBlocked (s : State) (wi key line : Nat) (need : List Nat) (path : Path) : Bool :=
  let core := s.coreOf (s.wave wi)
  let t := towerOf core
  let own := homeOf line == t || peerOf line != 0
  let has := fun (ws : List Nat) => match s.rline t line with
    | some r => r.pair == s.pair key && ws.all fun k => (r.words.getD k none).isSome
    | none => false
  let all := List.range 32
  let atHome := fun (ws : List Nat) => s.pinned (ws.map fun k => line + 4 * k) || (s.flushLine line).keyWaits t key line
  match path with
  | .l1 _ =>
    !((s.core core).l1.any fun l => l.line == line && l.hits (s.core core).gen (s.cycle core) (s.pair key) need) && (own || !has all) &&
      atHome all
  | .bypass => if own then atHome need else !has need && atHome all
  | .home _ => s.pinned (need.map fun k => line + 4 * k) || ((s.flushRemote t line).flushLine line).homeBehind wi line

/-- The words of a line on a path through a key, with their stamp. -/
def State.readPath (s : State) (wi key line : Nat) (need : List Nat) (path : Path) : State × List Word × Stamp :=
  let w := s.wave wi
  let core := s.coreOf w
  let f := s.funcOf w
  match path with
  | .l1 m => s.readL1 core f key line need m
  | .bypass => s.readLine core f key line need .dflt
  | .home m =>
    let s := ((s.flushRemote (towerOf core) line).flushLine line).touch f line m
    (s, (List.range 32).map fun k => BitVec.ofNat 32 (leNat (s.homeByte wi key) (line + 4 * k) 4),
      if peerOf line ≠ 0 then s.countQuery else s.homeStamp (towerOf core) line)

/-- What reading some lines gives: each line's words, and the largest stamp. -/
structure Reads where
  words : List (Nat × List Word)
  stamp : Stamp

/-- Lines read one after another. -/
def State.readLines (wi n : Nat) (path : Acc → Path) (as : List Acc) : List Nat → State → State × Reads
  | [], s => (s, ⟨[], 0⟩)
  | line :: r, s =>
    let mine := onLine as line
    match mine with
    | [] => State.readLines wi n path as r s
    | a :: _ =>
      let x := s.readPath wi a.leaf.key line (wordsOf mine n) (path a)
      let y := State.readLines wi n path as r x.1
      (y.1, ⟨(line, x.2.1) :: y.2.words, maxStamp x.2.2 y.2.stamp⟩)

/-- A byte of the lines read. -/
def Reads.byte (r : Reads) (a : Nat) : Byte :=
  match r.words.find? fun x => x.1 == lineOf a with
  | some x => (x.2.getD ((a - lineOf a) / 4) 0 >>> (8 * (a % 4))).setWidth 8
  | none => 0

/-- The value of an access: the wave's own buffered bytes, else the bytes read (R171). -/
def State.readValue (s : State) (wi : Nat) (r : Reads) (a n : Nat) : Nat := leNat (fun x => (s.buffered wi x).getD (r.byte x)) a n

/-- The largest stamp of a read: that of the lines, and SF where a byte comes from the wave's own buffer (R216). -/
def State.readStamp (s : State) (wi : Nat) (r : Reads) (as : List Acc) (n : Nat) : Stamp :=
  if (bytesOf as n).any fun x => (s.buffered wi x).isSome then maxStamp r.stamp (s.wave wi).sf else r.stamp

/-- Some line of some accesses must wait. -/
def State.readsBlocked (s : State) (wi n : Nat) (path : Acc → Path) (as : List Acc) : Bool :=
  (linesOf as).any fun line => match onLine as line with
    | [] => false
    | a :: r => s.readBlocked wi a.leaf.key line (wordsOf (a :: r) n) (path a)

/-- The register writes of lane values of a size from register `v` on (R316). -/
def Wave.loadWrites (w : Wave) (v : Nat) (z : MSize) (vals : List (Nat × Nat)) : List RegWrite :=
  (List.range (MSize.regs z)).map fun k =>
    w.lanesOf (v + k) fun l => MSize.reg z (((vals.find? fun x => x.1 == l).map fun x => x.2).getD 0) k

/-- A load is one from memory homed in another tower: some lane of it is, or lies at a peer (R79, log 31: DESIGN CHOICE). -/
def State.isRemote (s : State) (w : Wave) (as : List Acc) : Bool :=
  as.any fun a => homeOf a.pa != towerOf (s.coreOf w) || peerOf a.pa != 0

/-- The strong accesses of a form that its home watches: those of a launch with DBG set (R186). -/
def State.strongOf (s : State) (w : Wave) (as : List Acc) (n : Nat) : List (Nat × Nat) :=
  if (s.launchOf w).desc.dbg then as.map fun a => (a.pa, n) else []

/-- As `strongOf`, for an access that is strong by its order (R186). -/
def State.orderOf (s : State) (o : Order × Scope) (w : Wave) (as : List Acc) (n : Nat) : List (Nat × Nat) :=
  if o.1 = .rlx then [] else s.strongOf w as n

/-! ### Store events (R170, R174, R349) -/

/-- The bytes that lanes store, lowest lane first: of one byte the last entry counts (R177). -/
def Wave.storeBytes (w : Wave) (v : Nat) (z : MSize) (as : List Acc) : List (Nat × Byte) :=
  as.flatMap fun a => leBytes a.pa (w.vnat v a.lane (MSize.regs z)) (MSize.bytes z)

/-- How the bytes of a store leave: gathered in a write-combining line, or sent to the home as one event, and then perhaps with its stamp
awaited (R170, R174, R180, R218). -/
inductive Leave where
  | combined
  | sent
  | kept
  deriving DecidableEq, Repr

/-- How the bytes of a store on a page leave. `direct`: the order or the form sends them to the home. -/
def leaveOf (direct : Bool) (a : Acc) : Leave :=
  if a.leaf.keep then .kept else if direct || peerOf a.pa != 0 then .sent else .combined

/-- How the stores of a form leave: whether each goes to its home as an event of its own, whether its order is a release at DV or SY, whether it is a
CB store, its mark, and the strong accesses that it makes (R170, R180, R186, R349). -/
structure StoreForm where
  direct : Bool
  atHome : Bool
  cb : Bool
  mark : Mark
  strong : List (Nat × Nat)

/-- The bytes of one line leave the wave under a key; the requests sent are listed. -/
def State.storeLine (s : State) (wi line key : Nat) (bs : List (Nat × Byte)) (how : Leave) (g : StoreForm) : State × List Nat :=
  let w := s.wave wi
  let strong := g.strong.filter fun x => lineOf x.1 == line
  let cb := if g.cb then bs.map fun b => b.1 else []
  match how with
  | .combined => (s.combine wi line key bs cb g.mark strong, [])
  | .sent | .kept =>
    let s := ((s.drainOthers wi line).drainWhere wi fun l => l.line == line).forwardHome (s.coreOf w)
      ⟨0, some wi, s.funcOf w, line, bs, w.sf, key, g.mark, strong, .store, .other⟩ cb g.atHome
    let id := s.nextReq - 1
    (if how = .kept then s.modWave wi fun w => { w with keepOut := w.keepOut ++ [id] } else s, [id])

/-- The bytes of several lines leave the wave, line by line. -/
def State.storeLines (wi : Nat) (g : StoreForm) (as : List Acc) (bs : List (Nat × Byte)) : List Nat → State → State × List Nat
  | [], s => (s, [])
  | line :: r, s =>
    match onLine as line with
    | [] => State.storeLines wi g as bs r s
    | a :: _ =>
      let x := s.storeLine wi line a.leaf.key (bs.filter fun b => lineOf b.1 == line) (leaveOf (g.direct || g.atHome) a) g
      let y := State.storeLines wi g as bs r x.1
      (y.1, x.2 ++ y.2)

/-- Lines of a list whose records stand in one share of a function's log. -/
def State.shareLines (s : State) (lines : List Nat) (f t : Nat) : Nat :=
  (lines.filter fun l => homeOf l == t && match s.keepOf l with
    | some k => k.func == f
    | none => false).length

/-- Store events on some lines wait for records of a share of a function's log (R231). -/
def State.shortLines (s : State) (f t : Nat) (lines : List Nat) : Bool :=
  s.shareLines lines f t != 0 && !s.logRoom f t (s.shareLines lines f t)

/-- Store events on some lines would wait for records of a log (R231). -/
def State.logFull (s : State) (lines : List Nat) : Bool :=
  lines.any fun l => match s.keepOf l with
    | some k => !s.logRoom k.func (homeOf l) (s.shareLines lines k.func (homeOf l))
    | none => false

/-- What holds an access at the home back; `events` are the lines of its store events, a line for each, where it writes (R187, R231). -/
def State.homeWait (s : State) (bytes : List Nat) (events : Option (List Nat)) : Option Stall :=
  if s.pinned bytes then some .retry
  else (events.filter s.logFull).map .log

/-- The stores of a wave on some lines are sent on their way to a scope (R179, R180). -/
def State.pushOut (s : State) (wi : Nat) (sc : Scope) (lines : List Nat) : State :=
  let t := s.drainWhere wi fun l => lines.contains l.line
  if homeScope sc then lines.foldl (fun t l => t.flushRemote (towerOf (t.coreOf (t.wave wi))) l) t else t

/-- A store of a wave: its bytes leave, and with an acquire they are sent to the scope at once (R180, R218, R349). The requests sent are handed on. -/
def State.doStore (s : State) (wi : Nat) (o : Order × Scope) (direct cb : Bool) (mark : Mark) (n : Nat) (as : List Acc)
    (bs : List (Nat × Byte)) : State × List Nat :=
  let lines := linesOf as
  let x := State.storeLines wi ⟨direct, isRel o.1 && homeScope o.2, cb, mark, s.orderOf o (s.wave wi) as n⟩ as bs lines s
  (if isAcq o.1 then x.1.pushOut wi o.2 lines else x.1, x.2)

/-! ### Accesses performed at the home, or under a pin (R173, R187, R296) -/

/-- The state in which an access at the home begins: the wave's lines for it are drained, and dirty remote bytes recalled and flushed
(R170, R173). -/
def State.toHome (s : State) (wi : Nat) (lines : List Nat) : State :=
  lines.foldl (fun s l => s.recall l) (s.drainWhere wi fun l => lines.contains l.line)

/-- What holds back an access at the home that is not a plain load: pinned bytes, a full log, and requests that came before it; one that only
reads waits for those alone that precede it, and never for records (R173, R177, R231). -/
def State.strongWait (s : State) (wi : Nat) (lines bytes : List Nat) (events : Option (List Nat)) : Option Stall :=
  match s.homeWait bytes events with
  | some r => some r
  | none =>
    if if events.isSome then s.reqs.any fun r => lines.contains r.line else lines.any fun l => s.homeBehind wi l then some .retry else none

/-- A request on some bytes that waits, and that an access under a pin comes after: those of the wave itself (R177), and, where the access
returns a value, those that its tower's caches show (R178). -/
def State.behindPin (s : State) (wi : Nat) (returns : Bool) (bytes : List Nat) (r : Req) : Bool :=
  (r.ofWave wi || (returns && s.precedes wi r)) && r.bytes.any fun b => bytes.contains b.1

/-- What holds back an access of some size under a pin: another core's pin; where its own core holds no pin of the span yet, a request on the span
that came before; and else one that it comes after although the pin holds it back (R177, R178, R187, R339). -/
def State.pinWait (s : State) (wi n : Nat) (returns : Bool) (as : List Acc) : Option Stall :=
  let core := s.coreOf (s.wave wi)
  let held := as.partition fun a => s.holdsPin core a.pa n
  let bytes := bytesOf as n
  let others := (List.range s.cores.length).any fun i => i != core && (s.core i).pins.any fun p =>
    meetsWords p.line (p.words.map fun w => w.1) bytes
  if others || (s.reqs.any fun r => r.kind == .pin && meetsWords r.line (r.bytes.map fun b => (b.1 - r.line) / 4) bytes) ||
      (s.reqs.any fun r => r.bytes.any fun b => (bytesOf held.2 n).contains b.1) ||
      s.reqs.any (s.behindPin wi returns (bytesOf held.1 n)) then some .retry
  else none

/-- The stamp of a value that a line's home returns (R216, R283). -/
def State.valueStamp (s : State) (line : Nat) : Stamp := if peerOf line ≠ 0 then s.countQuery else s.lstampOf line

/-- An operation at the home leaves its values in the tower's copy and no L1 copy (R168, R174, R178). -/
def State.reply (s : State) (wi key : Nat) (as : List Nat) : State :=
  let core := s.coreOf (s.wave wi)
  (s.dropL1 core as).putRemote (towerOf core) key as (fun a => BitVec.ofNat 32 (leNat (s.homeByte wi key) a 4))
    (as.foldl (fun m a => maxStamp m (s.valueStamp (lineOf a))) 0)

/-- The scope of the access pins on this page (R187, R296, R324). -/
def pinPage (sc : Scope) (hcwPins : Bool) (a : Acc) : Bool :=
  !wideScope sc && !a.leaf.keep && peerOf a.pa == 0 && (hcwPins || !a.leaf.hcw)

/-! ### Reads as of a stamp (R223, R224, R225) -/

/-- A line as it stood at a stamp: its bytes, their keys, and the stamp of the event that wrote it. -/
structure Image where
  bytes : List Byte
  seals : Seals
  stamp : Stamp

/-- The image of a line as of a stamp; its stamp is KS where that is the content at KS (R224, R225). -/
def State.asofLine (s : State) (line : Nat) (k : Keep) (at_ : Stamp) : Image :=
  let mine := (s.tower (homeOf line)).log.filter fun v => v.line == line && v.func == k.func
  match (mine.takeWhile fun v => at_.ult v.stamp).getLast? with
  | some v => ⟨v.image, v.seals, v.prev⟩
  | none => ⟨bytesAt s.peek line 128, s.seals, (k.kline line).stamp⟩

/-- The value of an access through a key as of a stamp (R163, R224); 0 with the stamp 0 where the page's registration has ended since its checks
(log 28: DESIGN CHOICE). -/
def State.asofNat (s : State) (at_ : Stamp) (key a n : Nat) : Nat × Stamp :=
  match s.keepOf a with
  | none => (0, 0)
  | some k =>
    let x := s.asofLine (lineOf a) k at_
    (leNat (decipher x.seals (s.pair key) fun y => x.bytes.getD (y - lineOf a) 0) a n, x.stamp)

/-- The homes of some addresses can answer as of a stamp: their counts have passed its, and no pin stands on the bytes (R187, R224). -/
def State.asofReady (s : State) (at_ : Stamp) (as : List Nat) : Bool :=
  (as.all fun a => stampCount at_ < (s.tower (homeOf a)).count) && !s.pinned as

/-- The checks of an as-of access beyond its leaf (R223, R225). -/
def State.checkAsof (s : State) (w : Wave) (at_ : Stamp) : Check → Check
  | .ok a =>
    let core := s.coreOf w
    let addr := BitVec.ofNat 64 a.va
    match s.keepOf a.pa with
    | none => .bad Cause.nohist addr
    | some k =>
      if (s.core core).now + 2 ^ 24 < stampCount at_ then .bad Cause.future addr
      else if at_.ult (s.hzCopy core (s.funcOf w)) || at_.ult k.ks then .bad Cause.reclaimed addr
      else .ok a
  | x => x

/-- The key of a lane's page in the record of a load (R163). -/
def LoadRec.key (r : LoadRec) (a : Nat) : Nat := ((r.keys.find? fun x => x.1 == a / 65536).map fun x => x.2).getD Config.pf

/-- The bytes of a recorded load. -/
def LoadRec.bytes (r : LoadRec) : List Nat := r.lanes.flatMap fun x => (List.range (MSize.bytes r.size)).map fun k => x.2 + k

/-- The lines of a recorded load. -/
def LoadRec.lines (r : LoadRec) : List Nat := distinct (r.lanes.map fun x => lineOf x.2)

/-- The record of a load (R80). -/
def recordOf (d : Dest) (z : MSize) (as : List Acc) (at_ : Option Stamp) : LoadRec :=
  ⟨d, z, as.map fun a => (a.lane, a.pa), as.map fun a => (a.pa / 65536, a.leaf.key), at_⟩

/-- Lanes' values as of a stamp, with the largest stamp of the events selected. -/
def State.asofLanes (s : State) (at_ : Stamp) (r : LoadRec) : List (Nat × Nat) × Stamp :=
  r.lanes.foldr (fun l y => let x := s.asofNat at_ (r.key l.2) l.2 (MSize.bytes r.size)
    ((l.1, x.1) :: y.1, maxStamp x.2 y.2)) ([], 0)

/-- The homes recall the dirty bytes of the lines of an as-of read before they answer (R173). -/
def State.asofRecall (s : State) (f : Nat) (lines : List Nat) : State := lines.foldl (fun s l => (s.recall l).touch f l .dflt) s

end Sys2Proof.Machine
end

