-- ==== Sys2Proof/Machine/Float.lean ====
section
/-! DEFINITION. Floating-point formats (R135), rounding (R141, R144, R146), and the operations of R145 to R151 on exact values. A finite
value is a sign, a natural number and a power of two; a result is that exact value rounded once. -/

namespace Sys2Proof.Machine

/-- A floating-point format: exponent and fraction bits, bias, and whether it has infinities (R135). -/
structure Fmt where
  ebits : Nat
  fbits : Nat
  bias : Nat
  hasInf : Bool
  deriving DecidableEq, Repr

/-- FP64. -/
def Fmt.f64 : Fmt := ⟨11, 52, 1023, true⟩
/-- FP32. -/
def Fmt.f32 : Fmt := ⟨8, 23, 127, true⟩
/-- FP16. -/
def Fmt.f16 : Fmt := ⟨5, 10, 15, true⟩
/-- BF16. -/
def Fmt.bf16 : Fmt := ⟨8, 7, 127, true⟩
/-- E5M2. -/
def Fmt.e5m2 : Fmt := ⟨5, 2, 15, true⟩
/-- E4M3: no infinity, and one NaN of each sign. -/
def Fmt.e4m3 : Fmt := ⟨4, 3, 7, false⟩

/-- Bits of a value without its sign. -/
def Fmt.magBits (f : Fmt) : Nat := f.ebits + f.fbits
/-- The sign bit of a code. -/
def Fmt.signBit (f : Fmt) : Nat := 2 ^ f.magBits
/-- The magnitude code of infinity; of E4M3, its NaN. -/
def Fmt.infCode (f : Fmt) : Nat := if f.hasInf then (2 ^ f.ebits - 1) * 2 ^ f.fbits else 2 ^ f.magBits - 1
/-- The magnitude code of the largest finite value (R135). -/
def Fmt.maxCode (f : Fmt) : Nat := f.infCode - 1
/-- The canonical quiet NaN (R136). -/
def Fmt.nanCode (f : Fmt) : Nat := if f.hasInf then f.infCode + 2 ^ (f.fbits - 1) else f.infCode

/-- A value: NaN, an infinity, or plus or minus m times 2 to the e. -/
inductive FVal where
  | nan
  | inf (neg : Bool)
  | fin (neg : Bool) (m : Nat) (e : Int)
  deriving DecidableEq, Repr

/-- The value of a code (R135). -/
def Fmt.decode (f : Fmt) (x : Nat) : FVal :=
  let neg := x.testBit f.magBits
  let c := x % f.signBit
  if f.maxCode < c then (if f.hasInf && c == f.infCode then .inf neg else .nan)
  else
    let ex := c / 2 ^ f.fbits
    let fr := c % 2 ^ f.fbits
    if ex = 0 then .fin neg fr (1 - (f.bias : Int) - f.fbits)
    else .fin neg (2 ^ f.fbits + fr) ((ex : Int) - f.bias - f.fbits)

/-- A sign put on a magnitude code. -/
def Fmt.withSign (f : Fmt) (neg : Bool) (c : Nat) : Nat := if neg then f.signBit + c else c

/-- The result of an overflow (R146). -/
def Fmt.overflow (f : Fmt) (mode : RMode) (neg : Bool) : Nat :=
  let toInf := match mode with
    | .rne | .rna | .sr => true
    | .rtz => false
    | .rdn => neg
    | .rup => !neg
  if toInf then (if f.hasInf then f.withSign neg f.infCode else f.nanCode) else f.withSign neg f.maxCode

/-- Rounding up from `lo` where the part below the unit is `rem` of `2^s`, with the draw of stochastic rounding (R141, R144). -/
def roundsUp (mode : RMode) (neg : Bool) (draw lo rem s : Nat) : Bool :=
  match mode with
  | .rne => decide (2 ^ s < 2 * rem) || (2 ^ s == 2 * rem && lo % 2 == 1)
  | .rtz => false
  | .rdn => neg && rem != 0
  | .rup => !neg && rem != 0
  | .rna => decide (2 ^ s ≤ 2 * rem)
  | .sr => decide (draw < 2 ^ 32 * rem / 2 ^ s)

/-- `m` times `2^e` as a whole number of units `2^q`, rounded. -/
def roundUnits (mode : RMode) (neg : Bool) (draw m : Nat) (e q : Int) : Nat :=
  if q ≤ e then m * 2 ^ (e - q).toNat
  else
    let s := (q - e).toNat
    let lo := m / 2 ^ s
    if roundsUp mode neg draw lo (m % 2 ^ s) s then lo + 1 else lo

/-- RoundTo: the exact value rounded once, subnormals included (R141, R146). -/
def Fmt.roundFin (f : Fmt) (mode : RMode) (draw : Nat) (neg : Bool) (m : Nat) (e : Int) : Nat :=
  if m = 0 then f.withSign neg 0
  else
    let q := max ((Nat.log2 m : Int) + e - f.fbits) (1 - (f.bias : Int) - f.fbits)
    let n := roundUnits mode neg draw m e q
    -- a carry out of the fraction lands on the next exponent by the layout of the code
    let c := if n < 2 ^ f.fbits then n else (q + f.fbits + f.bias - 1).toNat * 2 ^ f.fbits + n
    if f.maxCode < c then f.overflow mode neg else f.withSign neg c

/-- A value rounded to a format; a NaN is the canonical one (R136), and an infinity that the format lacks is its NaN (R151). -/
def Fmt.round (f : Fmt) (mode : RMode) (draw : Nat) : FVal → Nat
  | .nan => f.nanCode
  | .inf neg => if f.hasInf then f.withSign neg f.infCode else f.nanCode
  | .fin neg m e => f.roundFin mode draw neg m e

/-- A value with its sign inverted. -/
def FVal.neg : FVal → FVal
  | .nan => .nan
  | .inf n => .inf (!n)
  | .fin n m e => .fin (!n) m e

/-- The signed integer of a finite value in units of `2^e`, for `e` at most its exponent. -/
def finUnits (neg : Bool) (m : Nat) (e unit : Int) : Int :=
  let x : Int := m * 2 ^ (e - unit).toNat
  if neg then -x else x

/-- The exact sum of two values; an exact zero of unlike signs has the sign of the mode (R145). -/
def FVal.add (mode : RMode) : FVal → FVal → FVal
  | .nan, _ => .nan
  | _, .nan => .nan
  | .inf a, .inf b => if a = b then .inf a else .nan
  | .inf a, .fin _ _ _ => .inf a
  | .fin _ _ _, .inf b => .inf b
  | .fin na ma ea, .fin nb mb eb =>
    let e := min ea eb
    let x := finUnits na ma ea e + finUnits nb mb eb e
    if x = 0 then .fin (if na = nb then na else mode == .rdn) 0 0 else .fin (decide (x < 0)) x.natAbs e

/-- The exact product (R145). -/
def FVal.mul : FVal → FVal → FVal
  | .nan, _ => .nan
  | _, .nan => .nan
  | .inf a, .inf b => .inf (a != b)
  | .inf a, .fin nb mb _ => if mb = 0 then .nan else .inf (a != nb)
  | .fin na ma _, .inf b => if ma = 0 then .nan else .inf (na != b)
  | .fin na ma ea, .fin nb mb eb => .fin (na != nb) (ma * mb) (ea + eb)

/-- A quotient of naturals to `k` further bits, its last bit set when a remainder is left. -/
def stickyDiv (a b k : Nat) : Nat :=
  let x := a * 2 ^ k
  2 * (x / b) + (if x % b = 0 then 0 else 1)

/-- The quotient, exact or close enough below the last place that one rounding of it is the rounding of the exact value (R145). -/
def FVal.div : FVal → FVal → FVal
  | .nan, _ => .nan
  | _, .nan => .nan
  | .inf _, .inf _ => .nan
  | .inf a, .fin nb _ _ => .inf (a != nb)
  | .fin na _ _, .inf b => .fin (na != b) 0 0
  | .fin na ma ea, .fin nb mb eb =>
    if mb = 0 then (if ma = 0 then .nan else .inf (na != nb))
    else
      let k := 64 + Nat.log2 mb
      .fin (na != nb) (stickyDiv ma mb k) (ea - eb - k - 1)

/-- The integer square root: the bits below `k` of the root of `x`, from the highest down. -/
def rootBits (x : Nat) : Nat → Nat → Nat
  | 0, r => r
  | k + 1, r => rootBits x k (if (r + 2 ^ k) * (r + 2 ^ k) ≤ x then r + 2 ^ k else r)

/-- The integer square root. -/
def root (x : Nat) : Nat := rootBits x (Nat.log2 x / 2 + 1) 0

/-- A square root with a sticky last bit. -/
def stickyRoot (x : Nat) : Nat :=
  let r := root x
  2 * r + (if r * r = x then 0 else 1)

/-- The square root (R145, R153). -/
def FVal.sqrt : FVal → FVal
  | .nan => .nan
  | .inf neg => if neg then .nan else .inf false
  | .fin neg m e =>
    if m = 0 then .fin neg 0 0
    else if neg then .nan
    else
      -- an even exponent, and at least 128 bits under the root
      let k := 128 + (e % 2).toNat
      .fin false (stickyRoot (m * 2 ^ k)) ((e - k) / 2 - 1)

/-- Comparison of two values, none where one is a NaN; the zeros are equal (R148). -/
def FVal.cmp : FVal → FVal → Option Ordering
  | .nan, _ => none
  | _, .nan => none
  | .inf a, .inf b => some (if a = b then .eq else if a then .lt else .gt)
  | .inf a, .fin _ _ _ => some (if a then .lt else .gt)
  | .fin _ _ _, .inf b => some (if b then .gt else .lt)
  | .fin na ma ea, .fin nb mb eb =>
    let e := min ea eb
    some (compare (finUnits na ma ea e) (finUnits nb mb eb e))

/-- The sign of a value. -/
def FVal.isNeg : FVal → Bool
  | .nan => false
  | .inf n => n
  | .fin n _ _ => n

/-- minimumNumber or maximumNumber of two codes: a number beats a NaN, and -0 lies below +0 (R147). -/
def Fmt.pick (f : Fmt) (wantMax : Bool) (a b : Nat) : Nat :=
  match FVal.cmp (f.decode a) (f.decode b) with
  | none => if f.decode a = .nan then (if f.decode b = .nan then f.nanCode else b) else a
  | some .lt => if wantMax then b else a
  | some .gt => if wantMax then a else b
  | some .eq => if (f.decode a).isNeg == wantMax then b else a

/-- Addition of codes (R145). -/
def Fmt.add (f : Fmt) (mode : RMode) (a b : Nat) : Nat := f.round mode 0 ((f.decode a).add mode (f.decode b))

/-- Subtraction of codes (R145). -/
def Fmt.sub (f : Fmt) (mode : RMode) (a b : Nat) : Nat := f.round mode 0 ((f.decode a).add mode (f.decode b).neg)

/-- Multiplication of codes (R145). -/
def Fmt.mul (f : Fmt) (mode : RMode) (a b : Nat) : Nat := f.round mode 0 ((f.decode a).mul (f.decode b))

/-- fusedMultiplyAdd of codes: one rounding (R145). -/
def Fmt.fma (f : Fmt) (mode : RMode) (a b d : Nat) : Nat :=
  f.round mode 0 (((f.decode a).mul (f.decode b)).add mode (f.decode d))

/-- Division of codes, correctly rounded (R145, R152). -/
def Fmt.div (f : Fmt) (mode : RMode) (a b : Nat) : Nat := f.round mode 0 ((f.decode a).div (f.decode b))

/-- roundToIntegral of a code (R145). -/
def Fmt.toIntegral (f : Fmt) (mode : RMode) (a : Nat) : Nat :=
  match f.decode a with
  | .nan => f.nanCode
  | .inf _ => a % (2 * f.signBit)
  | .fin neg m e => if 0 ≤ e then a % (2 * f.signBit) else f.roundFin .rne 0 neg (roundUnits mode neg 0 m e 0) 0

/-- A code with sign 0 (R145). -/
def Fmt.abs (f : Fmt) (a : Nat) : Nat := a % f.signBit
/-- A code with its sign inverted (R145). -/
def Fmt.negate (f : Fmt) (a : Nat) : Nat := f.withSign (!a.testBit f.magBits) (a % f.signBit)
/-- The magnitude of one code with the sign of another (R145). -/
def Fmt.copySign (f : Fmt) (a b : Nat) : Nat := f.withSign (b.testBit f.magBits) (a % f.signBit)

/-- A condition of VCMP on codes: the quiet comparisons (R148). -/
def Fmt.holds (f : Fmt) (c : VCond) (a b : Nat) : Bool :=
  match c, FVal.cmp (f.decode a) (f.decode b) with
  | .eq, o => o == some .eq
  | .ne, o => o != some .eq
  | .lt, o => o == some .lt
  | .le, o => o == some .lt || o == some .eq
  | .gt, o => o == some .gt
  | .ge, o => o == some .gt || o == some .eq
  | .ord, o => o.isSome
  | .unord, o => o.isNone
  | _, _ => false

end Sys2Proof.Machine
end

