-- ==== Sys2Proof/Machine/Memory.lean ====
section
/-! DEFINITION. The memory forms: LD, ST, SLD, SST (R317, R344, R349), LDS, STS, ATOMS (R297, R322, R351), LDAS and STC (R225, R226, R350),
ATOM (R295, R296), LR and SC (R324, R325, R338, R339), and PREF (R330, R331). -/

namespace Sys2Proof.Machine

/-! ### LD and ST -/

/-- A path that goes beyond the L1. -/
def Path.beyond : Path → Bool
  | .l1 _ => false
  | .bypass | .home _ => true

/-- A load begins (R317): the wave's buffered lines of what it reads beyond the L1 drain first (R170). -/
def State.doLoad (s : State) (wi : Nat) (x : Access) (path : Acc → Path) (n : Nat) (writes : List (Nat × Nat) → List RegWrite)
    (rec : Option LoadRec) : Began :=
  let as := x.accs
  let w := s.wave wi
  let s := s.drainWhere wi fun l => as.any fun a => (path a).beyond && lineOf a.pa == l.line
  if s.readsBlocked wi n path as then .error .retry
  else
    let y := State.readLines wi n path as (linesOf as) s
    let vals := as.map fun a => (a.lane, y.1.readValue wi y.2 a.pa n)
    .ok (y.1.noteStrong (y.1.orderOf x.order w as n),
      some ⟨.ready, writes vals, y.1.readStamp wi y.2 as n, rec, y.1.isRemote w as, x.pc, s.tick⟩)

/-- An LD begins (R317). -/
def State.beginLd (v : VReg) (z : MSize) (c : Cache) (s : State) (wi : Nat) (x : Access) : Began :=
  s.doLoad wi x (pathOf c) (MSize.bytes z) ((s.issuer wi x).loadWrites v.toNat z) (some (recordOf (.v v.toNat) z x.accs none))

/-- LD (R317). -/
def execLd (p : Bool) (v : VReg) (b : SReg) (o : VReg) (z : MSize) (c : Cache) (s : State) : Out :=
  s.onWave fun w =>
    s.afterChecks (.ld p v b o z c) w (s.checkLanes w .load b o (MSize.bytes z)) fun s as =>
      s.ordered (.ld p v b o z c) .plain p (w.order .dv) as (w.loadWrites v.toNat z []) (State.beginLd v z c)

/-- A store of a wave that issues no write while a stamp of a KEEP page is outstanding (R218). -/
def State.unlessKeep (s : State) (k : Out) : Out := if s.keepPending s.issuing then s.stall .keep else k

/-- An ST begins (R349). -/
def State.beginSt (v : VReg) (z : MSize) (c : Cache) (s : State) (wi : Nat) (x : Access) : Began :=
  .ok ((s.doStore wi x.order false (c == .cb) (markOf c) (MSize.bytes z) x.accs ((s.issuer wi x).storeBytes v.toNat z x.accs)).1, none)

/-- ST (R349). -/
def execSt (p : Bool) (v : VReg) (b : SReg) (o : VReg) (z : MSize) (c : Cache) (s : State) : Out :=
  s.onWave fun w =>
    s.afterChecks (.st p v b o z c) w (s.checkLanes w .store b o (MSize.bytes z)) fun s as =>
      s.unlessKeep (s.ordered (.st p v b o z c) .plain p (w.order .dv) as [] (State.beginSt v z c))

/-! ### SLD and SST (R343, R344) -/

/-- The address of a scalar form, or its cause (R343). -/
def Wave.scalarAddr (w : Wave) (b : SReg) (o : BitVec 10) (size : Nat) : Except (BitVec 8 × Word64) Nat :=
  formGlobal (w.s64 b) (w.s64 b + 4 * o.signExtend 64 + w.off) size

/-- The writes of an SLD. -/
def scalarWrites (d : SReg) (z : WSize) (x : Nat) : List RegWrite :=
  (List.range (WSize.regs z)).map fun k => .s (d.toNat + k) (BitVec.ofNat 32 (x / 2 ^ (32 * k)))

/-- An SLD begins (R344). -/
def State.beginSld (d : SReg) (z : WSize) (s : State) (wi : Nat) (x : Access) : Began :=
  s.doLoad wi x (pathOf .dflt) (WSize.bytes z) (fun vals => scalarWrites d z ((vals.head?.map fun x => x.2).getD 0))
    (some (recordOf (.s d.toNat) (WSize.msize z) x.accs none))

/-- SLD (R344). -/
def execSld (p : Bool) (d b : SReg) (o : BitVec 10) (z : WSize) (s : State) : Out :=
  s.onWave fun w =>
    s.afterRange (.sld p d b o z) w [s.checkFormed w .load 0 (w.scalarAddr b o (WSize.bytes z))] fun s as =>
      s.ordered (.sld p d b o z) .plain p (w.order .dv) as (scalarWrites d z 0) (State.beginSld d z)

/-- The bytes that an SST stores. -/
def Wave.scalarBytes (w : Wave) (d : SReg) (z : WSize) (as : List Acc) : List (Nat × Byte) :=
  as.flatMap fun a => leBytes a.pa (w.snat d (WSize.regs z)) (WSize.bytes z)

/-- An SST begins (R344). -/
def State.beginSst (d : SReg) (z : WSize) (s : State) (wi : Nat) (x : Access) : Began :=
  .ok ((s.doStore wi x.order false false .dflt (WSize.bytes z) x.accs ((s.issuer wi x).scalarBytes d z x.accs)).1, none)

/-- SST (R344). -/
def execSst (p : Bool) (d b : SReg) (o : BitVec 10) (z : WSize) (s : State) : Out :=
  s.onWave fun w =>
    s.afterRange (.sst p d b o z) w [s.checkFormed w .store 0 (w.scalarAddr b o (WSize.bytes z))] fun s as =>
      s.unlessKeep (s.ordered (.sst p d b o z) .plain p (w.order .dv) as [] (State.beginSst d z))

/-! ### The scratchpad -/

/-- The scratchpad of a wave's block (R90). -/
def State.scratch (s : State) (w : Wave) : Scratch := (s.blockOf w).scratch

/-- The checks of a lane-wise scratchpad form (R322). -/
def State.checkScratch (s : State) (w : Wave) (b : SReg) (o : VReg) (size : Nat) : List (Nat × Check) :=
  w.active.map fun l => (l, match formScratch (w.laneSum b o l) size (s.scratch w).size with
    | .error (c, a) => .bad c a
    | .ok a => .ok ⟨l, a, a, default⟩)

/-- A lane-wise scratchpad form goes on when its checks have passed (R196). -/
def State.onScratch (s : State) (w : Wave) (b : SReg) (o : VReg) (size : Nat) (k : List Acc → Out) : Out :=
  let cs := s.checkScratch w b o size
  match failures cs with
  | f :: fs => .next (s.trapWave s.issuing (laneTrap (f :: fs)))
  | [] => k (passed (cs.map fun c => c.2))

/-- The outstanding result of a scratchpad read (R91). -/
def scratchResult (ws : List RegWrite) : Pending := ⟨.ready, ws, 0, none, false, 0, 0⟩

/-- A block's scratchpad with bytes written. -/
def State.putScratch (s : State) (bi : Nat) (bs : List (Nat × Byte)) : State :=
  s.modBlock bi fun b => { b with scratch := b.scratch.put bs }

/-- An LDS begins (R322). -/
def State.beginLds (v : VReg) (z : MSize) (s : State) (wi : Nat) (x : Access) : Began :=
  let w := s.issuer wi x
  let vals := x.accs.map fun a => (a.lane, (s.scratch w).nat a.pa (MSize.bytes z))
  .ok (s, some (scratchResult (w.loadWrites v.toNat z vals)))

/-- LDS (R322). -/
def execLds (p : Bool) (v : VReg) (b : SReg) (o : VReg) (z : MSize) (c : Cache) (s : State) : Out :=
  s.onWave fun w =>
    s.onScratch w b o (MSize.bytes z) fun as =>
      s.ordered (.lds p v b o z c) .plain p (w.order .bk) as (w.loadWrites v.toNat z []) (State.beginLds v z)

/-- An STS begins (R351). -/
def State.beginSts (v : VReg) (z : MSize) (s : State) (wi : Nat) (x : Access) : Began :=
  let w := s.issuer wi x
  .ok ((s.putScratch w.block (w.storeBytes v.toNat z x.accs)).withAcquire wi x.order, none)

/-- STS (R351). -/
def execSts (p : Bool) (v : VReg) (b : SReg) (o : VReg) (z : MSize) (c : Cache) (s : State) : Out :=
  s.onWave fun w =>
    s.onScratch w b o (MSize.bytes z) fun as =>
      s.ordered (.sts p v b o z c) .plain p (w.order .bk) as [] (State.beginSts v z)

/-! ### Atomics (R294) -/

/-- Bytes of an atomic. -/
def atomBytes : AtomOp → Nat
  | .add64 | .swap64 | .cas64 | .fadd64 => 8
  | _ => 4

/-- Registers of one operand of an atomic. -/
def atomRegs (op : AtomOp) : Nat := atomBytes op / 4

/-- The new value in memory from the old one and the operands; none where a CAS fails (R294). -/
def atomNew (op : AtomOp) (old x n : Nat) : Option Nat :=
  let a : Word := BitVec.ofNat 32 old
  let b : Word := BitVec.ofNat 32 x
  match op with
  | .add => some (a + b).toNat
  | .min => some (if a.slt b then a else b).toNat
  | .max => some (if a.slt b then b else a).toNat
  | .umin => some (min old x)
  | .umax => some (max old x)
  | .and => some (a &&& b).toNat
  | .or => some (a ||| b).toNat
  | .xor => some (a ^^^ b).toNat
  | .swap | .swap64 => some x
  | .cas | .cas64 => if old = x then some n else none
  | .fadd32 => some (Fmt.f32.add .rne old x)
  | .fmin32 => some (Fmt.f32.pick false old x)
  | .fmax32 => some (Fmt.f32.pick true old x)
  | .add64 => some ((old + x) % 2 ^ 64)
  | .fadd64 => some (Fmt.f64.add .rne old x)

/-- The bytes as some writes leave them; of one address the first entry counts. -/
def lookBytes (f : Nat → Byte) (bs : List (Nat × Byte)) (a : Nat) : Byte :=
  match bs.find? fun b => b.1 == a with
  | some b => b.2
  | none => f a

/-- What atomics on some bytes have done: the lanes' old values, and the bytes written, the latest first. -/
structure AtomRun where
  olds : List (Nat × Nat)
  bytes : List (Nat × Byte)

/-- One lane's atomic (R295). -/
def atomLane (op : AtomOp) (w : Wave) (v : Nat) (f : Nat → Byte) (r : AtomRun) (a : Acc) : AtomRun :=
  let n := atomBytes op
  let old := leNat (lookBytes f r.bytes) a.pa n
  let x := w.vnat v a.lane (atomRegs op)
  let y := w.vnat (v + atomRegs op) a.lane (atomRegs op)
  match atomNew op old x y with
  | none => ⟨r.olds ++ [(a.lane, old)], r.bytes⟩
  | some z => ⟨r.olds ++ [(a.lane, old)], (leBytes a.pa z n).reverse ++ r.bytes⟩

/-- The atomics of some lanes, in ascending lane order (R177, R295). -/
def atomRun (op : AtomOp) (w : Wave) (v : Nat) (f : Nat → Byte) (as : List Acc) : AtomRun := as.foldl (atomLane op w v f) ⟨[], []⟩

/-- The size of an atomic's operands. -/
def atomSize (op : AtomOp) : MSize := if atomBytes op = 8 then .b64 else .b32

/-- An ATOMS begins (R297). -/
def State.beginAtoms (v : VReg) (op : AtomOp) (s : State) (wi : Nat) (x : Access) : Began :=
  let w := s.issuer wi x
  let r := atomRun op w v.toNat (s.scratch w).get x.accs
  .ok (s.putScratch w.block r.bytes.reverse, some (scratchResult (w.loadWrites v.toNat (atomSize op) r.olds)))

/-- ATOMS (R297). -/
def execAtoms (p : Bool) (v : VReg) (b : SReg) (o : VReg) (op : AtomOp) (s : State) : Out :=
  s.onWave fun w =>
    s.onScratch w b o (atomBytes op) fun as =>
      s.ordered (.atoms p v b o op) .plain p (w.order .bk) as (w.loadWrites v.toNat (atomSize op) []) (State.beginAtoms v op)

/-- What the accesses of a form have done so far: lanes' values, and the largest stamp. -/
structure LaneRun where
  vals : List (Nat × Nat)
  stamp : Stamp

/-- The key of the first of some accesses (R163). -/
def keyOf (as : List Acc) : Nat := (as.head?.map fun a => a.leaf.key).getD Config.pf

/-- The store event of an access performed at its home (R214). -/
def State.eventOf (s : State) (wi line key : Nat) (bs : List (Nat × Byte)) : Req :=
  ⟨0, some wi, s.funcOf (s.wave wi), line, bs, (s.wave wi).sf, key, .dflt, [], .store, .other⟩

/-- An ATOM of the lanes on one line at its home: one store event, unless every CAS fails (R295, R296). `w` is the wave as it issued. -/
def State.atomHome (s : State) (wi : Nat) (w : Wave) (op : AtomOp) (v line : Nat) (as : List Acc) : State × LaneRun :=
  let s := s.touch (s.funcOf w) line .dflt
  let r := atomRun op w v (s.peekBy (keyOf as)) as
  let st := s.valueStamp line
  let x := if r.bytes.isEmpty then (s, st) else s.homeStore (s.eventOf wi line (keyOf as) r.bytes.reverse) none
  (x.1.reply wi (keyOf as) (bytesOf as (atomBytes op)), ⟨r.olds, maxStamp st x.2⟩)

/-- An ATOM of one lane under a pin (R187, R296). -/
def State.atomPin (s : State) (wi : Nat) (w : Wave) (op : AtomOp) (v : Nat) (a : Acc) : State × LaneRun :=
  let n := atomBytes op
  let s := s.takePin wi a.leaf.key a.pa n
  let core := s.coreOf w
  let old := s.pinNat core a.pa n
  let st := s.pinStamp core a.pa
  let x := w.vnat v a.lane (atomRegs op)
  let y := w.vnat (v + atomRegs op) a.lane (atomRegs op)
  let s := match atomNew op old x y with
    | none => s
    | some z => s.pinWrite core a.pa n z none
  (s.pinReply core a.leaf.key (bytesOf [a] n), ⟨[(a.lane, old)], st⟩)

/-- An ATOM on one line. -/
def State.atomOn (s : State) (wi : Nat) (w : Wave) (op : AtomOp) (v line : Nat) (pin : Bool) (as : List Acc) : State × LaneRun :=
  if pin then
    as.foldl (fun r a =>
      let x := r.1.atomPin wi w op v a
      (x.1, ⟨r.2.vals ++ x.2.vals, maxStamp r.2.stamp x.2.stamp⟩)) (s, ⟨[], 0⟩)
  else s.atomHome wi w op v line as

/-- The part of a strong form on pages that pin, and the part performed at the home. -/
def splitPins (sc : Scope) (hcwPins : Bool) (as : List Acc) : List Acc × List Acc := as.partition (pinPage sc hcwPins)

/-- The state in which the pins and the accesses at the home of a strong form begin; or what holds it back. `events` are the lines of the store
events that it makes at homes, a line for each; `returns` says whether it returns values. -/
def State.strongStart (s : State) (wi : Nat) (as pins homes : List Acc) (n : Nat) (events : Option (List Nat)) (returns : Bool) :
    Except Stall State :=
  let s := s.toHome wi (linesOf as)
  match s.pinWait wi n returns pins, s.strongWait wi (linesOf homes) (bytesOf homes n) events with
  | none, none => .ok s
  | some r, _ => .error r
  | none, some r => .error r

/-- Each line's accesses performed in order. -/
def State.perLine (f : State → Nat → List Acc → State × LaneRun) (as : List Acc) : List Nat → State → State × LaneRun
  | [], s => (s, ⟨[], 0⟩)
  | l :: r, s =>
    let x := f s l (onLine as l)
    let y := State.perLine f as r x.1
    (y.1, ⟨x.2.vals ++ y.2.vals, maxStamp x.2.stamp y.2.stamp⟩)

/-- A strong form has been performed: its outstanding result of lanes, with the stamp that it carries. A stamp of a KEEP page has returned with the
event (R218). `w` is the wave as it issued. -/
def State.strongDone (s : State) (wi : Nat) (w : Wave) (x : Access) (n v : Nat) (z : MSize) (keep : Bool) (r : LaneRun) : Began :=
  let t := s.noteStrong (s.strongOf w x.accs n)
  .ok (if keep then t.modWave wi fun w => w.raise r.stamp else t,
    some ⟨.ready, w.loadWrites v z r.vals, r.stamp, none, false, x.pc, s.tick⟩)

/-- An ATOM begins (R295, R296). -/
def State.beginAtom (v : VReg) (op : AtomOp) (s : State) (wi : Nat) (x : Access) : Began :=
  let w := s.issuer wi x
  let parts := splitPins x.order.2 false x.accs
  match s.strongStart wi x.accs parts.1 parts.2 (atomBytes op) (some (linesOf parts.2)) true with
  | .error r => .error r
  | .ok s =>
    let y := State.perLine (fun s l a => s.atomOn wi w op v.toNat l (a.all fun y => pinPage x.order.2 false y) a) x.accs (linesOf x.accs) s
    y.1.strongDone wi w x (atomBytes op) v.toNat (atomSize op) (x.accs.any fun a => a.leaf.keep) y.2

/-- ATOM (R295, R296). -/
def execAtom (p : Bool) (v : VReg) (b : SReg) (o : VReg) (op : AtomOp) (s : State) : Out :=
  s.onWave fun w =>
    s.afterChecks (.atom p v b o op) w (s.checkLanes w .atom b o (atomBytes op)) fun s as =>
      s.unlessKeep (s.ordered (.atom p v b o op) .plain p (w.order .dv) as (w.loadWrites v.toNat (atomSize op) []) (State.beginAtom v op))

/-! ### LR and SC (R324, R325, R338, R339) -/

/-- The reservation of a lane of a wave ends. -/
def State.dropResv (s : State) (wi l : Nat) : State := { s with resvs := s.resvs.filter fun r => !(r.wave == wi && r.lane == l) }

/-- A lane takes a reservation; a line's home holds 16 (R325). -/
def State.reserve (s : State) (wi l a n : Nat) (pin : Option Nat) : State :=
  let s := (s.dropResv wi l).modWave wi fun w => { w with pinLost := w.pinLost &&& ~~~ ((1 : Mask) <<< l) }
  if peerOf a ≠ 0 then s
  else if pin.isNone && 16 ≤ (s.resvs.filter fun r => r.pin.isNone && lineOf r.addr == lineOf a).length then s
  else { s with resvs := s.resvs ++ [⟨wi, l, a, n, pin, (s.wave wi).retired⟩] }

/-- An LR of one lane (R324). -/
def State.lrLane (s : State) (wi n : Nat) (pin : Bool) (a : Acc) : State × LaneRun :=
  if pin then
    let s := s.takePin wi a.leaf.key a.pa n
    let core := s.coreOf (s.wave wi)
    let old := s.pinNat core a.pa n
    ((s.reserve wi a.lane a.pa n (some core)).pinReply core a.leaf.key (bytesOf [a] n), ⟨[(a.lane, old)], s.pinStamp core a.pa⟩)
  else
    let s := s.touch (s.funcOf (s.wave wi)) (lineOf a.pa) .dflt
    ((s.reserve wi a.lane a.pa n none).reply wi a.leaf.key (bytesOf [a] n),
      ⟨[(a.lane, leNat (s.homeByte wi a.leaf.key) a.pa n)], s.valueStamp (lineOf a.pa)⟩)

/-- Lanes performed in ascending order. -/
def State.perLane (f : State → Acc → State × LaneRun) : List Acc → State → State × LaneRun
  | [], s => (s, ⟨[], 0⟩)
  | a :: r, s =>
    let x := f s a
    let y := State.perLane f r x.1
    (y.1, ⟨x.2.vals ++ y.2.vals, maxStamp x.2.stamp y.2.stamp⟩)

/-- An LR begins (R324). -/
def State.beginLr (v : VReg) (z : WSize) (s : State) (wi : Nat) (x : Access) : Began :=
  let w := s.issuer wi x
  let n := WSize.bytes z
  let parts := splitPins x.order.2 true x.accs
  match s.strongStart wi x.accs parts.1 parts.2 n none true with
  | .error r => .error r
  | .ok s =>
    let y := State.perLane (fun s a => s.lrLane wi n (pinPage x.order.2 true a) a) x.accs s
    y.1.strongDone wi w x n v.toNat (WSize.msize z) false y.2

/-- LR (R324). -/
def execLr (p : Bool) (v : VReg) (b : SReg) (o : VReg) (z : WSize) (s : State) : Out :=
  s.onWave fun w =>
    s.afterChecks (.lr p v b o z) w (s.checkLanes w .atom b o (WSize.bytes z)) fun s as =>
      s.ordered (.lr p v b o z) .lr p (w.order .dv) as (w.loadWrites v.toNat (WSize.msize z) []) (State.beginLr v z)

/-- The lane holds a reservation for exactly these bytes, where the SC is performed (R338, R339). -/
def State.holdsResv (s : State) (wi n : Nat) (pin : Option Nat) (a : Acc) : Bool :=
  peerOf a.pa == 0 && s.resvs.any fun r => r.wave == wi && r.lane == a.lane && r.addr == a.pa && r.size == n && r.pin == pin

/-- The status of an SC: 0 when the lane's store was performed. -/
def statusOf (ok : Bool) : Nat := if ok then 0 else 1

/-- An SC of one lane: its store event, its status, and the end of its reservation; the reply of one that fails carries the stamp of its line
(R217, R338, R339). -/
def State.scLane (s : State) (wi : Nat) (w : Wave) (n v : Nat) (pin : Bool) (a : Acc) : State × LaneRun :=
  let core := s.coreOf w
  let ok := s.holdsResv wi n (if pin then some core else none) a
  let data := w.vnat v a.lane (n / 4)
  let x : State × Stamp :=
    if !ok then
      if pin then (s, s.pinStamp core a.pa)
      else let t := s.touch (s.funcOf w) (lineOf a.pa) .dflt
        (t, t.valueStamp (lineOf a.pa))
    else if pin then ((s.pinWrite core a.pa n data (some (wi, a.lane))).pinReply core a.leaf.key (bytesOf [a] n), s.pinStamp core a.pa)
    else
      let y := s.homeStore (s.eventOf wi (lineOf a.pa) a.leaf.key (leBytes a.pa data n)) (some (wi, a.lane))
      (y.1.reply wi a.leaf.key (bytesOf [a] n), y.2)
  (x.1.dropResv wi a.lane, ⟨[(a.lane, statusOf ok)], x.2⟩)

/-- The check of an SC beyond its leaf: a reservation on a pin that its lease ended (R188, R338). -/
def checkPinLost (w : Wave) : Check → Check
  | .ok a => if w.pinLost.getLsbD a.lane then .bad Cause.pinlost (BitVec.ofNat 64 a.va) else .ok a
  | x => x

/-- The sequence of a reservation may still be a constrained one: its wave issues on a resident block, and no more than 16 words have followed the LR
(R207). -/
def State.contends (s : State) (r : Resv) : Bool :=
  let w := s.wave r.wave
  !w.ended && (s.blockOf w).status == .resident && w.frag.state == .live && w.retired ≤ r.since + 16

/-- An SC of the wave at the home of an address must let another sequence go first: one that took an older reservation that still stands on the
span (R207). -/
def State.yieldsTo (s : State) (wi n : Nat) (a : Acc) : Bool :=
  (s.resvs.takeWhile fun r => !(r.wave == wi && r.lane == a.lane)).any fun r =>
    r.wave != wi && r.pin.isNone && overlaps r.addr r.size a.pa n && s.contends r

/-- The lanes of an SC that hold their reservation at the home. -/
def State.standing (s : State) (wi n : Nat) (as : List Acc) : List Acc := as.filter (s.holdsResv wi n none)

/-- An SC begins (R338, R339): at its home it waits for the sequences that come before it (R207). -/
def State.beginSc (v : VReg) (z : WSize) (s : State) (wi : Nat) (x : Access) : Began :=
  let w := s.issuer wi x
  let n := WSize.bytes z
  let parts := splitPins x.order.2 true x.accs
  if (s.standing wi n parts.2).any (s.yieldsTo wi n) then .error .retry
  else match s.strongStart wi x.accs parts.1 parts.2 n (some ((s.standing wi n parts.2).map fun a => lineOf a.pa)) false with
    | .error r => .error r
    | .ok s =>
      let y := State.perLane (fun s a => s.scLane wi w n v.toNat (pinPage x.order.2 true a) a) x.accs s
      y.1.strongDone wi w x n v.toNat .b32 (x.accs.any fun a => a.leaf.keep) y.2

/-- SC (R338, R339). -/
def execSc (p : Bool) (v : VReg) (b : SReg) (o : VReg) (z : WSize) (s : State) : Out :=
  s.onWave fun w =>
    s.afterChecks (.sc p v b o z) w ((s.checkLanes w .atom b o (WSize.bytes z)).map fun c => (c.1, checkPinLost w c.2)) fun s as =>
      s.unlessKeep (s.ordered (.sc p v b o z) .sc p (w.order .dv) as (w.loadWrites v.toNat .b32 []) (State.beginSc v z))

/-! ### LDAS and STC -/

/-- The stamp pair that q names (R225). -/
def stampPair (q : BitVec 2) : SReg := 48 + 2 * q.setWidth 6

/-- LDAS (R225): a lane's value is read once the count of its home has passed the stamp's (R224). -/
def execLdas (p : Bool) (v : VReg) (b : SReg) (o : VReg) (z : MSize) (q : BitVec 2) (s : State) : Out :=
  s.onWave fun w =>
    let at_ := w.s64 (stampPair q)
    let n := MSize.bytes z
    s.afterChecks (.ldas p v b o z q) w ((s.checkLanes w .asof b o n).map fun c => (c.1, s.checkAsof w at_ c.2)) fun s as =>
      let s := s.drainWhere s.issuing fun l => (linesOf as).contains l.line
      let r := recordOf (.v v.toNat) z as (some at_)
      let ready := s.asofReady at_ r.bytes
      let s := if ready then s.asofRecall (s.funcOf w) r.lines else s
      let pend : Pending :=
        if ready then
          let x := s.asofLanes at_ r
          ⟨.ready, w.loadWrites v.toNat z x.1, x.2, some r, s.isRemote w as, w.pc, s.tick⟩
        else ⟨.asof r at_, w.loadWrites v.toNat z [], 0, some r, true, w.pc, s.tick⟩
      (s.count (s.funcOf w) 0x0A as.length).retire .plain p fun w => w.pendRead w.pc pend

/-- The writes of a stamp into a scalar pair. -/
def pairWrites (pair : Nat) (x : Stamp) : List RegWrite := [.s pair (x.setWidth 32), .s (pair + 1) ((x >>> 32).setWidth 32)]

/-- An STC begins (R226, R350): a store whose bytes in a line are one event, and the largest stamp of its events into the pair; with no lane, SF. -/
def State.beginStc (v : VReg) (z : MSize) (q : BitVec 2) (s : State) (wi : Nat) (x : Access) : Began :=
  let pair := (stampPair q).toNat
  let sf := (s.wave wi).sf
  if x.accs.isEmpty then .ok (s, some ⟨.ready, pairWrites pair sf, sf, none, false, 0, 0⟩)
  else
    let y := s.doStore wi x.order true false .dflt (MSize.bytes z) x.accs ((s.issuer wi x).storeBytes v.toNat z x.accs)
    .ok (y.1, some ⟨.stc y.2 pair 0, pairWrites pair 0, 0, none, false, 0, 0⟩)

/-- STC (R226, R350). -/
def execStc (p : Bool) (v : VReg) (b : SReg) (o : VReg) (z : MSize) (q : BitVec 2) (s : State) : Out :=
  s.onWave fun w =>
    s.afterChecks (.stc p v b o z q) w (s.checkLanes w .store b o (MSize.bytes z)) fun s as =>
      s.unlessKeep (s.ordered (.stc p v b o z q) .plain p (w.order .dv) as (pairWrites (stampPair q).toNat 0) (State.beginStc v z q))

/-! ### PREF (R330, R331) -/

/-- The mark of a PREF class (R330). -/
def prefMark : PrefClass → Mark
  | .dflt => .dflt
  | .ef => .ef
  | .el => .el

/-- The line that one lane prefetches, where nothing drops the prefetch, and the leaf of its page (R330). -/
def State.prefLine (s : State) (w : Wave) (b : SReg) (o : VReg) (l : Nat) : Option (Nat × Leaf) :=
  match formGlobal (w.s64 b) (w.laneSum b o l) 1 with
  | .error _ => none
  | .ok va =>
    match s.lookup { w with susp := some (.nop false) } va with
    | some (.ok page leaf) =>
      let pa := page * 65536 + va % 65536
      if (s.checkLeaf (s.funcOf w) .load page leaf).isNone && peerOf pa == 0 then some (lineOf pa, leaf) else none
    | _ => none

/-- The path of a prefetch (R330): a host-coherent page at its home, as a load. -/
def prefPath (level : PrefLevel) (mark : Mark) (leaf : Leaf) : Path :=
  if leaf.hcw then .home mark
  else match level with
    | .l1 => .l1 mark
    | .hc => .bypass

/-- One line prefetched, unless it would have to wait (R330). -/
def State.prefetch (s : State) (level : PrefLevel) (mark : Mark) (line : Nat) (leaf : Leaf) : State :=
  let w := s.wave s.issuing
  let all := List.range 32
  if s.readBlocked s.issuing leaf.key line all (prefPath level mark leaf) then s
  else match prefPath level mark leaf with
    | .bypass => (s.readLine (s.coreOf w) (s.funcOf w) leaf.key line all mark).1
    | path => (s.readPath s.issuing leaf.key line all path).1

/-- PREF: it never traps, writes no register and changes no value (R330, R331). -/
def execPref (p : Bool) (b : SReg) (o : VReg) (level : PrefLevel) (c : PrefClass) (s : State) : Out :=
  s.onWave fun w =>
    let lines := w.active.filterMap fun l => s.prefLine w b o l
    let leaf := fun l => ((lines.find? fun x => x.1 == l).map fun x => x.2).getD default
    ((distinct (lines.map fun x => x.1)).foldl (fun s l => s.prefetch level (prefMark c) l (leaf l)) s).retire .plain p id

end Sys2Proof.Machine
end

