-- ==== Sys2Proof/Machine/Sync.lean ====
section
/-! DEFINITION. FENCE (R183, R184, R308), BAR, ARRIVE and WAITB (R292, R293, R373), WAITA (R371, R372), WAITBIT (R62, R374) and WAITC (R191,
R375), with the tests that a waiting fragment repeats. -/

namespace Sys2Proof.Machine

/-! ### Blocking points -/

/-- The wave is at a blocking point: no fragment is LIVE, and one is in WAIT (R45). -/
def Wave.atBlock (w : Wave) : Bool := !(w.frags.any fun f => f.state == .live) && w.frags.any fun f => f.state == .wait

/-- At a blocking point the pins that the wave used end (R188). -/
def State.blockPins (s : State) (wi : Nat) : State := if (s.wave wi).atBlock then s.endPinsOf wi else s

/-- The issuing word is a wait that is not satisfied: it ends, and its fragment waits (item 3 of R43). -/
def State.waitFor (s : State) (p : Bool) (c : WaitFor) : Out :=
  .next ((s.modWave s.issuing fun w => ({ w with pc := w.pc + 4 }.mark .plain p).block' c).blockPins s.issuing)

/-! ### Arrivals and orders under way (R180, R183, R292) -/

/-- A fragment of a wave has arrived at a group (R292). -/
def State.markArrival (s : State) (w : Wave) (g e : Nat) : State :=
  s.modBlock w.block fun b => { b with marks := b.marks ++ [(g, w.index, e)] }

/-- An arrival whose release has been awaited begins: its fragment is marked unless it has left, and the barrier may complete (R292). -/
def State.beginArrive (g : BitVec 8) (s : State) (wi : Nat) (x : Access) : Began :=
  let w := s.wave wi
  .ok (if x.frag < 8 then (s.markArrival w g.toNat x.frag).tryFlip w.block g.toNat else s, none)

/-- An access that has waited on its release begins (R180). -/
def State.begin (s : State) (wi : Nat) (x : Access) : Began :=
  match x.word with
  | .ld _ v _ _ z c => s.beginLd v z c wi x
  | .st _ v _ _ z c => s.beginSt v z c wi x
  | .sld _ d _ _ z => s.beginSld d z wi x
  | .sst _ d _ _ z => s.beginSst d z wi x
  | .lds _ v _ _ z _ => s.beginLds v z wi x
  | .sts _ v _ _ z _ => s.beginSts v z wi x
  | .atoms _ v _ _ op => s.beginAtoms v op wi x
  | .atom _ v _ _ op => s.beginAtom v op wi x
  | .lr _ v _ _ z => s.beginLr v z wi x
  | .sc _ v _ _ z => s.beginSc v z wi x
  | .stc _ v _ _ z q => s.beginStc v z q wi x
  | .arrive _ g | .bar _ g => s.beginArrive g wi x
  | _ => .ok (s, none)

/-- An outstanding result that has waited for its access takes the access's result; a debugger's write that followed it follows it still (R286). -/
def Pending.arrive (p : Pending) (id : Nat) (q : Pending) : Pending :=
  if p.tag = .order id then { q with writes := q.writes ++ p.writes.drop q.writes.length, pc := p.pc } else p

/-- The wave when an access that waited on the order of a number has begun: its result takes its place, the order of its acquire comes first, and a
later order awaits its stores (R180, R183). -/
def Wave.begunLate (w : Wave) (id : Nat) (x : Access) (res : Option Pending) (req op : Nat) : Wave :=
  let w := match res with
    | some q => { w with pending := w.pending.map fun (p : Pending) => p.arrive id q }
    | none => w
  let acq := ((acquireClass x.word).map fun pred => w.acquireHold x.order pred req op).getD []
  { w with holds := acq ++ w.holds.map fun (h : Hold) => { h with req := max h.req req } }

/-- An order that is done: a release of it is complete, and its acquire follows; with D alone in succ it discards nothing (R183, R219). -/
def State.closeHold (s : State) (wi : Nat) (h : Hold) : State :=
  let s := s.modWave wi fun w => { w with holds := w.holds.filter fun x => x != h }
  let s := if h.publish then s.published wi h.scope else s
  if h.acquire then s.acquire wi h.scope else if h.succ.getLsbD 1 && h.access.isNone then s.takeBsf wi h.scope else s

/-- The orders under way that publish take in an access of the wave that has begun before them: they release again (R180, R183). -/
def State.republish (s : State) (wi : Nat) : State :=
  (s.wave wi).holds.foldl (fun s h => if h.publish then s.release wi h.scope else s) s

/-- As `closeHold`, with the access that waits on the order: it begins; none where something at its home holds it back (R180). -/
def State.endHold (s : State) (wi : Nat) (h : Hold) : Option State :=
  let t := s.closeHold wi h
  match h.access with
  | none => some t
  | some (id, x) => match t.begin wi x with
    | .error _ => none
    | .ok (u, res) =>
      let u := u.republish wi
      some (u.modWave wi fun w => w.begunLate id x res u.nextReq u.nextOp)

/-- The lines of the store events of an access that would begin but for records of a log (R180, R231). -/
def State.holdLines (s : State) (wi : Nat) (h : Hold) : Option (List Nat) :=
  match h.access with
  | none => none
  | some (_, x) => if !s.holdDone wi h then none else match (s.closeHold wi h).begin wi x with
    | .error (.log lines) => some lines
    | _ => none

/-- The state when the first order of a wave that can end has ended. -/
def State.nextHold (s : State) (wi : Nat) : Option State :=
  (s.wave wi).holds.findSome? fun h => if s.holdDone wi h then s.endHold wi h else none

/-- The orders of a wave that are done take effect, the earliest first. -/
def State.settleHolds (s : State) (wi : Nat) : State :=
  (List.range (s.wave wi).holds.length).foldl (fun s _ => (s.nextHold wi).getD s) s

/-! ### FENCE -/

/-- The pred set publishes values: W, CW, MW or X (R183). -/
def publishes (pred : BitVec 8) : Bool := pred &&& 0x55 != 0

/-- The order that a FENCE begins, with everything that its wave has issued before it (R183). -/
def State.fenceHold (s : State) (w : Wave) (pred succ : BitVec 8) (sc : Scope) : Hold :=
  ⟨w.pending.length, s.nextReq, s.nextOp, pred, succ.setWidth 9, sc, publishes pred, succ &&& 0xA8 != 0, none⟩

/-- FENCE (R183, R308): its release part begins, and the later accesses of the classes in `succ` are held until both parts are done. -/
def execFence (p : Bool) (pred succ : BitVec 8) (sc : Scope) (s : State) : Out :=
  s.onWave fun _ =>
    let wi := s.issuing
    if pred = 0 ∨ succ = 0 then s.retire .plain p id
    else
      let s := if publishes pred then s.release wi sc else s
      let s := s.modWave wi fun w => { w with holds := w.holds ++ [s.fenceHold w pred succ sc] }
      (s.settleHolds wi).retire .plain p id

/-! ### Barriers -/

/-- A group form traps PROT for a group that the wave may not name (R37). -/
def State.onGroup (s : State) (g : BitVec 8) (k : Wave → Out) : Out :=
  s.onWave fun w => if s.mayName w g.toNat then k w else s.trap Cause.prot (g.setWidth 64)

/-- An order of the wave is the release of an arrival of its current fragment at a group (R292). -/
def Wave.arriving (w : Wave) (g : BitVec 8) : Bool := w.holds.any fun h => match h.access with
  | some (_, x) => x.frag == w.cur && match x.word with
    | .bar _ g' | .arrive _ g' => g' == g
    | _ => false
  | none => false

/-- The fragment has arrived at the group since its phase last changed, or its arrival waits on its release (R292). -/
def State.hasArrived (s : State) (w : Wave) (g : BitVec 8) : Bool :=
  (s.blockOf w).marks.contains (g.toNat, w.index, w.cur) || w.arriving g

/-- What BAR and ARRIVE do (R292): a second arrival in one phase waits and issues again; else the fragment releases at BK, and arrives at once where the
release is complete, or when it is (R180). -/
def State.arrive (s : State) (i : Instr) (g : BitVec 8) (at_ : Wave → State → Out) (later : Wave → State → Out) : Out :=
  s.onGroup g fun w =>
    if s.hasArrived w g then
      .next ((s.modWave s.issuing fun w => { w with stall := .none }.block' (.rearm g.toNat ((s.blockOf w).phase g.toNat) false)).blockPins
        s.issuing)
    else
      let t := s.release s.issuing .bk
      if t.releasedNow s.issuing .bk then at_ w ((t.published s.issuing .bk).markArrival w g.toNat w.cur)
      else later w (t.modWave s.issuing fun w => w.awaitRelease (w.accessOf i (.rel, .bk) []) [] t.nextReq t.nextOp)

/-- BAR (R292): where its arrival completes the barrier it goes on at once. -/
def execBar (p : Bool) (g : BitVec 8) (s : State) : Out :=
  s.arrive (.bar p g) g
    (fun w s =>
      if s.complete w.block g.toNat then ((s.flip w.block g.toNat).acquire s.issuing .bk).retire .plain p id
      else s.waitFor p (.bar g.toNat ((s.blockOf w).phase g.toNat) false))
    fun w s => s.waitFor p (.bar g.toNat ((s.blockOf w).phase g.toNat) false)

/-- ARRIVE (R292). -/
def execArrive (p : Bool) (g : BitVec 8) (s : State) : Out :=
  s.arrive (.arrive p g) g (fun w s => (s.tryFlip w.block g.toNat).retire .plain p id) fun _ s => s.retire .plain p id

/-- WAITB (R373). -/
def execWaitb (p : Bool) (g : BitVec 8) (h : Bool) (s : State) : Out :=
  s.onGroup g fun w =>
    if (s.blockOf w).phase g.toNat = h then s.waitFor p (.waitb g.toNat h false)
    else (s.acquire s.issuing .bk).retire .plain p id

/-! ### WAITA and WAITBIT -/

/-- A read at the home by a wait form: the state after it, and the value with its stamp unless the read meets a pin or a request before it that
waits (R173, R174, R187, R371). -/
def State.homeRead (s : State) (wi a key n : Nat) : State × Option (Nat × Stamp) :=
  let s := (s.toHome wi [lineOf a]).touch (s.funcOf (s.wave wi)) (lineOf a) .dflt
  let bytes := (List.range n).map fun k => a + k
  if s.pinned bytes || s.homeBehind wi (lineOf a) then (s, none)
  else (s.reply wi key bytes, some (leNat (s.homeByte wi key) a n, s.valueStamp (lineOf a)))

/-- The test of a wait condition: the state after it, and whether it is met, with the stamp and the scope of its acquire (R62, R371). -/
def State.testWait (s : State) (wi : Nat) : WaitFor → State × Option (Stamp × Scope)
  | .waita cond v .scratch a _ _ =>
    (s, if WCond.holds cond (BitVec.ofNat 32 ((s.scratch (s.wave wi)).nat a 4)) v then some (0, .bk) else none)
  | .waita cond v .global a key _ =>
    match s.homeRead wi a key 4 with
    | (t, some (x, st)) => (t, if WCond.holds cond (BitVec.ofNat 32 x) v then some (st, .dv) else none)
    | (t, none) => (t, none)
  | .waitbit a bit key _ =>
    match s.homeRead wi a key 8 with
    | (t, some (x, st)) => (t, if x.testBit bit then some (st, .dv) else none)
    | (t, none) => (t, none)
  | _ => (s, none)

/-- A met wait: SF rises to the value's stamp, and the acquire follows (R62, R371). -/
def State.met (s : State) (wi : Nat) (x : Stamp × Scope) : State := (s.modWave wi fun w => w.raise x.1).acquire wi x.2

/-- A wait form is tested at issue; unmet, its fragment waits (R62, R197, R371). -/
def State.startWait (s : State) (p : Bool) (c : WaitFor) : Out :=
  match (s.modWave s.issuing fun w => { w with readPc := w.pc }).testWait s.issuing c with
  | (t, some x) => (t.met s.issuing x).retire .plain p fun w => { w with scc := true }
  | (t, none) => t.waitFor p c

/-- WAITA (R371). -/
def execWaita (p : Bool) (a v : SReg) (cond : WCond) (space : Space) (s : State) : Out :=
  s.onWave fun w =>
    let timeout := w.wakeTo.toNat
    match space with
    | .scratch =>
      match formScratch ((w.s a).setWidth 64) 4 (s.scratch w).size with
      | .error (c, x) => s.trap c x
      | .ok x => s.startWait p (.waita cond (w.s v) .scratch x 0 timeout)
    | .global =>
      s.afterRange (.waita p a v cond space) w [s.checkFormed w .load 0 (formGlobal (w.s64 a) (w.s64 a) 4)] fun s as =>
        s.startWait p (.waita cond (w.s v) .global ((as.head?.map fun x => x.pa).getD 0) (keyOf as) timeout)

/-- WAITBIT (R62). -/
def execWaitbit (p : Bool) (b i : SReg) (s : State) : Out :=
  s.onWave fun w =>
    s.afterRange (.waitbit p b i) w [s.checkFormed w .load 0 (formGlobal (w.s64 b) (w.s64 b + 8 * (w.s64 i >>> 6)) 8)] fun s as =>
      s.startWait p (.waitbit ((as.head?.map fun x => x.pa).getD 0) ((w.s i).toNat % 64) (keyOf as) w.wakeTo.toNat)

/-- A waiting fragment's wait is met: it goes on with SCC = 1 (R62, R371). -/
def State.meet (s : State) (wi e : Nat) (x : Stamp × Scope) : State := (s.met wi x).modWave wi fun w => (w.setSccOf e true).wake e

/-- A waiting fragment's condition is tested again: where a store event has met it, it stays met (R62, R371, R372). -/
def State.poll (s : State) (wi e : Nat) : State × Bool :=
  let f := (s.wave wi).fragAt e
  match f.seen, f.wait with
  | some st, _ => (s.meet wi e (st, .dv), true)
  | none, none => (s, false)
  | none, some c =>
    match s.testWait wi c with
    | (t, some x) => (t.meet wi e x, true)
    | (t, none) => (t, false)

/-- A wait on a word of a peer, which is read again only by the 4,096-cycle tick (R371, R374). -/
def WaitFor.far : WaitFor → Bool
  | .waita _ _ .global a _ _ | .waitbit a _ _ _ => peerOf a != 0
  | _ => false

/-- WAIT_POLL_TICK (R62, R371). -/
def execWaitPollTick (wi e : Nat) (s : State) : Out :=
  if s.waits wi e then
    let x := s.poll wi e
    if x.2 then x.1.done else (x.1.modWave wi fun w => w.modFrag e fun f => { f with pollAt := f.waited + pollTick }).done
  else s.done

/-- The timeout of a wait condition; 0 for none (R371). -/
def timeoutOf : WaitFor → Nat
  | .waita _ _ _ _ _ t => t
  | .waitbit _ _ _ t => t
  | _ => 0

/-- The timeout of a waiting fragment has been reached (R371). -/
def State.expired (s : State) (wi e : Nat) : Bool :=
  let f := (s.wave wi).fragAt e
  match f.wait with
  | some c => timeoutOf c != 0 && timeoutOf c ≤ f.waited
  | none => false

/-- The wait of a fragment is one on a word of a peer. -/
def Frag.far (f : Frag) : Bool := (f.wait.map WaitFor.far).getD false

/-- WAKETO_EXPIRY (R371): the condition is read once more, but for a word of a peer, which its tick alone reads (R374); unmet, SCC is 0, with no
acquire. -/
def execWaketoExpiry (wi e : Nat) (s : State) : Out :=
  if s.waits wi e && s.expired wi e then
    let x := if ((s.wave wi).fragAt e).far then (s, false) else s.poll wi e
    if x.2 then x.1.done else (x.1.modWave wi fun w => (w.setSccOf e false).wake e).done
  else s.done

/-! ### WAITC -/

/-- The outstanding operations of a class but for those among the `n` that the wave issued last; none where no more than `n` are
outstanding (R191, R375). -/
def Wave.awaited (w : Wave) (cls : EClass) (n : Nat) : List Nat :=
  let last := ((w.recent.filter fun x => x.1 == cls).take n).map fun x => x.2
  if w.counter cls ≤ n then [] else (w.out cls).filter fun o => !last.contains o

/-- WAITC (R191, R375). -/
def execWaitc (p : Bool) (cls : EClass) (n : BitVec 6) (s : State) : Out :=
  s.onWave fun w =>
    let ops := w.awaited cls n.toNat
    if ops.isEmpty then s.retire .plain p id else s.waitFor p (.waitc cls ops)

/-- A fragment's WAITC without an operation that has completed; with the last it goes on, but of a taken wave only when it is restored (R82,
R191). -/
def Wave.tickWaitc (cls : EClass) (id : Nat) (w : Wave) (e : Nat) : Wave :=
  match (w.fragAt e).wait with
  | some (.waitc k ops) =>
    if k = cls ∧ ops.contains id then
      let rest := ops.filter fun o => o != id
      if rest.isEmpty && !w.taken then w.wake e else w.modFrag e fun f => { f with wait := some (.waitc k rest) }
    else w
  | _ => w

/-- An operation of a class completes: the wave's counter falls, and the waits for it go on (R87, R191). -/
def Wave.opDone (w : Wave) (cls : EClass) (id : Nat) : Wave :=
  (List.range 8).foldl (Wave.tickWaitc cls id) (w.setOut cls ((w.out cls).filter fun o => o != id))

end Sys2Proof.Machine
end

