-- ==== Sys2Proof/Machine/Sfu.lean ====
section
/-! DEFINITION. The special functions (R152, R153): each value is worked out in fixed point with 320 bits below the point, with a last bit
that says it is not exact, and is then rounded once. A result that is a power of two or an integer is exact (log 14: DEDUCED). -/

namespace Sys2Proof.Machine

/-- Bits below the point of the working values. -/
def sfuBits : Nat := 320

/-- Pi in units of 2^-700. -/
def piFixed : Nat := 0x3243F6A8885A308D313198A2E03707344A4093822299F31D0082EFA98EC4E6C89452821E638D01377BE5466CF34E90C6CC0AC29B7C97C50DD3F84D5B5B54709179216D5D98979FB1BD1310BA698DFB5AC2FFD72DBD01ADFB

/-- The natural logarithm of 2 in units of 2^-320. -/
def ln2Fixed : Nat := 0xB17217F7D1CF79ABC9E3B39803F2F6AF40F343267298B62D8A0D175B8BAAFA2BE7B876206DEBAC98

/-- The product of two working values. -/
def fixMul (x y : Nat) : Nat := x * y / 2 ^ sfuBits

/-- The sum of the series of the exponential from its `k`-th term `t` on. -/
def expSeries (x : Nat) : Nat → Nat → Nat → Nat
  | 0, _, _ => 0
  | n + 1, k, t => t + expSeries x n (k + 1) (fixMul t x / (k + 1))

/-- The exponential of a working value below 1. -/
def expFixed (x : Nat) : Nat := expSeries x 80 0 (2 ^ sfuBits)

/-- The series of cosine and sine from the term `t` on, whose divisors are (k + 1)(k + 2). -/
def trigSeries (xx : Nat) : Nat → Nat → Nat → Int
  | 0, _, _ => 0
  | n + 1, k, t => t - trigSeries xx n (k + 2) (fixMul t xx / ((k + 1) * (k + 2)))

/-- The sine of a working value below 2. -/
def sinFixed (x : Nat) : Nat := (trigSeries (fixMul x x) 50 1 x).toNat
/-- The cosine of a working value below 2. -/
def cosFixed (x : Nat) : Nat := (trigSeries (fixMul x x) 50 0 (2 ^ sfuBits)).toNat

/-- The series of the inverse hyperbolic tangent from z^k on. -/
def atanhSeries (zz : Nat) : Nat → Nat → Nat → Nat
  | 0, _, _ => 0
  | n + 1, k, z => z / k + atanhSeries zz n (k + 2) (fixMul z zz)

/-- The natural logarithm of a working value in [1, 2]. -/
def lnFixed (y : Nat) : Nat :=
  let one := 2 ^ sfuBits
  let z := (y - one) * one / (y + one)
  2 * atanhSeries (fixMul z z) 110 1 z

/-- A working value that is not exact, as a value to round. -/
def approx (neg : Bool) (x : Nat) : FVal := .fin neg (2 * x + 1) (-(sfuBits : Int) - 1)

/-- Above zero and below every positive value of a format, or above every finite one: powers of two far outside every exponent range. -/
def outside (big : Bool) : FVal := .fin false 1 (if big then 4096 else -4096)

/-- 1/x (R153). -/
def FVal.rcp (x : FVal) : FVal := FVal.div (.fin false 1 0) x

/-- 1/√x (R153). -/
def FVal.rsq : FVal → FVal
  | .nan => .nan
  | .inf neg => if neg then .nan else .fin false 0 0
  | .fin neg m e =>
    if m = 0 then .inf neg
    else if neg then .nan
    else
      -- m 2^e with an even exponent; the root of 2^(2k) / m, exact where its square times m is 2^(2k)
      let m' := m * 2 ^ (e % 2).toNat
      let e' := (e - e % 2) / 2
      let k := 128 + Nat.log2 m'
      let q := root (2 ^ (2 * k) / m')
      .fin false (2 * q + (if q * q * m' = 2 ^ (2 * k) then 0 else 1)) (-(k : Int) - e' - 1)

/-- 2^x (R153): an integer gives a power of two. -/
def FVal.exp2 : FVal → FVal
  | .nan => .nan
  | .inf neg => if neg then .fin false 0 0 else .inf false
  | .fin neg m e =>
    if 4096 * 2 ^ 64 < (if 0 ≤ e + 64 then m * 2 ^ (e + 64).toNat else m / 2 ^ (-(e + 64)).toNat) then outside (!neg)
    else if 0 ≤ e then .fin false 1 (finUnits neg m e 0)
    else
      let s := (-e).toNat
      let x := finUnits neg m e e
      let n := x / 2 ^ s
      let r := (x % 2 ^ s).toNat
      if r = 0 then .fin false 1 n
      else match approx false (expFixed (fixMul (r * 2 ^ sfuBits / 2 ^ s) ln2Fixed)) with
        | .fin b k q => .fin b k (q + n)
        | v => v

/-- log2 x (R153): a power of two gives an integer. -/
def FVal.log2 : FVal → FVal
  | .nan => .nan
  | .inf neg => if neg then .nan else .inf false
  | .fin neg m e =>
    if m = 0 then .inf true
    else if neg then .nan
    else
      let b := Nat.log2 m
      let n : Int := b + e
      if m = 2 ^ b then .fin (decide (n < 0)) n.natAbs 0
      else
        let f := lnFixed (m * 2 ^ sfuBits / 2 ^ b) * 2 ^ sfuBits / ln2Fixed
        let x : Int := n * 2 ^ sfuBits + f
        approx (decide (x < 0)) (if x < 0 then x.natAbs - 1 else x.natAbs)

/-- The quadrant and the rest, in working units, of a magnitude over pi/2. -/
def reduceTrig (m : Nat) (e : Int) : Nat × Nat :=
  let x := if 0 ≤ e + 700 then m * 2 ^ (e + 700).toNat else m / 2 ^ (-(e + 700)).toNat
  let h := piFixed / 2
  (x / h % 4, x % h / 2 ^ 380)

/-- sin x (R153). -/
def FVal.sin : FVal → FVal
  | .nan => .nan
  | .inf _ => .nan
  | .fin neg m e =>
    if m = 0 then .fin neg 0 0
    else
      let r := reduceTrig m e
      match r.1 with
      | 0 => approx neg (sinFixed r.2)
      | 1 => approx neg (cosFixed r.2)
      | 2 => approx (!neg) (sinFixed r.2)
      | _ => approx (!neg) (cosFixed r.2)

/-- cos x (R153). -/
def FVal.cos : FVal → FVal
  | .nan => .nan
  | .inf _ => .nan
  | .fin _ m e =>
    if m = 0 then .fin false 1 0
    else
      let r := reduceTrig m e
      match r.1 with
      | 0 => approx false (cosFixed r.2)
      | 1 => approx true (sinFixed r.2)
      | 2 => approx true (cosFixed r.2)
      | _ => approx false (sinFixed r.2)

/-- tanh x as (1 - t)/(1 + t) with t the exponential of -2|x| (R153); beyond 128 the nearest value of every format is 1. -/
def FVal.tanh : FVal → FVal
  | .nan => .nan
  | .inf neg => .fin neg 1 0
  | .fin neg m e =>
    if m = 0 then .fin neg 0 0
    else
      let x := if 0 ≤ e + sfuBits then m * 2 ^ (e + sfuBits).toNat else m / 2 ^ (-(e + sfuBits)).toNat
      let one := 2 ^ sfuBits
      if 128 * one ≤ x then .fin neg 1 0
      else
        -- the exponential of 2x as a power of two times that of a rest below ln 2
        let n := 2 * x / ln2Fixed
        let g := expFixed (2 * x % ln2Fixed) * 2 ^ n
        approx neg ((g - one) * one / (g + one))

end Sys2Proof.Machine
end

