-- ==== Sys2Proof/Machine/Scalar.lean ====
section
/-! DEFINITION. The scalar forms: SR (R335, R336, R340), SI (R337), SLI (R345) and SLUI (R346). None accepts a hint but SI's HINT.IMM,
none faults, and each acts once for the wave. -/

namespace Sys2Proof.Machine

/-- The high word of a signed product (R336). -/
def mulh (x y : Word) : Word := BitVec.ofInt 32 (x.toInt * y.toInt / 2 ^ 32)

/-- The high word of an unsigned product (R336). -/
def mulhu (x y : Word) : Word := BitVec.ofNat 32 (x.toNat * y.toNat / 2 ^ 32)

/-- The number of set bits (R336). -/
def popCount {n : Nat} (x : BitVec n) : Nat := (List.range n).foldl (fun k i => k + (x.getLsbD i).toNat) 0

/-- The number of leading zeros, the width for 0 (R336). -/
def leadingZeros (x : Word) : Nat := 32 - (if x = 0 then 0 else Nat.log2 x.toNat + 1)

/-- The smaller and the larger value, signed and unsigned (R336, R359). -/
def minS (x y : Word) : Word := if y.slt x then y else x
@[inherit_doc minS] def maxS (x y : Word) : Word := if x.slt y then y else x
@[inherit_doc minS] def minU (x y : Word) : Word := if y.ult x then y else x
@[inherit_doc minS] def maxU (x y : Word) : Word := if x.ult y then y else x

/-- The shifts by the count in bits [4:0] (R336). -/
def shl (x y : Word) : Word := x <<< shiftCount y
@[inherit_doc shl] def shr (x y : Word) : Word := x >>> shiftCount y
@[inherit_doc shl] def sra (x y : Word) : Word := x.sshiftRight (shiftCount y)

/-- A value is written to a scalar and the next word follows. -/
def State.putS (s : State) (p : Bool) (d : SReg) (f : Wave → Word) : Out := s.updWave fun w => (w.setS d (f w)).step p

/-- A value is written to a scalar pair and the next word follows. -/
def State.putS64 (s : State) (p : Bool) (d : SReg) (f : Wave → Word64) : Out := s.updWave fun w => (w.setS64 d (f w)).step p

/-- SCC is written and the next word follows. -/
def State.putScc (s : State) (p : Bool) (f : Wave → Bool) : Out := s.updWave fun w => { w with scc := f w }.step p

/-- SADD (R336). -/
def execSadd (p : Bool) (d a b : SReg) (s : State) : Out := s.putS p d fun w => w.s a + w.s b

/-- SSUB (R336). -/
def execSsub (p : Bool) (d a b : SReg) (s : State) : Out := s.putS p d fun w => w.s a - w.s b

/-- SMUL (R336). -/
def execSmul (p : Bool) (d a b : SReg) (s : State) : Out := s.putS p d fun w => w.s a * w.s b

/-- SMULH (R336). -/
def execSmulh (p : Bool) (d a b : SReg) (s : State) : Out := s.putS p d fun w => mulh (w.s a) (w.s b)

/-- SMULHU (R336). -/
def execSmulhu (p : Bool) (d a b : SReg) (s : State) : Out := s.putS p d fun w => mulhu (w.s a) (w.s b)

/-- SAND (R336). -/
def execSand (p : Bool) (d a b : SReg) (s : State) : Out := s.putS p d fun w => w.s a &&& w.s b

/-- SOR (R336). -/
def execSor (p : Bool) (d a b : SReg) (s : State) : Out := s.putS p d fun w => w.s a ||| w.s b

/-- SXOR (R336). -/
def execSxor (p : Bool) (d a b : SReg) (s : State) : Out := s.putS p d fun w => w.s a ^^^ w.s b

/-- SANDN (R336). -/
def execSandn (p : Bool) (d a b : SReg) (s : State) : Out := s.putS p d fun w => w.s a &&& ~~~ w.s b

/-- SSHL (R336). -/
def execSshl (p : Bool) (d a b : SReg) (s : State) : Out := s.putS p d fun w => shl (w.s a) (w.s b)

/-- SSHR (R336). -/
def execSshr (p : Bool) (d a b : SReg) (s : State) : Out := s.putS p d fun w => shr (w.s a) (w.s b)

/-- SSRA (R336). -/
def execSsra (p : Bool) (d a b : SReg) (s : State) : Out := s.putS p d fun w => sra (w.s a) (w.s b)

/-- SMIN (R336). -/
def execSmin (p : Bool) (d a b : SReg) (s : State) : Out := s.putS p d fun w => minS (w.s a) (w.s b)

/-- SMAX (R336). -/
def execSmax (p : Bool) (d a b : SReg) (s : State) : Out := s.putS p d fun w => maxS (w.s a) (w.s b)

/-- SUMIN (R336). -/
def execSumin (p : Bool) (d a b : SReg) (s : State) : Out := s.putS p d fun w => minU (w.s a) (w.s b)

/-- SUMAX (R336). -/
def execSumax (p : Bool) (d a b : SReg) (s : State) : Out := s.putS p d fun w => maxU (w.s a) (w.s b)

/-- SADD64 (R336). -/
def execSadd64 (p : Bool) (d a b : SReg) (s : State) : Out := s.putS64 p d fun w => w.s64 a + w.s64 b

/-- SSUB64 (R336). -/
def execSsub64 (p : Bool) (d a b : SReg) (s : State) : Out := s.putS64 p d fun w => w.s64 a - w.s64 b

/-- SMOV (R336). -/
def execSmov (p : Bool) (d a : SReg) (s : State) : Out := s.putS p d fun w => w.s a

/-- SSEL: SCC selects (R336). -/
def execSsel (p : Bool) (d a b : SReg) (s : State) : Out := s.putS p d fun w => if w.scc then w.s a else w.s b

/-- SPOPC (R336). -/
def execSpopc (p : Bool) (d a : SReg) (s : State) : Out := s.putS p d fun w => BitVec.ofNat 32 (popCount (w.s a))

/-- SCLZ (R336). -/
def execSclz (p : Bool) (d a : SReg) (s : State) : Out := s.putS p d fun w => BitVec.ofNat 32 (leadingZeros (w.s a))

/-- SCMP (R340). -/
def execScmp (p : Bool) (a b : SReg) (c : Cond) (s : State) : Out := s.putScc p fun w => Cond.holds c (w.s a) (w.s b)

/-- SCMP on pairs (R340). -/
def execScmp64 (p : Bool) (a b : SReg) (c : Cond) (s : State) : Out := s.putScc p fun w => Cond.holds c (w.s64 a) (w.s64 b)

/-- SADDI (R337). -/
def execSaddi (p : Bool) (d a : SReg) (i : BitVec 10) (s : State) : Out := s.putS p d fun w => w.s a + w.imm10 i

/-- SANDI (R337). -/
def execSandi (p : Bool) (d a : SReg) (i : BitVec 10) (s : State) : Out := s.putS p d fun w => w.s a &&& w.imm10 i

/-- SORI (R337). -/
def execSori (p : Bool) (d a : SReg) (i : BitVec 10) (s : State) : Out := s.putS p d fun w => w.s a ||| w.imm10 i

/-- SXORI (R337). -/
def execSxori (p : Bool) (d a : SReg) (i : BitVec 10) (s : State) : Out := s.putS p d fun w => w.s a ^^^ w.imm10 i

/-- SSHLI (R337). -/
def execSshli (p : Bool) (d a : SReg) (i : BitVec 10) (s : State) : Out := s.putS p d fun w => shl (w.s a) (w.imm10 i)

/-- SSHRI (R337). -/
def execSshri (p : Bool) (d a : SReg) (i : BitVec 10) (s : State) : Out := s.putS p d fun w => shr (w.s a) (w.imm10 i)

/-- SSRAI (R337). -/
def execSsrai (p : Bool) (d a : SReg) (i : BitVec 10) (s : State) : Out := s.putS p d fun w => sra (w.s a) (w.imm10 i)

/-- SLI (R345). -/
def execSli (p : Bool) (d : SReg) (i : BitVec 19) (s : State) : Out := s.putS p d fun _ => i.signExtend 32

/-- SLUI: bits [31:19] are replaced, bits [18:0] kept (R346). -/
def execSlui (p : Bool) (d : SReg) (i : BitVec 13) (s : State) : Out := s.putS p d fun w => i ++ (w.s d).setWidth 19

end Sys2Proof.Machine
end

