-- ==== Sys2Proof/Machine/VectorInt.lean ====
section
/-! DEFINITION. The integer vector forms: VINT and VINTS (R359), VINTX (R358), VINTI (R360) and VSEL (R369), under the rules of R353: each
lane of EXEC computes its own result, and the other lanes keep theirs. -/

namespace Sys2Proof.Machine

/-- A value for each lane of EXEC is written to a vector register and the next word follows (R353). -/
def State.putV (s : State) (p : Bool) (d : VReg) (f : Wave → Nat → Word) : Out := s.updWave fun w => (w.setV d (f w)).step p

/-- A 64-bit value for each lane of EXEC is written to a pair and the next word follows (R353). -/
def State.putV64 (s : State) (p : Bool) (d : VReg) (f : Wave → Nat → Word64) : Out := s.updWave fun w => (w.setV64 d (f w)).step p

/-- VABS of one element (R358). -/
def absS (x : Word) : Word := if x.slt 0 then -x else x

/-- The width operand of VBFE and VBFI: y[13:8], at most 32 (R358). -/
def fieldWidth (y : Word) : Nat := min (y.toNat / 256 % 64) 32

/-- VBFE of one element (R358). -/
def bfe (x y : Word) : Word := (x >>> shiftCount y) &&& BitVec.ofNat 32 (2 ^ fieldWidth y - 1)

/-- VBFI of one element into `d` (R358). -/
def bfi (d x y : Word) : Word :=
  let m : Word := BitVec.ofNat 32 (2 ^ fieldWidth y - 1) <<< shiftCount y
  (d &&& ~~~ m) ||| ((x <<< shiftCount y) &&& m)

/-- VADD (R359). -/
def execVadd (p : Bool) (d a b : VReg) (s : State) : Out := s.putV p d fun w l => w.v a l + w.v b l

/-- VSUB (R359). -/
def execVsub (p : Bool) (d a b : VReg) (s : State) : Out := s.putV p d fun w l => w.v a l - w.v b l

/-- VMUL (R359). -/
def execVmul (p : Bool) (d a b : VReg) (s : State) : Out := s.putV p d fun w l => w.v a l * w.v b l

/-- VMULH (R359). -/
def execVmulh (p : Bool) (d a b : VReg) (s : State) : Out := s.putV p d fun w l => mulh (w.v a l) (w.v b l)

/-- VMULHU (R359). -/
def execVmulhu (p : Bool) (d a b : VReg) (s : State) : Out := s.putV p d fun w l => mulhu (w.v a l) (w.v b l)

/-- VMAD (R359). -/
def execVmad (p : Bool) (d a b : VReg) (s : State) : Out := s.putV p d fun w l => w.v d l + w.v a l * w.v b l

/-- VAND (R359). -/
def execVand (p : Bool) (d a b : VReg) (s : State) : Out := s.putV p d fun w l => w.v a l &&& w.v b l

/-- VOR (R359). -/
def execVor (p : Bool) (d a b : VReg) (s : State) : Out := s.putV p d fun w l => w.v a l ||| w.v b l

/-- VXOR (R359). -/
def execVxor (p : Bool) (d a b : VReg) (s : State) : Out := s.putV p d fun w l => w.v a l ^^^ w.v b l

/-- VSHL (R359). -/
def execVshl (p : Bool) (d a b : VReg) (s : State) : Out := s.putV p d fun w l => shl (w.v a l) (w.v b l)

/-- VSHR (R359). -/
def execVshr (p : Bool) (d a b : VReg) (s : State) : Out := s.putV p d fun w l => shr (w.v a l) (w.v b l)

/-- VSRA (R359). -/
def execVsra (p : Bool) (d a b : VReg) (s : State) : Out := s.putV p d fun w l => sra (w.v a l) (w.v b l)

/-- VMIN (R359). -/
def execVmin (p : Bool) (d a b : VReg) (s : State) : Out := s.putV p d fun w l => minS (w.v a l) (w.v b l)

/-- VMAX (R359). -/
def execVmax (p : Bool) (d a b : VReg) (s : State) : Out := s.putV p d fun w l => maxS (w.v a l) (w.v b l)

/-- VUMIN (R359). -/
def execVumin (p : Bool) (d a b : VReg) (s : State) : Out := s.putV p d fun w l => minU (w.v a l) (w.v b l)

/-- VUMAX (R359). -/
def execVumax (p : Bool) (d a b : VReg) (s : State) : Out := s.putV p d fun w l => maxU (w.v a l) (w.v b l)

/-- VADD_S: the scalar serves every lane (R359). -/
def execVaddS (p : Bool) (d a : VReg) (b : SReg) (s : State) : Out := s.putV p d fun w l => w.v a l + w.s b

/-- VSUB_S: the scalar serves every lane (R359). -/
def execVsubS (p : Bool) (d a : VReg) (b : SReg) (s : State) : Out := s.putV p d fun w l => w.v a l - w.s b

/-- VMUL_S: the scalar serves every lane (R359). -/
def execVmulS (p : Bool) (d a : VReg) (b : SReg) (s : State) : Out := s.putV p d fun w l => w.v a l * w.s b

/-- VMULH_S: the scalar serves every lane (R359). -/
def execVmulhS (p : Bool) (d a : VReg) (b : SReg) (s : State) : Out := s.putV p d fun w l => mulh (w.v a l) (w.s b)

/-- VMULHU_S: the scalar serves every lane (R359). -/
def execVmulhuS (p : Bool) (d a : VReg) (b : SReg) (s : State) : Out := s.putV p d fun w l => mulhu (w.v a l) (w.s b)

/-- VMAD_S: the scalar serves every lane (R359). -/
def execVmadS (p : Bool) (d a : VReg) (b : SReg) (s : State) : Out := s.putV p d fun w l => w.v d l + w.v a l * w.s b

/-- VAND_S: the scalar serves every lane (R359). -/
def execVandS (p : Bool) (d a : VReg) (b : SReg) (s : State) : Out := s.putV p d fun w l => w.v a l &&& w.s b

/-- VOR_S: the scalar serves every lane (R359). -/
def execVorS (p : Bool) (d a : VReg) (b : SReg) (s : State) : Out := s.putV p d fun w l => w.v a l ||| w.s b

/-- VXOR_S: the scalar serves every lane (R359). -/
def execVxorS (p : Bool) (d a : VReg) (b : SReg) (s : State) : Out := s.putV p d fun w l => w.v a l ^^^ w.s b

/-- VSHL_S: the scalar serves every lane (R359). -/
def execVshlS (p : Bool) (d a : VReg) (b : SReg) (s : State) : Out := s.putV p d fun w l => shl (w.v a l) (w.s b)

/-- VSHR_S: the scalar serves every lane (R359). -/
def execVshrS (p : Bool) (d a : VReg) (b : SReg) (s : State) : Out := s.putV p d fun w l => shr (w.v a l) (w.s b)

/-- VSRA_S: the scalar serves every lane (R359). -/
def execVsraS (p : Bool) (d a : VReg) (b : SReg) (s : State) : Out := s.putV p d fun w l => sra (w.v a l) (w.s b)

/-- VMIN_S: the scalar serves every lane (R359). -/
def execVminS (p : Bool) (d a : VReg) (b : SReg) (s : State) : Out := s.putV p d fun w l => minS (w.v a l) (w.s b)

/-- VMAX_S: the scalar serves every lane (R359). -/
def execVmaxS (p : Bool) (d a : VReg) (b : SReg) (s : State) : Out := s.putV p d fun w l => maxS (w.v a l) (w.s b)

/-- VUMIN_S: the scalar serves every lane (R359). -/
def execVuminS (p : Bool) (d a : VReg) (b : SReg) (s : State) : Out := s.putV p d fun w l => minU (w.v a l) (w.s b)

/-- VUMAX_S: the scalar serves every lane (R359). -/
def execVumaxS (p : Bool) (d a : VReg) (b : SReg) (s : State) : Out := s.putV p d fun w l => maxU (w.v a l) (w.s b)

/-- VADD64 (R358). -/
def execVadd64 (p : Bool) (d a b : VReg) (s : State) : Out := s.putV64 p d fun w l => w.v64 a l + w.v64 b l

/-- VSUB64 (R358). -/
def execVsub64 (p : Bool) (d a b : VReg) (s : State) : Out := s.putV64 p d fun w l => w.v64 a l - w.v64 b l

/-- VMULW (R358). -/
def execVmulw (p : Bool) (d a b : VReg) (s : State) : Out := s.putV64 p d fun w l => BitVec.ofInt 64 ((w.v a l).toInt * (w.v b l).toInt)

/-- VABS (R358). -/
def execVabs (p : Bool) (d a : VReg) (s : State) : Out := s.putV p d fun w l => absS (w.v a l)

/-- VNOT (R358). -/
def execVnot (p : Bool) (d a : VReg) (s : State) : Out := s.putV p d fun w l => ~~~ w.v a l

/-- VMOV (R358). -/
def execVmov (p : Bool) (d a : VReg) (s : State) : Out := s.putV p d fun w l => w.v a l

/-- VPOPC (R358). -/
def execVpopc (p : Bool) (d a : VReg) (s : State) : Out := s.putV p d fun w l => BitVec.ofNat 32 (popCount (w.v a l))

/-- VCLZ (R358). -/
def execVclz (p : Bool) (d a : VReg) (s : State) : Out := s.putV p d fun w l => BitVec.ofNat 32 (leadingZeros (w.v a l))

/-- VBREV (R358). -/
def execVbrev (p : Bool) (d a : VReg) (s : State) : Out := s.putV p d fun w l => (w.v a l).reverse

/-- VBFE (R358). -/
def execVbfe (p : Bool) (d a b : VReg) (s : State) : Out := s.putV p d fun w l => bfe (w.v a l) (w.v b l)

/-- VBFI (R358). -/
def execVbfi (p : Bool) (d a b : VReg) (s : State) : Out := s.putV p d fun w l => bfi (w.v d l) (w.v a l) (w.v b l)

/-- VADDI (R360). -/
def execVaddi (p : Bool) (d a : VReg) (i : BitVec 8) (s : State) : Out := s.putV p d fun w l => w.v a l + w.imm8 i

/-- VANDI (R360). -/
def execVandi (p : Bool) (d a : VReg) (i : BitVec 8) (s : State) : Out := s.putV p d fun w l => w.v a l &&& w.imm8 i

/-- VORI (R360). -/
def execVori (p : Bool) (d a : VReg) (i : BitVec 8) (s : State) : Out := s.putV p d fun w l => w.v a l ||| w.imm8 i

/-- VXORI (R360). -/
def execVxori (p : Bool) (d a : VReg) (i : BitVec 8) (s : State) : Out := s.putV p d fun w l => w.v a l ^^^ w.imm8 i

/-- VSHLI (R360). -/
def execVshli (p : Bool) (d a : VReg) (i : BitVec 8) (s : State) : Out := s.putV p d fun w l => shl (w.v a l) (w.imm8 i)

/-- VSHRI (R360). -/
def execVshri (p : Bool) (d a : VReg) (i : BitVec 8) (s : State) : Out := s.putV p d fun w l => shr (w.v a l) (w.imm8 i)

/-- VSRAI (R360). -/
def execVsrai (p : Bool) (d a : VReg) (i : BitVec 8) (s : State) : Out := s.putV p d fun w l => sra (w.v a l) (w.imm8 i)

/-- VLI (R360). -/
def execVli (p : Bool) (d : VReg) (i : BitVec 8) (s : State) : Out := s.putV p d fun w _ => w.imm8 i

/-- VSEL: the mask selects in each lane of EXEC (R369). -/
def execVsel (p : Bool) (d a b : VReg) (m : MReg) (s : State) : Out :=
  s.putV p d fun w l => if (w.m m).getLsbD l then w.v a l else w.v b l

end Sys2Proof.Machine
end

