-- ==== Sys2Proof/Machine/VectorFloat.lean ====
section
/-! DEFINITION. The floating-point vector forms (R366, R367), the special functions (R364), conversions (R149 to R151, R365), block packing
(R138 to R140, R368) and VCMP (R363), under the rules of R353. -/

namespace Sys2Proof.Machine


/-- A long-class word writes a vector register when it returns. -/
def State.longV (s : State) (p : Bool) (d : VReg) (f : Wave → Nat → Word) : Out :=
  s.updWave fun w => (w.later [w.lanesOf d.toNat (f w)]).step p

/-- The two writes of a pair. -/
def Wave.lanesOf64 (w : Wave) (d : VReg) (f : Nat → Word64) : List RegWrite :=
  [w.lanesOf d.toNat fun l => (f l).setWidth 32, w.lanesOf (d.toNat + 1) fun l => (f l >>> 32).setWidth 32]

/-! ### Elements of a lane (R137) -/

/-- The operand of a lane: the pair for F64, else the register. -/
def Wave.fop (w : Wave) (k : FMaj) (r : VReg) (l : Nat) : Word64 :=
  match k with
  | .f64 => w.v64 r l
  | .f32 | .h2 | .b2 => (w.v r l).setWidth 64

/-- A scalar operand: the even pair for F64, else the scalar (R367). -/
def Wave.fsop (w : Wave) (k : FMaj) (r : SReg) : Word64 :=
  match k with
  | .f64 => w.s64 r
  | .f32 | .h2 | .b2 => (w.s r).setWidth 64

/-- The 16-bit element of a register. -/
def half (x : Word64) (e : Nat) : Nat := x.toNat / 2 ^ (16 * e) % 65536

/-- An operation on each element of a lane, each computed and rounded on its own (R137). -/
def elems (k : FMaj) (op : Fmt → Nat → Nat → Nat → Nat) (a b d : Word64) : Word64 :=
  let two := fun f : Fmt => BitVec.ofNat 64 (op f (half a 0) (half b 0) (half d 0) + 65536 * op f (half a 1) (half b 1) (half d 1))
  match k with
  | .f64 => BitVec.ofNat 64 (op .f64 a.toNat b.toNat d.toNat)
  | .f32 => BitVec.ofNat 64 (op .f32 a.toNat b.toNat d.toNat)
  | .h2 => two .f16
  | .b2 => two .bf16

/-- The results of a form written: to a pair for F64. -/
def State.putF (s : State) (p : Bool) (k : FMaj) (d : VReg) (f : Wave → Nat → Word64) : Out :=
  match k with
  | .f64 => s.putV64 p d f
  | .f32 | .h2 | .b2 => s.putV p d fun w l => (f w l).setWidth 32

/-- The results of a long-class form: to a pair for F64. -/
def State.longF (s : State) (p : Bool) (k : FMaj) (d : VReg) (f : Wave → Nat → Word64) : Out :=
  match k with
  | .f64 => s.updWave fun w => (w.later (w.lanesOf64 d (f w))).step p
  | .f32 | .h2 | .b2 => s.longV p d fun w l => (f w l).setWidth 32

/-- The rounding mode of a form (R142, R366). -/
def Wave.fmode (w : Wave) : RMode := noSr (w.mode none)

/-- A register form: its element operation takes the format, the mode and the elements of va, vb and vd. -/
def State.vf (s : State) (p : Bool) (k : FMaj) (d a b : VReg) (op : RMode → Fmt → Nat → Nat → Nat → Nat) : Out :=
  s.putF p k d fun w l => elems k (op w.fmode) (w.fop k a l) (w.fop k b l) (w.fop k d l)

/-- The types of the scalar forms (R367). -/
def FType.maj : FType → FMaj
  | .f32 => .f32
  | .f64 => .f64
  | .h2 => .h2
  | .b2 => .b2

/-- A scalar form (R367). -/
def State.vfs (s : State) (p : Bool) (t : FType) (d a : VReg) (b : SReg) (op : RMode → Fmt → Nat → Nat → Nat → Nat) : Out :=
  let k := FType.maj t
  s.putF p k d fun w l => elems k (op w.fmode) (w.fop k a l) (w.fsop k b) (w.fop k d l)

/-- VFADD (R366). -/
def execVfadd (p : Bool) (k : FMaj) (d a b : VReg) (s : State) : Out := s.vf p k d a b fun m f x y _ => f.add m x y

/-- VFSUB (R366). -/
def execVfsub (p : Bool) (k : FMaj) (d a b : VReg) (s : State) : Out := s.vf p k d a b fun m f x y _ => f.sub m x y

/-- VFMUL (R366). -/
def execVfmul (p : Bool) (k : FMaj) (d a b : VReg) (s : State) : Out := s.vf p k d a b fun m f x y _ => f.mul m x y

/-- VFMA (R366). -/
def execVfma (p : Bool) (k : FMaj) (d a b : VReg) (s : State) : Out := s.vf p k d a b fun m f x y z => f.fma m x y z

/-- VFMIN (R366). -/
def execVfmin (p : Bool) (k : FMaj) (d a b : VReg) (s : State) : Out := s.vf p k d a b fun _ f x y _ => f.pick false x y

/-- VFMAX (R366). -/
def execVfmax (p : Bool) (k : FMaj) (d a b : VReg) (s : State) : Out := s.vf p k d a b fun _ f x y _ => f.pick true x y

/-- VFCPS (R366). -/
def execVfcps (p : Bool) (k : FMaj) (d a b : VReg) (s : State) : Out := s.vf p k d a b fun _ f x y _ => f.copySign x y

/-- VFABS (R366). -/
def execVfabs (p : Bool) (k : FMaj) (d a : VReg) (s : State) : Out := s.vf p k d a a fun _ f x _ _ => f.abs x

/-- VFNEG (R366). -/
def execVfneg (p : Bool) (k : FMaj) (d a : VReg) (s : State) : Out := s.vf p k d a a fun _ f x _ _ => f.negate x

/-- VFRND (R366). -/
def execVfrnd (p : Bool) (k : FMaj) (d a : VReg) (s : State) : Out := s.vf p k d a a fun m f x _ _ => f.toIntegral m x

/-- VFDIV: long-class, correctly rounded (R366). -/
def execVfdiv (p : Bool) (k : FMaj) (d a b : VReg) (s : State) : Out :=
  s.longF p k d fun w l => elems k (fun f x y _ => f.div w.fmode x y) (w.fop k a l) (w.fop k b l) 0

/-- VFADD_S (R367). -/
def execVfaddS (p : Bool) (d a : VReg) (b : SReg) (t : FType) (s : State) : Out := s.vfs p t d a b fun m f x y _ => f.add m x y

/-- VFSUB_S (R367). -/
def execVfsubS (p : Bool) (d a : VReg) (b : SReg) (t : FType) (s : State) : Out := s.vfs p t d a b fun m f x y _ => f.sub m x y

/-- VFMUL_S (R367). -/
def execVfmulS (p : Bool) (d a : VReg) (b : SReg) (t : FType) (s : State) : Out := s.vfs p t d a b fun m f x y _ => f.mul m x y

/-- VFMA_S (R367). -/
def execVfmaS (p : Bool) (d a : VReg) (b : SReg) (t : FType) (s : State) : Out := s.vfs p t d a b fun m f x y z => f.fma m x y z

/-- VFMIN_S (R367). -/
def execVfminS (p : Bool) (d a : VReg) (b : SReg) (t : FType) (s : State) : Out := s.vfs p t d a b fun _ f x y _ => f.pick false x y

/-- VFMAX_S (R367). -/
def execVfmaxS (p : Bool) (d a : VReg) (b : SReg) (t : FType) (s : State) : Out := s.vfs p t d a b fun _ f x y _ => f.pick true x y

/-! ### Special functions (R364) -/

/-- The types of the special functions. -/
def SfuType.maj : SfuType → FMaj
  | .f32 => .f32
  | .f64 => .f64
  | .h2 => .h2

/-- A special function, rounded once with RNE (R152). -/
def State.sfu (s : State) (p : Bool) (d a : VReg) (t : SfuType) (g : FVal → FVal) : Out :=
  s.longF p (SfuType.maj t) d fun w l =>
    elems (SfuType.maj t) (fun f x _ _ => f.round .rne 0 (g (f.decode x))) (w.fop (SfuType.maj t) a l) 0 0

/-- VRCP (R364). -/
def execVrcp (p : Bool) (d a : VReg) (t : SfuType) (s : State) : Out := s.sfu p d a t FVal.rcp

/-- VRSQ (R364). -/
def execVrsq (p : Bool) (d a : VReg) (t : SfuType) (s : State) : Out := s.sfu p d a t FVal.rsq

/-- VEXP2 (R364). -/
def execVexp2 (p : Bool) (d a : VReg) (t : SfuType) (s : State) : Out := s.sfu p d a t FVal.exp2

/-- VLOG2 (R364). -/
def execVlog2 (p : Bool) (d a : VReg) (t : SfuType) (s : State) : Out := s.sfu p d a t FVal.log2

/-- VSIN (R364). -/
def execVsin (p : Bool) (d a : VReg) (t : SfuType) (s : State) : Out := s.sfu p d a t FVal.sin

/-- VCOS (R364). -/
def execVcos (p : Bool) (d a : VReg) (t : SfuType) (s : State) : Out := s.sfu p d a t FVal.cos

/-- VTANH (R364). -/
def execVtanh (p : Bool) (d a : VReg) (t : SfuType) (s : State) : Out := s.sfu p d a t FVal.tanh

/-- VSQRT: correctly rounded in its effective mode (R152, R364). -/
def execVsqrt (p : Bool) (d a : VReg) (t : SfuType) (s : State) : Out :=
  s.longF p (SfuType.maj t) d fun w l =>
    elems (SfuType.maj t) (fun f x _ _ => f.round w.fmode 0 (f.decode x).sqrt) (w.fop (SfuType.maj t) a l) 0 0

/-! ### VCMP (R363) -/

/-- A condition of VCMP in one lane (R148, R363). -/
def Wave.vcmpLane (w : Wave) (c : VCond) (t : VType) (a b : VReg) (l : Nat) : Bool :=
  match t with
  | .i32 => VCond.onInt c (w.v a l) (w.v b l)
  | .i64 => VCond.onInt c (w.v64 a l) (w.v64 b l)
  | .f32 => Fmt.f32.holds c (w.v a l).toNat (w.v b l).toNat
  | .f64 => Fmt.f64.holds c (w.v64 a l).toNat (w.v64 b l).toNat
  | .f16 => Fmt.f16.holds c ((w.v a l).toNat % 65536) ((w.v b l).toNat % 65536)
  | .bf16 => Fmt.bf16.holds c ((w.v a l).toNat % 65536) ((w.v b l).toNat % 65536)

/-- The mask of the lanes of a list that satisfy a condition. -/
def laneMask (ls : List Nat) (f : Nat → Bool) : Mask := ls.foldl (fun m l => if f l then m ||| 1 <<< l else m) 0

/-- VCMP: lanes outside EXEC give 0 (R363). -/
def execVcmp (p : Bool) (d : MReg) (a b : VReg) (c : VCond) (t : VType) (s : State) : Out :=
  s.updWave fun w => (w.setM d (laneMask w.active (w.vcmpLane c t a b))).step p

/-! ### Stochastic rounding (R143) -/

/-- One advance of a lane's state, which is also the draw. -/
def srNext (x : Word) : Word :=
  let x := x ^^^ (x <<< 13)
  let x := x ^^^ (x >>> 17)
  x ^^^ (x <<< 5)

/-- The state of a lane after seeding. -/
def srSeedOf (seed : Word) (l : Nat) : Word :=
  let x := seed ^^^ BitVec.ofNat 32 (l * 0x9E3779B9)
  if x = 0 then 0x9E3779B9 else x

/-- The draw that a lane makes next. -/
def Wave.draw (w : Wave) (l : Nat) : Nat := (srNext (w.srState.getD l 0)).toNat

/-- Every lane of EXEC has made its draw. -/
def Wave.drawn (w : Wave) : Wave := { w with srState := mergeLanes w.exec (fun l => srNext (w.srState.getD l 0)) 0 w.srState }

/-! ### VCVT (R365) -/

/-- Width and signedness of an integer type. -/
def CvtType.intType : CvtType → Option (Nat × Bool)
  | .i32 => some (32, true)
  | .ui32 => some (32, false)
  | .i64 => some (64, true)
  | .ui64 => some (64, false)
  | .i16 => some (16, true)
  | .ui16 => some (16, false)
  | .i8 => some (8, true)
  | .ui8 => some (8, false)
  | .f32 | .f64 | .f16 | .bf16 | .e4m3 | .e5m2 => none

/-- The format of a floating-point type. -/
def CvtType.fmt : CvtType → Fmt
  | .f64 => .f64
  | .f16 => .f16
  | .bf16 => .bf16
  | .e4m3 => .e4m3
  | .e5m2 => .e5m2
  | _ => .f32

/-- The integer that the low bits of a register hold. -/
def intOf (width : Nat) (signed : Bool) (x : Nat) : Int :=
  let y := x % 2 ^ width
  if signed && y.testBit (width - 1) then (y : Int) - 2 ^ width else y

/-- The range of an integer type. -/
def intMin (width : Nat) (signed : Bool) : Int := if signed then -(2 ^ (width - 1)) else 0
@[inherit_doc intMin] def intMax (width : Nat) (signed : Bool) : Int := if signed then 2 ^ (width - 1) - 1 else 2 ^ width - 1

/-- An integer as an exact value. -/
def FVal.ofInt (x : Int) : FVal := .fin (decide (x < 0)) x.natAbs 0

/-- A value converted to an integer type (R149, R150). -/
def toIntType (mode : RMode) (sat : Bool) (width : Nat) (signed : Bool) (v : FVal) : Int :=
  let lo := intMin width signed
  let hi := intMax width signed
  match v with
  | .nan => 0
  | .inf neg => if neg then lo else hi
  | .fin neg m e =>
    let n := finUnits neg (roundUnits mode neg 0 m e 0) 0 0
    if lo ≤ n ∧ n ≤ hi then n
    else if sat then (if n < lo then lo else hi)
    else finUnits neg (roundUnits .rtz neg 0 m e 0) 0 0

/-- A value converted to a floating-point type (R151). -/
def toFloatType (f : Fmt) (mode : RMode) (sat : Bool) (draw : Nat) (v : FVal) : Nat :=
  match v with
  | .nan => f.nanCode
  | .inf neg => if sat then f.withSign neg f.maxCode else f.round mode draw (.inf neg)
  | .fin neg m e =>
    let r := f.roundFin mode draw neg m e
    if sat && decide (f.maxCode < r % f.signBit) then f.withSign neg f.maxCode else r

/-- The result of a conversion in its register or pair: I8 and I16 sign-extended, every other narrow type zero-extended (R137). -/
def convert (t u : CvtType) (mode : RMode) (sat : Bool) (draw : Nat) (x : Nat) : Word64 :=
  let v : FVal := match CvtType.intType u with
    | some (n, sg) => .ofInt (intOf n sg x)
    | none => (CvtType.fmt u).decode x
  match CvtType.intType t with
  | some (n, sg) =>
    let y := toIntType (noSr mode) sat n sg v
    if n = 64 then BitVec.ofInt 64 y
    else BitVec.ofNat 64 ((BitVec.ofInt 32 (intOf n sg (y % 2 ^ n).toNat)).toNat)
  | none =>
    let f := CvtType.fmt t
    BitVec.ofNat 64 (toFloatType f (if f.fbits < 23 then mode else noSr mode) sat draw v)

/-- The type takes a pair (R110). -/
def CvtType.isPair : CvtType → Bool
  | .i64 | .ui64 | .f64 => true
  | _ => false

/-- Stochastic rounding applies to the destination (R142). -/
def CvtType.draws : CvtType → Bool
  | .f16 | .bf16 | .e4m3 | .e5m2 => true
  | _ => false

/-- The mode of the rnd field, where it is not DYN (R142). -/
def CvtRnd.own : CvtRnd → Option RMode
  | .dyn => none
  | .rne => some .rne
  | .rtz => some .rtz
  | .rna => some .rna

/-- VCVT (R365). -/
def execVcvt (p : Bool) (d a : VReg) (t u : CvtType) (r : CvtRnd) (sat : Bool) (s : State) : Out :=
  s.updWave fun w =>
    let mode := w.mode (CvtRnd.own r)
    let src := fun l => if CvtType.isPair u then (w.v64 a l).toNat else (w.v a l).toNat
    let res := fun l => convert t u mode sat (w.draw l) (src l)
    let w' := if CvtType.isPair t then w.setV64 d res else w.setV d fun l => (res l).setWidth 32
    (if mode = .sr ∧ CvtType.draws t then w'.drawn else w').step p

/-! ### The 4-bit block formats (R138 to R140) -/

/-- The magnitudes of the codes 0 to 7 of a type, in units of `2^-gridShift` (R139); UNI uses 0 to 8. -/
def blkGrid : BlkType → List Nat
  | .uni => [0, 1, 2, 3, 4, 5, 6, 7, 8]
  | .e2m1 => [0, 1, 2, 3, 4, 6, 8, 12]
  | .pow2 => [0, 1, 2, 4, 8, 16, 32, 64]
  | .hyb => [0, 1, 2, 3, 4, 6, 8, 16]

/-- The unit of a type's grid. -/
def blkShift : BlkType → Nat
  | .uni | .hyb => 0
  | .e2m1 => 1
  | .pow2 => 6

/-- The code of a sign and a magnitude index: two's complement in UNI, else the sign in bit 3 (R139). -/
def blkCode (t : BlkType) (neg : Bool) (i : Nat) : Nat :=
  match t with
  | .uni => if neg then (16 - i) % 16 else i
  | .e2m1 | .pow2 | .hyb => (if neg then 8 else 0) + i

/-- Sign and magnitude, in units of the grid, of a code (R139). -/
def blkValue (t : BlkType) (c : Nat) : Bool × Nat :=
  match t with
  | .uni => if 8 ≤ c then (true, 16 - c) else (false, c)
  | .e2m1 | .pow2 | .hyb => (decide (8 ≤ c), (blkGrid t).getD (c % 8) 0)

/-- The highest magnitude index that a sign may take. -/
def blkLast (t : BlkType) (neg : Bool) : Nat := if t = .uni ∧ neg then 8 else 7

/-- The value of a code under a scale, as a value (R139). -/
def blkDecode (t : BlkType) (e c : Nat) : FVal :=
  if e = 63 then .nan
  else
    let v := blkValue t c
    .fin (v.1 && (t != .uni || v.2 != 0)) v.2 ((e : Int) - 32 - blkShift t)

/-- The code nearest a finite value under a scale; in types 1 to 3 a negative zero gives 0b1000 (R140, log 35: DESIGN CHOICE). -/
def blkEncode (t : BlkType) (mode : RMode) (draw e : Nat) (neg : Bool) (m : Nat) (ex : Int) : Nat :=
  -- the scaled magnitude is num / 2^sh units of the grid
  let k := ex - ((e : Int) - 32) + blkShift t
  let num := if 0 ≤ k then m * 2 ^ k.toNat else m
  let sh := (-k).toNat
  let g := blkGrid t
  let last := blkLast t neg
  let lo := ((List.range (last + 1)).filter fun i => g.getD i 0 * 2 ^ sh ≤ num).length - 1
  if lo = last then blkCode t neg last
  else
    let gl := g.getD lo 0
    let rem := num - gl * 2 ^ sh
    let gap := (g.getD (lo + 1) 0 - gl) * 2 ^ sh
    let up := match mode with
      | .rne => decide (gap < 2 * rem) || (gap == 2 * rem && lo % 2 == 1)
      | .rtz => false
      | .rdn => neg && rem != 0
      | .rup => !neg && rem != 0
      | .rna => decide (gap ≤ 2 * rem)
      | .sr => decide (draw < 2 ^ 32 * rem / gap)
    blkCode t neg (if up then lo + 1 else lo)

/-- The magnitude `m 2^ex` is at most the largest code of the type under scale `e` (R140). -/
def blkFits (t : BlkType) (e m : Nat) (ex : Int) : Bool :=
  let k := ex - ((e : Int) - 32) + blkShift t
  let top := (blkGrid t).getD 7 0
  if 0 ≤ k then m * 2 ^ k.toNat ≤ top else m ≤ top * 2 ^ (-k).toNat

/-- The scale of a block of finite values: the least that fits them all, at most 62 (R140). -/
def blkScale (t : BlkType) (xs : List FVal) : Nat :=
  ((List.range 62).find? fun e => xs.all fun x => match x with
    | .fin _ m ex => blkFits t e m ex
    | _ => true).getD 62

/-- The block of 32 values: its scale, 63 where one is NaN or infinite, and its codes (R140). -/
def blkPack (t : BlkType) (mode : RMode) (draws : List Nat) (xs : List FVal) : Nat × List Nat :=
  if xs.all fun x => match x with
      | .fin _ _ _ => true
      | _ => false
  then
    let e := blkScale t xs
    (e, (List.range xs.length).map fun i => match xs.getD i .nan with
      | .fin neg m ex => blkEncode t mode (draws.getD i 0) e neg m ex
      | _ => 0)
  else (63, xs.map fun _ => 0)

/-- The code of a block type in a scale byte (R138). -/
def blkOfCode (c : Nat) : BlkType := (BlkType.ofCode (BitVec.ofNat 2 c)).getD .uni

/-- Eight codes in a word, the first lowest (R368). -/
def packNibbles (cs : List Nat) : Nat := cs.foldr (fun c x => c + 16 * x) 0

/-- The words that a group of lanes receives from VPACK4 (R368). -/
def packWords (t : BlkType) (b : Nat × List Nat) : List Word :=
  ((List.range 4).map fun j => BitVec.ofNat 32 (packNibbles ((b.2.drop (8 * j)).take 8))) ++ [BitVec.ofNat 32 ((BlkType.code t).toNat * 64 + b.1)]

/-- The words of VPACK4 for the group that starts at a lane (R368). -/
def Wave.packGroup (w : Wave) (t : BlkType) (mode : RMode) (a : VReg) (g : Nat) : List Word :=
  let ls := (List.range 32).map fun i => 32 * g + i
  packWords t (blkPack t mode (ls.map w.draw) (ls.map fun l => if w.exec.getLsbD l then Fmt.f32.decode (w.v a l).toNat else .fin false 0 0))

/-- VPACK4: RNE unless HINT.RND; WIDTH at W = 16 (R140, R368). -/
def execVpack4 (p : Bool) (d a : VReg) (t : BlkType) (s : State) : Out :=
  s.onWave fun w =>
    if w.width = 16 then s.trap Cause.width 0
    else
      let mode := w.mode (some .rne)
      let out := (List.range (w.width / 32)).map (w.packGroup t mode a)
      let w' := w.setV d fun l => (out.getD (l / 32) []).getD (l % 32) 0
      .next (s.setCur ((if mode = .sr then w'.drawn else w').step p))

/-- The F32 value of a lane's element of the block in its group (R139, R368). -/
def Wave.unpackLane (w : Wave) (a : VReg) (l : Nat) : Word :=
  let g := l / 32 * 32
  let i := l % 32
  let scale := (w.v a (g + 4)).toNat % 256
  let c := (w.v a (g + i / 8)).toNat / 16 ^ (i % 8) % 16
  BitVec.ofNat 32 (Fmt.f32.round .rne 0 (blkDecode (blkOfCode (scale / 64)) (scale % 64) c))

/-- VUNPK4: each block by the type in its own scale byte; WIDTH at W = 16 (R368). -/
def execVunpk4 (p : Bool) (d a : VReg) (_ : BlkType) (s : State) : Out :=
  s.onWave fun w =>
    if w.width = 16 then s.trap Cause.width 0 else .next (s.setCur ((w.setV d (w.unpackLane a)).step p))

end Sys2Proof.Machine
end

