-- ==== Sys2Proof/Machine/Control.lean ====
section
/-! DEFINITION. The SYS forms but BRK, the hints (R312), the branches (R298, R300, R314, R333, R355), and SPLIT, JOIN and EXIT (R40 to R42). -/

namespace Sys2Proof.Machine

/-! ### SYS -/

/-- NOP (R329). -/
def execNop (p : Bool) (s : State) : Out := s.updWave fun w => w.step p

/-- EXIT: the lanes of EXEC leave; a fragment that is gone holds no barrier back (R38, R307). -/
def execExit (s : State) : Out := s.onWave fun w => .next (((s.setCur w.exitLanes).recheck w.block).blockPins s.issuing)

/-- YIELD: the fragment switches outside a handler, and the partition skips the wave for one cycle after the wait of R92 (R376). -/
def execYield (s : State) : Out :=
  s.updWave fun w =>
    let v := ({ w with pc := w.pc + 4 }.mark .plain true)
    Wave.settle { v with switchDue := v.switchDue || !w.inTrap, skipCycle := true }

/-- TRAP (R357). -/
def execTrap (_ : Bool) (n : BitVec 9) (s : State) : Out := s.trap Cause.trap (n.setWidth 64)

/-- RETT: outside a handler it traps PROT at its own address (R202). -/
def execRett (n : RettMode) (s : State) : Out :=
  s.onWave fun w => if w.inTrap then .next (s.setCur (w.returnFrom n)) else s.trap Cause.prot (w.pc.setWidth 64)

/-- A value placed in a word from a bit on. -/
def placed (x k : Nat) : Word := BitVec.ofNat 32 (x * 2 ^ k)

/-- c0 STATUS (R34). FRAGS counts entries by their state alone, one whose MASK is 0 among them (log 12: DESIGN CHOICE). -/
def Wave.status (w : Wave) : Word :=
  let used := (w.frags.filter fun f => f.state != .free).length
  let held := (w.frags.filter fun f => f.state != .free && f.state != .parent).length
  placed used 10 ||| placed held 6 ||| placed w.part 4 ||| (if w.width = 16 then 0 else if w.width = 32 then 1 else 2)

/-- The value that GETC samples, but for the CLOCK latch (R310). -/
def State.sample (s : State) (w : Wave) (c : CReg) : Word :=
  let b := s.blockOf w
  let l := s.launchOf w
  let d := l.desc
  let hz := s.hzCopy b.core l.func
  let clock := s.cycle b.core
  match c.toNat with
  | 0 => w.status
  | 1 => placed (d.nwaves - 1) 8 ||| BitVec.ofNat 32 w.index
  | 2 => BitVec.ofNat 32 (b.index % d.gridX)
  | 3 => BitVec.ofNat 32 (b.index / d.gridX % d.gridY)
  | 4 => BitVec.ofNat 32 (b.index / d.gridX / d.gridY)
  | 5 => BitVec.ofNat 32 d.gridX
  | 6 => BitVec.ofNat 32 d.gridY
  | 7 => BitVec.ofNat 32 d.gridZ
  | 8 => BitVec.ofNat 32 b.launch
  | 9 => w.rndMode.setWidth 32
  | 10 => BitVec.ofNat 32 w.quantum
  | 11 => hz.setWidth 32
  | 12 => (hz >>> 32).setWidth 32
  | 13 => w.gate
  | 14 => w.wakeTo
  | 15 => w.cause.setWidth 32
  | 16 => w.trapPc.setWidth 32
  | 17 => (w.trapPc >>> 32).setWidth 32
  | 18 => w.trapMask.setWidth 32
  | 19 => (w.trapMask >>> 32).setWidth 32
  | 20 => w.trapAddr.setWidth 32
  | 21 => (w.trapAddr >>> 32).setWidth 32
  | 23 => w.srSeed
  | 24 => BitVec.ofNat 32 clock
  | 25 => w.clockLatch.getD (BitVec.ofNat 32 (clock / 2 ^ 32))
  | 26 => BitVec.ofNat 32 (s.core b.core).now
  | _ => 0

/-- The CLOCK latch after a GETC (R89, R311). -/
def State.latch (s : State) (w : Wave) (c : CReg) : Option Word :=
  if c = 24 then some (BitVec.ofNat 32 (s.cycle (s.coreOf w) / 2 ^ 32)) else if c = 25 then none else w.clockLatch

/-- GETC: sampled at issue, long-class; s0 leaves nothing pending (R310). -/
def execGetc (p : Bool) (r : SReg) (c : CReg) (s : State) : Out :=
  s.updWave fun w =>
    let v := if r = 0 then w else w.later [.s r.toNat (s.sample w c)]
    { v with clockLatch := s.latch w c }.step p

/-- Every lane's generator reseeded (R143). -/
def Wave.reseed (w : Wave) (x : Word) : Wave := { w with srSeed := x, srState := w.perLane (srSeedOf x) }

/-- The rounding mode that a value of c9 stores: 6 and 7 store 0 (R88). -/
def modeOf (x : Word) : BitVec 3 := if 6 ≤ x.toNat % 8 then 0 else x.setWidth 3

/-- A quantum within its limits (R44). -/
def clampQuantum (x : Nat) : Nat := max 8 (min x 4096)

/-- A SETC of c12: a value above HZ asks for a raise, and the operation is outstanding until it completes (R89, R342). -/
def State.setHorizon (s : State) (p : Bool) (w : Wave) (x : Word) : Out :=
  let f := s.funcOf w
  let h : Stamp := x ++ w.hzStaged
  if (s.func f).hz.ult h then
    let s := s.modFunc f fun r => { r with raises := r.raises ++ [Raise.mk h (some s.issuing) none] }
    .next (s.setCur ({ w with pending := w.pending ++ [Pending.mk .raise [] 0 none false 0 0] }.step p))
  else .next (s.setCur (w.step p))

/-- SETC (R341): a register that is not writable traps SETC_RO, and so do c11 and c12 in a launch without HOWN. -/
def execSetc (p : Bool) (r : SReg) (c : CReg) (s : State) : Out :=
  s.onWave fun w =>
    let x := w.s r
    let own := (s.launchOf w).desc.hown
    let put := fun v : Wave => (.next (s.setCur (v.step p)) : Out)
    match c.toNat with
    | 9 => put { w with rndMode := modeOf x }
    | 10 => put { w with quantum := clampQuantum x.toNat }
    | 11 => if own then put { w with hzStaged := x } else s.trap Cause.setcRo (c.setWidth 64)
    | 12 => if own then s.setHorizon p w x else s.trap Cause.setcRo (c.setWidth 64)
    | 13 => put { w with gate := x }
    | 14 => put { w with wakeTo := x }
    | 23 => put (w.reseed x)
    | _ => s.trap Cause.setcRo (c.setWidth 64)

/-- STAMP (R227). -/
def execStamp (p : Bool) (r : SReg) (s : State) : Out := s.updWave fun w => (w.setS64 r w.sf).step p

/-! ### Hints (R312) -/

/-- A hint issues: it joins the pending hints, whose run began with it where there were none (R97, R312). It counts toward the quantum. -/
def Wave.hint (w : Wave) (f : Hints → Hints) : Wave :=
  { w with
    pc := w.pc + 4, hints := { f w.hints with start := some (w.hints.start.getD w.pc) }, retired := w.retired + 1
    qcount := if w.inTrap then w.qcount else w.qcount + 1
    defer := if w.inTrap then deferInTrap .plain w.defer else (deferAfter .plain false false w.defer).1, stall := .none
    marker := false, entering := false }

/-- HINT.IMM (R313). -/
def execHintImm (i : BitVec 21) (s : State) : Out := s.updWave fun w => w.hint fun h => { h with imm := some i }

/-- HINT.ORD (R313). -/
def execHintOrd (o : Order) (c : Scope) (s : State) : Out := s.updWave fun w => w.hint fun h => { h with ord := some (o, c) }

/-- HINT.DEP (R313). -/
def execHintDep (m : BitVec 8) (e : Bool) (d : BitVec 3) (s : State) : Out :=
  s.updWave fun w => w.hint fun h => { h with dep := some (m, if e then some d else none) }

/-- HINT.RND (R313). -/
def execHintRnd (m : RMode) (s : State) : Out := s.updWave fun w => w.hint fun h => { h with rnd := some m }

/-- HINT.OFF (R313). -/
def execHintOff (o : BitVec 21) (s : State) : Out := s.updWave fun w => w.hint fun h => { h with off := some o }

/-! ### Branches -/

/-- A branch is taken (R298). -/
def Wave.taken' (w : Wave) (c : BrCond) (m : MReg) : Bool :=
  match c with
  | .always => true
  | .scc => w.scc
  | .nscc => !w.scc
  | .any => w.m m &&& w.exec != 0
  | .none => w.m m &&& w.exec == 0
  | .all => w.m m &&& w.exec == w.exec
  | .execz => w.exec == 0
  | .execnz => w.exec != 0

/-- BR (R298). -/
def execBr (c : BrCond) (m : MReg) (o : BitVec 18) (s : State) : Out :=
  s.updWave fun w => if w.taken' c m then w.jump .plain (w.target o) else w.step true

/-- JMP (R314). -/
def execJmp (o : BitVec 25) (s : State) : Out := s.updWave fun w => w.jump .plain (w.target o)

/-- The link of CALL, CALLI and TRAMP (R300, R355). -/
def Wave.link (w : Wave) (r : SReg) : Wave := w.setS64 r ((w.pc + 4).setWidth 64)

/-- CALL (R300). -/
def execCall (o : BitVec 25) (s : State) : Out := s.updWave fun w => (w.link 60).jump .call (w.target o)

/-- TRAMP (R355). -/
def execTramp (o : BitVec 25) (s : State) : Out := s.updWave fun w => (w.link 58).jump .tramp (w.target o)

/-- JMPI (R314); of s58 it ends the deferral of a TRAMP (R356). -/
def execJmpi (r : SReg) (s : State) : Out :=
  s.updWave fun w => w.jump (if r = 58 then .jmpi58 else .plain) (w.pairTarget r)

/-- CALLI: the target is read before the link is written (R300). -/
def execCalli (r : SReg) (s : State) : Out := s.updWave fun w => (w.link 60).jump .call (w.pairTarget r)

/-- RET (R333). -/
def execRet (s : State) : Out := s.updWave fun w => w.jump .plain (w.pairTarget 60)

/-! ### SPLIT and JOIN -/

/-- The launch of the issuing wave ends with SPLIT_DEPTH at the word's address (R40, R204). -/
def State.splitDepth (s : State) (w : Wave) : Out :=
  .next (s.endLaunch (s.blockOf w).launch .splitDepth 0 w.pc.toNat (s.blockOf w).index)

/-- A new fragment in an entry (R40). -/
def Wave.newFrag (w : Wave) (st : FragState) (pc : VAddr) (m : Mask) (join : VAddr) (link : Nat) : Frag :=
  { Frag.none with state := st, pc := pc, mask := m, xmask := m, scc := w.scc, rejoin := join, link := link }

/-- The concurrent split: both sides become fragments, and side A is current with SCC unchanged (R40). -/
def Wave.splitBoth (w : Wave) (join : VAddr) (a b : Mask) (i j : Nat) : Wave :=
  let e := w.cur
  let v := w.mark .plain true
  let v := v.modFrag e fun f => { f with state := .parent, pc := join, mask := w.exec, defer := v.defer }
  let v := v.modFrag i fun _ => w.newFrag .live (w.pc + 4) a join e
  let v := v.modFrag j fun _ => w.newFrag .live (w.pc + 8) b join e
  { (v.become i) with switchDue := false }

/-- The serialized split: side B is deferred until A parks or exits (R40). -/
def Wave.splitLate (w : Wave) (join : VAddr) (a b : Mask) (j : Nat) : Wave :=
  let v := w.modFrag w.cur fun f => { f with mask := a }
  let v := v.modFrag j fun _ => w.newFrag .defer (w.pc + 8) b join w.cur
  (v.setExec a).step true

/-- SPLIT (R40). -/
def execSplit (m : MReg) (o : BitVec 22) (s : State) : Out :=
  s.onWave fun w =>
    let a := w.exec &&& w.m m
    let b := w.exec &&& ~~~ w.m m
    if w.inTrap then s.splitDepth w
    else if a = 0 ∨ b = 0 then
      .next (s.setCur ({ w with pc := if a ≠ 0 ∨ w.exec = 0 then w.pc + 4 else w.pc + 8 }.retired' .plain true))
    else match w.freeEntries with
      | i :: j :: _ => .next ((s.setCur (w.splitBoth (w.target o) a b i j)).unmark w [i, j])
      | [j] => .next ((s.setCur (w.splitLate (w.target o) a b j)).unmark w [j])
      | [] => s.splitDepth w

/-- A fragment reaches the join of its serialized split: its EXEC and SCC stay in its entry, which is HELD, and side B runs (R39, R41). -/
def Wave.joinHeld (w : Wave) (p : Bool) (d : Nat) : Wave :=
  let v := (w.mark .plain p).stow
  let v := v.modFrag w.cur fun f => { f with state := .held, mask := w.exec }
  { ((v.modFrag d fun f => { f with state := .live }).become d) with switchDue := false, held := !w.pending.isEmpty }

/-- A fragment reaches its join: it is PARKED, and its parent fuses where it can (R41). -/
def Wave.joinParked (w : Wave) (p : Bool) : Wave :=
  let link := w.frag.link
  let v := w.mark .plain p
  Wave.settle { (v.modFrag w.cur fun f => { f with state := .parked, mask := w.exec }) with switchDue := true, fuseDue := some link }

/-- Parking the current fragment lets its parent fuse: the parent is HELD, or every other child is PARKED (R41, R204). -/
def Wave.fuses (w : Wave) : Bool :=
  let p := w.frag.link
  (w.fragAt p).state == .held ||
    ((w.fragAt p).state == .parent && (w.children p).all fun e => e == w.cur || (w.fragAt e).state == .parked)

/-- JOIN (R41, R204, R315). -/
def execJoin (p : Bool) (s : State) : Out :=
  s.onWave fun w =>
    match (w.children w.cur).find? fun d => (w.fragAt d).state == .defer && (w.fragAt d).rejoin == w.pc with
    | some d => if w.inTrap then s.splitDepth w else .next (((s.setCur (w.joinHeld p d)).recheck w.block).blockPins s.issuing)
    | none =>
      if w.cur ≠ 0 ∧ w.frag.rejoin = w.pc then
        if w.inTrap ∧ !w.fuses then s.splitDepth w else .next (((s.setCur (w.joinParked p)).recheck w.block).blockPins s.issuing)
      else .next (s.setCur (w.step p))

end Sys2Proof.Machine
end

