-- ==== Sys2Proof/Machine/Copy.lean ====
section
/-! DEFINITION. The copy engine: CPY, CPYG and CPYAS at issue (R302, R303, R305, R306), their completion (R304, R233), and TAKE with the
market's answers (R66, R67, R354). -/

namespace Sys2Proof.Machine

/-! ### Issue -/

/-- A wave's word asks for an engine operation of a class: it stalls while the counter is 63 (R87). -/
def State.withCounter (s : State) (cls : EClass) (k : State → Out) : Out :=
  s.onWave fun w => if 63 ≤ w.counter cls then s.stall .counter else k s

/-- The operations issued, with one more of a class: its last 63 are kept, as many as WAITC may except (R191). -/
def noteOp (cls : EClass) (id : Nat) (l : List (EClass × Nat)) : List (EClass × Nat) :=
  (cls, id) :: (l.filter fun x => x.1 == cls).take 62 ++ l.filter fun x => x.1 != cls

/-- An operation is counted on the issuing wave under its number (R87, R191). -/
def Wave.begin (w : Wave) (cls : EClass) (id : Nat) : Wave :=
  { w.setOut cls (w.out cls ++ [id]) with recent := noteOp cls id w.recent }

/-- A copy descriptor, read at issue (R302). -/
structure CopyDesc where
  src : Word64
  dst : Word64
  n : Nat
  notify : Word
  value : Word
  d7 : Word

/-- The descriptor at s[sd .. sd + 7] (R302). -/
def Wave.copyDesc (w : Wave) (sd : SReg) : CopyDesc :=
  ⟨w.s64 sd, w.s64 (sd + 2), (w.s (sd + 4)).toNat, w.s (sd + 5), w.s (sd + 6), w.s (sd + 7)⟩

/-- The notify address, unless none is named (R302). -/
def CopyDesc.notifyAt (d : CopyDesc) : Option Nat := if d.notify = 0xFFFFFFFF then none else some d.notify.toNat

/-- The first misaligned operand: source, destination, n, D7, notify (R303); the table of R302 aligns source and destination of CPYG alone. -/
def CopyDesc.misaligned (d : CopyDesc) (gather : Bool) : Option Word64 :=
  if gather && d.src.toNat % 128 != 0 then some d.src
  else if gather && d.dst.toNat % 128 != 0 then some d.dst
  else if d.n % (if gather then 128 else 4) ≠ 0 then some (BitVec.ofNat 64 d.n)
  else if gather && d.d7.toNat % 4 != 0 then some (d.d7.setWidth 64)
  else match d.notifyAt with
    | some a => if a % 4 ≠ 0 then some (BitVec.ofNat 64 a) else none
    | none => none

/-- The first byte of a scratchpad range beyond the allocation. -/
def beyond (a n alloc : Nat) : Option Word64 := if n ≠ 0 ∧ alloc < a + n then some (BitVec.ofNat 64 (max a alloc)) else none

/-- The scratchpad ranges of a copy: source, destination, index table, notify word (R303). -/
def CopyDesc.ranges (d : CopyDesc) (srcLocal dstLocal gather : Bool) : List (Nat × Nat) :=
  (if srcLocal then [(d.src.toNat, d.n)] else []) ++ (if dstLocal then [(d.dst.toNat, d.n)] else []) ++
    (if gather then [(d.d7.toNat, d.n / 128 * 4)] else []) ++ (match d.notifyAt with
      | some a => [(a, 4)]
      | none => [])

/-- The first range of a list that leaves the allocation. -/
def firstBeyond (alloc : Nat) : List (Nat × Nat) → Option Word64
  | [] => none
  | (a, n) :: r => match beyond a n alloc with
    | some x => some x
    | none => firstBeyond alloc r

/-- The rows of a gather, as virtual addresses (R305). -/
def State.gatherRows (s : State) (w : Wave) (d : CopyDesc) : List Nat :=
  (List.range (d.n / 128)).map fun j => (d.src.toNat + 128 * (s.scratch w).nat (d.d7.toNat + 4 * j) 4) % 2 ^ 52

/-- The global ranges of a copy, as virtual addresses (R302, R305). -/
def CopyOp.ranges (c : CopyOp) : List (Nat × Nat) :=
  (if c.kind = 1 then [] else if c.kind = 3 then c.rows.map fun a => (a, 128) else [(c.src, c.n)]) ++
    if c.kind = 0 ∨ c.kind = 3 then [] else [(c.dst, c.n)]

/-- A copy reads or writes some byte of a physical line. -/
def CopyOp.meets (c : CopyOp) (line : Nat) : Bool :=
  c.map.any fun x => x.page == line / 65536 && c.ranges.any fun r =>
    let va := x.vpage * 65536 + line % 65536
    overlaps va 128 r.1 r.2 || overlaps (va + 2 ^ 52) 128 r.1 r.2

/-- The copy is issued: the lines that it meets drain from the wave's buffer, it counts on C, and it is in flight (R170, R303). -/
def State.startCopy (s : State) (p : Bool) (op : CopyOp) : Out :=
  if s.keepPending s.issuing then s.stall .keep
  else s.withCounter .c fun s =>
    let s := s.drainWhere s.issuing fun l => op.meets l.line
    { s with copies := s.copies ++ [op], nextOp := s.nextOp + 1 }.retire .plain p fun w => w.begin .c op.id

/-- A copy of a kind: `srcLocal` and `dstLocal` say which ends are scratchpad ranges (R302, R303). Of several failing rows of a CPYG the first of the
index table gives the cause (log 26: DESIGN CHOICE). -/
def State.copy (s : State) (i : Instr) (p : Bool) (kind : Nat) (sd : SReg) : Out :=
  s.onWave fun w =>
    let d := w.copyDesc sd
    let gather := kind == 3
    let srcLocal := kind == 1
    let dstLocal := kind == 0 || gather
    let at_ := if kind = 4 then w.s64 (48 + 2 * (d.d7.setWidth 2).setWidth 6) else 0
    match d.misaligned gather with
    | some a => s.trap Cause.misalign a
    | none => match firstBeyond (s.scratch w).size (d.ranges srcLocal dstLocal gather) with
      | some a => s.trap Cause.prot a
      | none =>
        let src := d.src.toNat % 2 ^ 52
        let dst := d.dst.toNat % 2 ^ 52
        let rows := if gather then s.gatherRows w d else []
        let reads := if srcLocal then []
          else if gather then rows.map fun a => s.checkAt w .load 0 a
          else if kind = 4 then (s.checkRange w .asof src d.n).map (s.checkAsof w at_)
          else s.checkRange w .load src d.n
        let writes := if dstLocal then [] else s.checkRange w .store dst d.n
        s.afterRange i w (reads ++ writes) fun s as =>
          let keep := (passed writes).any fun a => a.leaf.keep
          s.startCopy p ⟨s.nextOp, s.issuing, w.block, kind, if srcLocal then d.src.toNat else src, if dstLocal then d.dst.toNat else dst,
            d.n, d.notify.toNat, d.value, rows, at_, mapOf as, keep, w.sf, 0, 0⟩

/-- CPY_G2S (R302). -/
def execCpyG2s (p : Bool) (d : SReg) (s : State) : Out := s.copy (.cpyG2s p d) p 0 d

/-- CPY_S2G (R302). -/
def execCpyS2g (p : Bool) (d : SReg) (s : State) : Out := s.copy (.cpyS2g p d) p 1 d

/-- CPY_G2G (R302). -/
def execCpyG2g (p : Bool) (d : SReg) (s : State) : Out := s.copy (.cpyG2g p d) p 2 d

/-- CPYG (R305). -/
def execCpyg (p : Bool) (d : SReg) (s : State) : Out := s.copy (.cpyg p d) p 3 d

/-- CPYAS (R306, R233). -/
def execCpyas (p : Bool) (d : SReg) (s : State) : Out := s.copy (.cpyas p d) p 4 d

/-! ### Engine traffic at the homes (R304) -/

/-- The engine reads some physical addresses through the keys of its pages, after the flushes of their lines, those among them that wait for records
included (R173, R231): the state after it, the bytes, and the largest stamp of their lines. -/
def State.engineRead (s : State) (f : Nat) (m : List PageUse) (as : List Nat) : State × List Byte × Stamp :=
  let lines := distinct (as.map lineOf)
  let s := lines.foldl (fun s l => s.touch f l .dflt) s
  (s, as.map fun a => s.byteAfter (fun r => r.kind == .flush) (keyIn m (a / 65536)) a, lines.foldl (fun x l => maxStamp x (s.valueStamp l)) 0)

/-- One store event of the engine for each line that it writes (R304, R379); the largest stamp is handed on. -/
def State.engineEvents (f : Nat) (m : List PageUse) (floor : Stamp) (bs : List (Nat × Byte)) : List Nat → State → State × Stamp
  | [], s => (s, 0)
  | l :: r, s =>
    let x := s.homeStore ⟨0, none, f, l, bs.filter fun b => lineOf b.1 == l, floor, keyIn m (l / 65536), .dflt, [], .store, .other⟩ none
    let y := State.engineEvents f m floor bs r x.1
    (y.1, maxStamp x.2 y.2)

/-- The engine writes bytes at their homes, and the copies of the words in the core's L1 and its tower's remote cache become invalid
(R304). -/
def State.engineWrite (s : State) (core f : Nat) (m : List PageUse) (floor : Stamp) (bs : List (Nat × Byte)) : State × Stamp :=
  let as := bs.map fun b => b.1
  let x := State.engineEvents f m floor bs (distinct (as.map lineOf)) s
  ((x.1.dropL1 core as).dropRemote (towerOf core) as, x.2)

/-- The engine's reads and writes can be performed: none meets a pin, no flush waits on their lines, but for a read where it waits for a record, and
the written lines have room for their records (R173, R187, R231). The homes recall the lines read, and the core's tower flushes those written (R174,
R304): the state after that comes with the answer. -/
def State.engineReady (s : State) (core : Nat) (reads writes : List Nat) : State × Bool :=
  let rl := distinct (reads.map lineOf)
  let wl := distinct (writes.map lineOf)
  let s := rl.foldl (fun s l => s.recall l) s
  let s := wl.foldl (fun s l => (s.flushRemote (towerOf core) l).flushLine l) s
  (s, !s.pinned (reads ++ writes) && !(s.reqs.any fun r => r.kind != .store &&
    (wl.contains r.line || (rl.contains r.line && !s.awaitsRecord r.line))) && !s.logFull wl)

/-! ### Completion -/

/-- The function of a copy. -/
def State.copyFunc (s : State) (c : CopyOp) : Nat := (s.launch (s.block c.block).launch).func

/-- The physical addresses of some bytes of a global range, from the `i`-th on, through a copy's page map. -/
def CopyOp.phys (c : CopyOp) (a i k : Nat) : List Nat := (List.range k).map fun j => mapAddr c.map ((a + i + j) % 2 ^ 52)

/-- The physical addresses from which a copy takes `k` bytes after those moved. -/
def CopyOp.sources (c : CopyOp) (k : Nat) : List Nat :=
  if c.kind = 1 then []
  else if c.kind = 3 then c.rows.flatMap fun a => (List.range 128).map fun j => mapAddr c.map ((a + j) % 2 ^ 52)
  else c.phys c.src c.moved k

/-- The physical addresses to which a copy moves `k` bytes after those moved. -/
def CopyOp.dests (c : CopyOp) (k : Nat) : List Nat := if c.kind = 0 ∨ c.kind = 3 then [] else c.phys c.dst c.moved k

/-- Bytes as of a stamp through the keys of their pages, with the largest stamp of the events selected (R163, R224, R306). -/
def State.asofBytes (s : State) (at_ : Stamp) (m : List PageUse) (as : List Nat) : List Byte × Stamp :=
  as.foldr (fun a r => let x := s.asofNat at_ (keyIn m (a / 65536)) a 1
    (BitVec.ofNat 8 x.1 :: r.1, maxStamp x.2 r.2)) ([], 0)

/-- Addresses with their bytes. -/
def zipBytes : List Nat → List Byte → List (Nat × Byte)
  | a :: r, b :: t => (a, b) :: zipBytes r t
  | _, _ => []

/-- The next `k` bytes of a copy, as they are read: the state after it, the bytes, and their largest stamp (R304, R306). -/
def State.copyRead (s : State) (c : CopyOp) (k : Nat) : State × List Byte × Stamp :=
  if c.kind = 1 then (s, bytesAt (s.block c.block).scratch.get (c.src + c.moved) k, 0)
  else if c.kind = 4 then
    let as := c.sources k
    let s := s.asofRecall (s.copyFunc c) (distinct (as.map lineOf))
    (s, s.asofBytes c.stamp c.map as)
  else s.engineRead (s.copyFunc c) c.map (c.sources k)

/-- A copy moves its next `k` bytes; the writes of a CPYAS carry a floor of at least S + 4 (R233, R304, R306). -/
def State.moveBytes (s : State) (c : CopyOp) (k : Nat) : State × CopyOp :=
  let x := s.copyRead c k
  let floor := if c.kind = 4 then maxStamp c.sf (c.stamp + 4) else c.sf
  let y : State × Stamp :=
    if c.kind = 0 ∨ c.kind = 3 then (x.1.putScratch c.block (placeBytes (c.dst + c.moved) x.2.1), 0)
    else x.1.engineWrite (s.block c.block).core (s.copyFunc c) c.map floor (zipBytes (c.dests k) x.2.1)
  (y.1, { c with moved := c.moved + k, top := maxStamp c.top (maxStamp x.2.2 y.2) })

/-- A copy whose bytes have moved writes its notify value and completes: C falls, and SF rises to its largest stamp (R304). -/
def State.endCopy (s : State) (c : CopyOp) : State :=
  let s := if c.notify = 0xFFFFFFFF then s else s.putScratch c.block (leBytes c.notify c.value.toNat 4)
  ({ s with copies := s.copies.filter fun d => d.id != c.id }.modWave c.wave fun w =>
    (w.raise c.top).opDone .c c.id).count (s.copyFunc c) 0x0A (if c.kind = 4 then (c.n + 127) / 128 else 0)

/-- The next `k` bytes of a copy can move now; the state after the recalls comes with the answer. -/
def State.copyReady (s : State) (c : CopyOp) (k : Nat) : State × Bool :=
  let x := s.engineReady (s.block c.block).core (c.sources k) (c.dests k)
  (x.1, x.2 && (c.kind != 4 || x.1.asofReady c.stamp (c.sources k)))

/-- The bytes of a copy that can move now: all that are left, or those of the next line written where its records must wait for room (R231). -/
def State.copyPart (s : State) (c : CopyOp) : Option Nat :=
  let all := c.n - c.moved
  let line := min all (128 - (c.dst + c.moved) % 128)
  if (s.copyReady c all).2 then some all
  else if c.keep && (s.copyReady c line).2 then some line
  else none

/-- COPY_COMPLETE (R304): a copy whose accesses must wait stays in flight. -/
def execCopyComplete (op : Nat) (s : State) : Out :=
  match s.copies.find? fun c => c.id == op with
  | none => s.done
  | some c => match s.copyPart c with
    | none => (s.copyReady c (c.n - c.moved)).1.done
    | some k =>
      let x := (s.copyReady c k).1.moveBytes c k
      if x.2.moved < c.n then ({ x.1 with copies := x.1.copies.map fun (d : CopyOp) => if d.id = c.id then x.2 else d }).done
      else (x.1.endCopy x.2).done

/-! ### TAKE and the market -/

/-- TAKE (R67, R354): the request reaches the market of the launch in issue order. -/
def execTake (p : Bool) (a : SReg) (s : State) : Out :=
  s.onWave fun w =>
    match formScratch ((w.s a).setWidth 64) 8 (s.scratch w).size with
    | .error (c, x) => s.trap c x
    | .ok x => s.withCounter .d fun s =>
      ({ s with nextOp := s.nextOp + 1 }.modLaunch (s.blockOf w).launch fun l => { l with
        takes := l.takes ++ [TakeReq.mk s.issuing x s.nextOp] }).retire .plain p fun w => w.begin .d s.nextOp

/-- The market's tile of a number: word 0 of its answer (R66, R67). -/
def marketWord (d : Desc) (k : Nat) : Nat :=
  let y := k / d.mkx
  let x := k % d.mkx
  y * 65536 + if d.morder = 2 ∧ y % 2 = 1 then d.mkx - 1 - x else x

/-- The number of tiles of a launch's market; 0 without a market (R66, R354). -/
def marketSize (d : Desc) : Nat := if d.morder = 0 then 0 else d.mkx * d.mky

/-- An answer of the market to the oldest request (R66, R67). -/
def State.answer (s : State) (li : Nat) : State :=
  let l := s.launch li
  match l.takes with
  | [] => s
  | q :: r =>
    let n := marketSize l.desc
    let more := l.nextTile < n
    let w0 := if more then marketWord l.desc l.nextTile else 0xFFFFFFFF
    let w1 := if more then l.nextTile + 1 else n + 1
    let s := s.modLaunch li fun l => { l with takes := r, nextTile := if more then l.nextTile + 1 else l.nextTile }
    (s.putScratch (s.wave q.wave).block (leBytes q.addr w0 4 ++ leBytes (q.addr + 4) w1 4)).modWave q.wave fun w =>
      w.opDone .d q.op

/-- MARKET_ANSWER (R67). -/
def execMarketAnswer (li : Nat) (s : State) : Out := (s.answer li).done

end Sys2Proof.Machine
end

