-- ==== Sys2Proof/Machine/CrossLane.lean ====
section
/-! DEFINITION. The cross-lane forms (R361, R362). A form may read any lane 0 to W - 1; it writes only lanes of EXEC. -/

namespace Sys2Proof.Machine

/-- The F32 operation of a fold on words (R362). -/
def redF32 (f : Nat → Nat → Nat) (a x : Word) : Word := BitVec.ofNat 32 (f a.toNat x.toNat)

/-- One step of a fold (R362). -/
def redOp (o : RedOp) (a x : Word) : Word :=
  match o with
  | .addI32 => a + x
  | .minI32 => minS a x
  | .maxI32 => maxS a x
  | .addF32 => redF32 (Fmt.f32.add .rne) a x
  | .minF32 => redF32 (Fmt.f32.pick false) a x
  | .maxF32 => redF32 (Fmt.f32.pick true) a x
  | .and => a &&& x
  | .or => a ||| x

/-- The start value of a fold: an F32 operation starts a NaN as the canonical one (R362). -/
def redStart (o : RedOp) (a : Word) : Word :=
  match o with
  | .addF32 | .minF32 | .maxF32 => if Fmt.f32.decode a.toNat = .nan then 0x7FC00000 else a
  | .addI32 | .minI32 | .maxI32 | .and | .or => a

/-- The fold of a list from its first value (R362). -/
def redFold (o : RedOp) : List Word → Word
  | [] => 0
  | x :: r => r.foldl (redOp o) (redStart o x)

/-- VSHFL (R361). -/
def execVshfl (p : Bool) (d a b : VReg) (s : State) : Out := s.longV p d fun w l => w.v a ((w.v b l).toNat % w.width)

/-- VBCAST (R361). -/
def execVbcast (p : Bool) (d a : VReg) (k : BitVec 7) (s : State) : Out := s.longV p d fun w _ => w.v a (k.toNat % w.width)

/-- VREADL: a destination of s0 leaves nothing pending (R91, R361). -/
def execVreadl (p : Bool) (r : SReg) (a : VReg) (k : BitVec 7) (s : State) : Out :=
  s.updWave fun w => (if r = 0 then w else w.later [.s r.toNat (w.v a (k.toNat % w.width))]).step p

/-- VWRITEL: the lane is written where EXEC holds it (R361). -/
def execVwritel (p : Bool) (d : VReg) (r : SReg) (k : BitVec 7) (s : State) : Out :=
  s.updWave fun w =>
    (w.later [.v d.toNat (w.exec &&& 1 <<< (k.toNat % w.width)) (w.perLane fun _ => w.s r)]).step p

/-- VRED: every lane of EXEC receives the fold over the lanes of EXEC (R361). -/
def execVred (p : Bool) (d a : VReg) (o : RedOp) (s : State) : Out :=
  s.longV p d fun w _ => redFold o (w.active.map (w.v a))

/-- VSCAN: each lane of EXEC receives the fold up to itself (R361). -/
def execVscan (p : Bool) (d a : VReg) (o : RedOp) (s : State) : Out :=
  s.longV p d fun w l => redFold o ((w.active.filter fun k => k ≤ l).map (w.v a))

/-- VLANE: short-class (R361). -/
def execVlane (p : Bool) (d : VReg) (s : State) : Out := s.putV p d fun _ l => BitVec.ofNat 32 l

end Sys2Proof.Machine
end

