-- ==== Sys2Proof/WellFormed.lean ====
section
/-! DEFINITION. Well-formed instructions: the rules of R84, R94 and R104 to R117 that the types of `Syntax` do not already
impose. `codesOk` breaks as RESERVED, `fieldsOk` as FIELD and `aligned` as ALIGN (R98, R102). -/

namespace Sys2Proof

/-- An even register number (R84). -/
def evenReg {n : Nat} (r : BitVec n) : Bool := r.toNat % 2 == 0
/-- A register number that is a multiple of `k` (R84). -/
def multReg {n : Nat} (k : Nat) (r : BitVec n) : Bool := r.toNat % k == 0

/-- A 64-bit element type, whose register is even (R110). -/
def CvtType.wide : CvtType → Bool
  | .i64 | .ui64 | .f64 => true
  | _ => false

/-- The register rule of a vector memory form's data by its size (R112). -/
def MSize.regOk (z : MSize) (v : VReg) : Bool :=
  match z with
  | .b64 => evenReg v
  | .b128 => multReg 4 v
  | _ => true

/-- Sizes legal on a store: S8 and S16 are reserved (R112). -/
def MSize.storeOk : MSize → Bool
  | .s8 | .s16 => false
  | _ => true

/-- The register rule of an atomic's operands (R113). -/
def AtomOp.regOk (a : AtomOp) (v : VReg) : Bool :=
  match a with
  | .cas | .add64 | .swap64 | .fadd64 => evenReg v
  | .cas64 => multReg 4 v
  | _ => true

/-- Types that structured sparsity accepts (R115). -/
def MType.sparseOk : MType → Bool
  | .f64 | .f32 => false
  | _ => true

/-- Legal pairs of VCMP (R108). -/
def vcmpOk (c : VCond) (t : VType) : Bool :=
  match t, c with
  | .i32, .ord | .i32, .unord | .i64, .ord | .i64, .unord => false
  | .i32, _ | .i64, _ => true
  | _, .ult | _, .ule | _, .ugt | _, .uge => false
  | _, _ => true

/-- Every code holds a value legal for its form (R102, R108, R110, R112, R115). -/
def Instr.codesOk : Instr → Bool
  | .vcmp _ _ _ _ c t => vcmpOk c t
  | .vexp2 _ _ _ t | .vlog2 _ _ _ t | .vsin _ _ _ t | .vcos _ _ _ t | .vtanh _ _ _ t => t != .f64
  | .vcvt _ _ _ t u _ _ => t != u
  | .st _ _ _ _ z _ | .sts _ _ _ _ z _ | .stc _ _ _ _ z _ => z.storeOk
  | .mma _ _ _ t _ _ s => !s || t.sparseOk
  | .ldstat _ _ _ t m _ => !m || t.sparseOk
  | _ => true

/-- Fields that a form leaves unused under its other fields are zero (R105, R115, R312). -/
def Instr.fieldsOk : Instr → Bool
  | .hintDep _ e s => e || s == 0
  | .br c m _ => match c with | .any | .none | .all => true | _ => m == 0
  | .ldstat _ _ _ _ m s => m || s == 0
  | _ => true

/-- The register rules of R84 and of the form (R106 to R117). -/
def Instr.aligned : Instr → Bool
  | .stamp _ s => evenReg s
  | .jmpi s | .calli s => evenReg s
  | .sadd64 _ d a b | .ssub64 _ d a b => evenReg d && evenReg a && evenReg b
  | .scmp64 _ a b _ => evenReg a && evenReg b
  | .msave _ _ s | .mload _ _ s => evenReg s
  | .vcmp _ _ a b _ t => match t with | .f64 | .i64 => evenReg a && evenReg b | _ => true
  | .vadd64 _ d a b | .vsub64 _ d a b => evenReg d && evenReg a && evenReg b
  | .vmulw _ d _ _ => evenReg d
  | .vfadd _ k d a b => k != .f64 || (evenReg d && evenReg a && evenReg b)
  | .vfsub _ k d a b => k != .f64 || (evenReg d && evenReg a && evenReg b)
  | .vfmul _ k d a b => k != .f64 || (evenReg d && evenReg a && evenReg b)
  | .vfma _ k d a b => k != .f64 || (evenReg d && evenReg a && evenReg b)
  | .vfmin _ k d a b => k != .f64 || (evenReg d && evenReg a && evenReg b)
  | .vfmax _ k d a b => k != .f64 || (evenReg d && evenReg a && evenReg b)
  | .vfcps _ k d a b => k != .f64 || (evenReg d && evenReg a && evenReg b)
  | .vfdiv _ k d a b => k != .f64 || (evenReg d && evenReg a && evenReg b)
  | .vfabs _ k d a => k != .f64 || (evenReg d && evenReg a)
  | .vfneg _ k d a => k != .f64 || (evenReg d && evenReg a)
  | .vfrnd _ k d a => k != .f64 || (evenReg d && evenReg a)
  | .vfaddS _ d a s t => t != .f64 || (evenReg d && evenReg a && evenReg s)
  | .vfsubS _ d a s t => t != .f64 || (evenReg d && evenReg a && evenReg s)
  | .vfmulS _ d a s t => t != .f64 || (evenReg d && evenReg a && evenReg s)
  | .vfmaS _ d a s t => t != .f64 || (evenReg d && evenReg a && evenReg s)
  | .vfminS _ d a s t => t != .f64 || (evenReg d && evenReg a && evenReg s)
  | .vfmaxS _ d a s t => t != .f64 || (evenReg d && evenReg a && evenReg s)
  | .vrcp _ d a t | .vrsq _ d a t | .vsqrt _ d a t => t != .f64 || (evenReg d && evenReg a)
  | .vcvt _ d a t u _ _ => (!t.wide || evenReg d) && (!u.wide || evenReg a)
  | .ld _ v s _ z _ | .lds _ v s _ z _ | .st _ v s _ z _ | .sts _ v s _ z _ => evenReg s && z.regOk v
  | .ldas _ v s _ z _ | .stc _ v s _ z _ => evenReg s && z.regOk v
  | .sld _ d s _ z | .sst _ d s _ z => evenReg s && (z != .b64 || evenReg d)
  | .atom _ v s _ a | .atoms _ v s _ a => evenReg s && a.regOk v
  | .lr _ v s _ z | .sc _ v s _ z => evenReg s && (z != .b64 || evenReg v)
  | .pref _ s _ _ _ => evenReg s
  | .waita _ a _ _ sp => sp != .global || evenReg a
  | .waitbit _ b i => evenReg b && evenReg i
  | .cpyG2s _ d | .cpyS2g _ d | .cpyG2g _ d | .cpyg _ d | .cpyas _ d => multReg 8 d
  | .mma _ z _ t _ _ _ => t != .f64 || evenReg z
  | .rmma _ _ a _ _ _ _ => evenReg a
  | .zld _ _ s | .zst _ _ s => evenReg s
  | .rank _ a n _ d _ _ _ => multReg (2 ^ n.code.toNat) a && evenReg d
  | _ => true

/-- A well-formed instruction: the decoder gives it from its encoding (R102). -/
def Instr.wf (i : Instr) : Bool := i.codesOk && i.fieldsOk && i.aligned

end Sys2Proof
end

