-- ==== Sys2Proof/Decode.lean ====
section
/-! DEFINITION. The decoder of R102 to R117, total on any word and any bytes: it names the reason of R98 for which a word
is not an instruction. After it, the encoder, written from the same format tables of R83. -/

namespace Sys2Proof

/-- The `n`-bit field of a word whose lowest bit is `lo` (R3). -/
def field (w : Word) (lo n : Nat) : BitVec n := BitVec.ofNat n (w.toNat / 2 ^ lo)

/-- Bit `k` of a word (R3). -/
def bit (w : Word) (k : Nat) : Bool := w.toNat / 2 ^ k % 2 == 1

/-- Every listed field (lowest bit, width) of a word is zero. -/
def allZero (w : Word) (fs : List (Nat × Nat)) : Bool := fs.all fun f => w.toNat / 2 ^ f.1 % 2 ^ f.2 == 0

/-- Why a word is not an instruction, or a page fails the scanner (R98). -/
inductive Reason where
  | reserved | field | align | hazard | park | length | pageend | hint
  deriving DecidableEq, Repr, Inhabited

/-- The reason codes of R98. -/
def Reason.code : Reason → BitVec 4
  | .reserved => 1 | .field => 2 | .align => 3 | .hazard => 4 | .park => 5 | .length => 6 | .pageend => 7 | .hint => 8

/-- The P column of R103. -/
inductive PRule where
  | either | one | zero
  deriving DecidableEq, Repr, Inhabited

/-- The forms of MAJ 0x00 by their code fields (BRK, EXIT, GETC, JOIN, …; R83, R103). -/
def parseMaj00 (word : Word) : Option Instr :=
  match (field word 0 4).toNat with
  | 0 => some (.nop (bit word 31))
  | 1 => some (.exit)
  | 2 => some (.yield)
  | 3 => some (.brk (bit word 31) (field word 4 9))
  | 4 => some (.trap (bit word 31) (field word 4 9))
  | 5 => (RettMode.ofCode (field word 4 9)).bind fun n => some (.rett n)
  | 6 => some (.getc (bit word 31) (field word 19 6) (field word 13 6))
  | 7 => some (.setc (bit word 31) (field word 19 6) (field word 13 6))
  | 8 => some (.stamp (bit word 31) (field word 19 6))
  | 9 => some (.join (bit word 31))
  | _ => none

/-- The forms of MAJ 0x01 by their code fields (HINT_DEP, HINT_IMM, HINT_OFF, HINT_ORD, …; R83, R103). -/
def parseMaj01 (word : Word) : Option Instr :=
  match (field word 21 4).toNat with
  | 0 => some (.hintImm (field word 0 21))
  | 1 => (Order.ofCode (field word 19 2)).bind fun o => (Scope.ofCode (field word 16 3)).bind fun s => some (.hintOrd o s)
  | 2 => some (.hintDep (field word 13 8) (bit word 12) (field word 9 3))
  | 3 => (RMode.ofCode (field word 18 3)).bind fun m => some (.hintRnd m)
  | 4 => some (.hintOff (field word 0 21))
  | _ => none

/-- The forms of MAJ 0x02 by their code fields (BR; R83, R103). -/
def parseMaj02 (word : Word) : Option Instr :=
  (BrCond.ofCode (field word 21 4)).bind fun c1 => some (.br c1 (field word 18 3) (field word 0 18))

/-- The forms of MAJ 0x03 by their code fields (JMP; R83, R103). -/
def parseMaj03 (word : Word) : Option Instr :=
  some (.jmp (field word 0 25))

/-- The forms of MAJ 0x04 by their code fields (CALL; R83, R103). -/
def parseMaj04 (word : Word) : Option Instr :=
  some (.call (field word 0 25))

/-- The forms of MAJ 0x05 by their code fields (TRAMP; R83, R103). -/
def parseMaj05 (word : Word) : Option Instr :=
  some (.tramp (field word 0 25))

/-- The forms of MAJ 0x06 by their code fields (CALLI, JMPI, RET; R83, R103). -/
def parseMaj06 (word : Word) : Option Instr :=
  match (field word 16 3).toNat with
  | 0 => some (.jmpi (field word 19 6))
  | 1 => some (.calli (field word 19 6))
  | 2 => some (.ret)
  | _ => none

/-- The forms of MAJ 0x07 by their code fields (SPLIT; R83, R103). -/
def parseMaj07 (word : Word) : Option Instr :=
  some (.split (field word 22 3) (field word 0 22))

/-- The forms of MAJ 0x08 by their code fields (FENCE; R83, R103). -/
def parseMaj08 (word : Word) : Option Instr :=
  (Scope.ofCode (field word 6 3)).bind fun c1 => some (.fence (bit word 31) (field word 17 8) (field word 9 8) c1)

/-- The forms of MAJ 0x09 by their code fields (SADD, SADD64, SAND, SANDN, …; R83, R103). -/
def parseMaj09 (word : Word) : Option Instr :=
  match (field word 0 7).toNat with
  | 0 => some (.sadd (bit word 31) (field word 19 6) (field word 13 6) (field word 7 6))
  | 1 => some (.ssub (bit word 31) (field word 19 6) (field word 13 6) (field word 7 6))
  | 2 => some (.smul (bit word 31) (field word 19 6) (field word 13 6) (field word 7 6))
  | 3 => some (.smulh (bit word 31) (field word 19 6) (field word 13 6) (field word 7 6))
  | 4 => some (.smulhu (bit word 31) (field word 19 6) (field word 13 6) (field word 7 6))
  | 5 => some (.sand (bit word 31) (field word 19 6) (field word 13 6) (field word 7 6))
  | 6 => some (.sor (bit word 31) (field word 19 6) (field word 13 6) (field word 7 6))
  | 7 => some (.sxor (bit word 31) (field word 19 6) (field word 13 6) (field word 7 6))
  | 8 => some (.sandn (bit word 31) (field word 19 6) (field word 13 6) (field word 7 6))
  | 9 => some (.sshl (bit word 31) (field word 19 6) (field word 13 6) (field word 7 6))
  | 10 => some (.sshr (bit word 31) (field word 19 6) (field word 13 6) (field word 7 6))
  | 11 => some (.ssra (bit word 31) (field word 19 6) (field word 13 6) (field word 7 6))
  | 12 => some (.smin (bit word 31) (field word 19 6) (field word 13 6) (field word 7 6))
  | 13 => some (.smax (bit word 31) (field word 19 6) (field word 13 6) (field word 7 6))
  | 14 => some (.sumin (bit word 31) (field word 19 6) (field word 13 6) (field word 7 6))
  | 15 => some (.sumax (bit word 31) (field word 19 6) (field word 13 6) (field word 7 6))
  | 16 => some (.sadd64 (bit word 31) (field word 19 6) (field word 13 6) (field word 7 6))
  | 17 => some (.ssub64 (bit word 31) (field word 19 6) (field word 13 6) (field word 7 6))
  | 18 => some (.smov (bit word 31) (field word 19 6) (field word 13 6))
  | 19 => some (.ssel (bit word 31) (field word 19 6) (field word 13 6) (field word 7 6))
  | 20 => some (.spopc (bit word 31) (field word 19 6) (field word 13 6))
  | 21 => some (.sclz (bit word 31) (field word 19 6) (field word 13 6))
  | _ => none

/-- The forms of MAJ 0x0A by their code fields (SCMP, SCMP64; R83, R103). -/
def parseMaj0A (word : Word) : Option Instr :=
  match (field word 4 3).toNat with
  | 0 => (Cond.ofCode (field word 0 4)).bind fun c1 => some (.scmp (bit word 31) (field word 13 6) (field word 7 6) c1)
  | 1 => (Cond.ofCode (field word 0 4)).bind fun c1 => some (.scmp64 (bit word 31) (field word 13 6) (field word 7 6) c1)
  | _ => none

/-- The forms of MAJ 0x0B by their code fields (SADDI, SANDI, SORI, SSHLI, …; R83, R103). -/
def parseMaj0B (word : Word) : Option Instr :=
  match (field word 10 3).toNat with
  | 0 => some (.saddi (bit word 31) (field word 19 6) (field word 13 6) (field word 0 10))
  | 1 => some (.sandi (bit word 31) (field word 19 6) (field word 13 6) (field word 0 10))
  | 2 => some (.sori (bit word 31) (field word 19 6) (field word 13 6) (field word 0 10))
  | 3 => some (.sxori (bit word 31) (field word 19 6) (field word 13 6) (field word 0 10))
  | 4 => some (.sshli (bit word 31) (field word 19 6) (field word 13 6) (field word 0 10))
  | 5 => some (.sshri (bit word 31) (field word 19 6) (field word 13 6) (field word 0 10))
  | 6 => some (.ssrai (bit word 31) (field word 19 6) (field word 13 6) (field word 0 10))
  | _ => none

/-- The forms of MAJ 0x0C by their code fields (SLI; R83, R103). -/
def parseMaj0C (word : Word) : Option Instr :=
  some (.sli (bit word 31) (field word 19 6) (field word 0 19))

/-- The forms of MAJ 0x0D by their code fields (SLUI; R83, R103). -/
def parseMaj0D (word : Word) : Option Instr :=
  some (.slui (bit word 31) (field word 19 6) (field word 6 13))

/-- The forms of MAJ 0x0E by their code fields (MAND, MANDN, MFF1, MLOAD, …; R83, R103). -/
def parseMaj0E (word : Word) : Option Instr :=
  match (field word 0 4).toNat with
  | 0 => some (.mand (bit word 31) (field word 22 3) (field word 19 3) (field word 16 3))
  | 1 => some (.mor (bit word 31) (field word 22 3) (field word 19 3) (field word 16 3))
  | 2 => some (.mxor (bit word 31) (field word 22 3) (field word 19 3) (field word 16 3))
  | 3 => some (.mandn (bit word 31) (field word 22 3) (field word 19 3) (field word 16 3))
  | 4 => some (.mnot (bit word 31) (field word 22 3) (field word 19 3))
  | 5 => some (.mmov (bit word 31) (field word 22 3) (field word 19 3))
  | 6 => some (.mpop (bit word 31) (field word 19 3) (field word 10 6))
  | 7 => some (.mff1 (bit word 31) (field word 19 3) (field word 10 6))
  | 8 => some (.msave (bit word 31) (field word 19 3) (field word 10 6))
  | 9 => some (.mload (bit word 31) (field word 22 3) (field word 10 6))
  | 10 => some (.msetw (bit word 31) (field word 22 3))
  | _ => none

/-- The forms of MAJ 0x0F by their code fields (VCMP; R83, R103). -/
def parseMaj0F (word : Word) : Option Instr :=
  (VCond.ofCode (field word 4 4)).bind fun c1 => (VType.ofCode (field word 0 4)).bind fun t => some (.vcmp (bit word 31) (field word 22 3) (field word 15 7) (field word 8 7) c1 t)

/-- The forms of MAJ 0x10 by their code fields (VADD, VAND, VMAD, VMAX, …; R83, R103). -/
def parseMaj10 (word : Word) : Option Instr :=
  match (field word 0 4).toNat with
  | 0 => some (.vadd (bit word 31) (field word 18 7) (field word 11 7) (field word 4 7))
  | 1 => some (.vsub (bit word 31) (field word 18 7) (field word 11 7) (field word 4 7))
  | 2 => some (.vmul (bit word 31) (field word 18 7) (field word 11 7) (field word 4 7))
  | 3 => some (.vmulh (bit word 31) (field word 18 7) (field word 11 7) (field word 4 7))
  | 4 => some (.vmulhu (bit word 31) (field word 18 7) (field word 11 7) (field word 4 7))
  | 5 => some (.vmad (bit word 31) (field word 18 7) (field word 11 7) (field word 4 7))
  | 6 => some (.vand (bit word 31) (field word 18 7) (field word 11 7) (field word 4 7))
  | 7 => some (.vor (bit word 31) (field word 18 7) (field word 11 7) (field word 4 7))
  | 8 => some (.vxor (bit word 31) (field word 18 7) (field word 11 7) (field word 4 7))
  | 9 => some (.vshl (bit word 31) (field word 18 7) (field word 11 7) (field word 4 7))
  | 10 => some (.vshr (bit word 31) (field word 18 7) (field word 11 7) (field word 4 7))
  | 11 => some (.vsra (bit word 31) (field word 18 7) (field word 11 7) (field word 4 7))
  | 12 => some (.vmin (bit word 31) (field word 18 7) (field word 11 7) (field word 4 7))
  | 13 => some (.vmax (bit word 31) (field word 18 7) (field word 11 7) (field word 4 7))
  | 14 => some (.vumin (bit word 31) (field word 18 7) (field word 11 7) (field word 4 7))
  | 15 => some (.vumax (bit word 31) (field word 18 7) (field word 11 7) (field word 4 7))
  | _ => none

/-- The forms of MAJ 0x11 by their code fields (VABS, VADD64, VBFE, VBFI, …; R83, R103). -/
def parseMaj11 (word : Word) : Option Instr :=
  match (field word 0 4).toNat with
  | 0 => some (.vadd64 (bit word 31) (field word 18 7) (field word 11 7) (field word 4 7))
  | 1 => some (.vsub64 (bit word 31) (field word 18 7) (field word 11 7) (field word 4 7))
  | 2 => some (.vmulw (bit word 31) (field word 18 7) (field word 11 7) (field word 4 7))
  | 3 => some (.vabs (bit word 31) (field word 18 7) (field word 11 7))
  | 4 => some (.vnot (bit word 31) (field word 18 7) (field word 11 7))
  | 5 => some (.vmov (bit word 31) (field word 18 7) (field word 11 7))
  | 6 => some (.vpopc (bit word 31) (field word 18 7) (field word 11 7))
  | 7 => some (.vclz (bit word 31) (field word 18 7) (field word 11 7))
  | 8 => some (.vbrev (bit word 31) (field word 18 7) (field word 11 7))
  | 9 => some (.vbfe (bit word 31) (field word 18 7) (field word 11 7) (field word 4 7))
  | 10 => some (.vbfi (bit word 31) (field word 18 7) (field word 11 7) (field word 4 7))
  | _ => none

/-- The forms of MAJ 0x12 by their code fields (VADD_S, VAND_S, VMAD_S, VMAX_S, …; R83, R103). -/
def parseMaj12 (word : Word) : Option Instr :=
  match (field word 0 5).toNat with
  | 0 => some (.vaddS (bit word 31) (field word 18 7) (field word 11 7) (field word 5 6))
  | 1 => some (.vsubS (bit word 31) (field word 18 7) (field word 11 7) (field word 5 6))
  | 2 => some (.vmulS (bit word 31) (field word 18 7) (field word 11 7) (field word 5 6))
  | 3 => some (.vmulhS (bit word 31) (field word 18 7) (field word 11 7) (field word 5 6))
  | 4 => some (.vmulhuS (bit word 31) (field word 18 7) (field word 11 7) (field word 5 6))
  | 5 => some (.vmadS (bit word 31) (field word 18 7) (field word 11 7) (field word 5 6))
  | 6 => some (.vandS (bit word 31) (field word 18 7) (field word 11 7) (field word 5 6))
  | 7 => some (.vorS (bit word 31) (field word 18 7) (field word 11 7) (field word 5 6))
  | 8 => some (.vxorS (bit word 31) (field word 18 7) (field word 11 7) (field word 5 6))
  | 9 => some (.vshlS (bit word 31) (field word 18 7) (field word 11 7) (field word 5 6))
  | 10 => some (.vshrS (bit word 31) (field word 18 7) (field word 11 7) (field word 5 6))
  | 11 => some (.vsraS (bit word 31) (field word 18 7) (field word 11 7) (field word 5 6))
  | 12 => some (.vminS (bit word 31) (field word 18 7) (field word 11 7) (field word 5 6))
  | 13 => some (.vmaxS (bit word 31) (field word 18 7) (field word 11 7) (field word 5 6))
  | 14 => some (.vuminS (bit word 31) (field word 18 7) (field word 11 7) (field word 5 6))
  | 15 => some (.vumaxS (bit word 31) (field word 18 7) (field word 11 7) (field word 5 6))
  | _ => none

/-- The forms of MAJ 0x13 by their code fields (VADDI, VANDI, VLI, VORI, …; R83, R103). -/
def parseMaj13 (word : Word) : Option Instr :=
  match (field word 8 3).toNat with
  | 0 => some (.vaddi (bit word 31) (field word 18 7) (field word 11 7) (field word 0 8))
  | 1 => some (.vandi (bit word 31) (field word 18 7) (field word 11 7) (field word 0 8))
  | 2 => some (.vori (bit word 31) (field word 18 7) (field word 11 7) (field word 0 8))
  | 3 => some (.vxori (bit word 31) (field word 18 7) (field word 11 7) (field word 0 8))
  | 4 => some (.vshli (bit word 31) (field word 18 7) (field word 11 7) (field word 0 8))
  | 5 => some (.vshri (bit word 31) (field word 18 7) (field word 11 7) (field word 0 8))
  | 6 => some (.vsrai (bit word 31) (field word 18 7) (field word 11 7) (field word 0 8))
  | 7 => some (.vli (bit word 31) (field word 18 7) (field word 0 8))
  | _ => none

/-- The forms of MAJ 0x14 by their code fields (VSEL; R83, R103). -/
def parseMaj14 (word : Word) : Option Instr :=
  some (.vsel (bit word 31) (field word 18 7) (field word 11 7) (field word 4 7) (field word 1 3))

/-- The forms of MAJ 0x15 to 0x18 by their code fields (VFABS, VFADD, VFCPS, VFDIV, …; R83, R103). -/
def parseMaj15 (word : Word) : Option Instr :=
  match (field word 0 4).toNat with
  | 0 => (FMaj.ofCode (field word 25 4)).bind fun k => some (.vfadd (bit word 31) k (field word 18 7) (field word 11 7) (field word 4 7))
  | 1 => (FMaj.ofCode (field word 25 4)).bind fun k => some (.vfsub (bit word 31) k (field word 18 7) (field word 11 7) (field word 4 7))
  | 2 => (FMaj.ofCode (field word 25 4)).bind fun k => some (.vfmul (bit word 31) k (field word 18 7) (field word 11 7) (field word 4 7))
  | 3 => (FMaj.ofCode (field word 25 4)).bind fun k => some (.vfma (bit word 31) k (field word 18 7) (field word 11 7) (field word 4 7))
  | 4 => (FMaj.ofCode (field word 25 4)).bind fun k => some (.vfmin (bit word 31) k (field word 18 7) (field word 11 7) (field word 4 7))
  | 5 => (FMaj.ofCode (field word 25 4)).bind fun k => some (.vfmax (bit word 31) k (field word 18 7) (field word 11 7) (field word 4 7))
  | 6 => (FMaj.ofCode (field word 25 4)).bind fun k => some (.vfabs (bit word 31) k (field word 18 7) (field word 11 7))
  | 7 => (FMaj.ofCode (field word 25 4)).bind fun k => some (.vfneg (bit word 31) k (field word 18 7) (field word 11 7))
  | 8 => (FMaj.ofCode (field word 25 4)).bind fun k => some (.vfcps (bit word 31) k (field word 18 7) (field word 11 7) (field word 4 7))
  | 9 => (FMaj.ofCode (field word 25 4)).bind fun k => some (.vfdiv (bit word 31) k (field word 18 7) (field word 11 7) (field word 4 7))
  | 10 => (FMaj.ofCode (field word 25 4)).bind fun k => some (.vfrnd (bit word 31) k (field word 18 7) (field word 11 7))
  | _ => none

/-- The forms of MAJ 0x19 by their code fields (VFADD_S, VFMAX_S, VFMA_S, VFMIN_S, …; R83, R103). -/
def parseMaj19 (word : Word) : Option Instr :=
  match (field word 2 3).toNat with
  | 0 => (FType.ofCode (field word 0 2)).bind fun t => some (.vfaddS (bit word 31) (field word 18 7) (field word 11 7) (field word 5 6) t)
  | 1 => (FType.ofCode (field word 0 2)).bind fun t => some (.vfsubS (bit word 31) (field word 18 7) (field word 11 7) (field word 5 6) t)
  | 2 => (FType.ofCode (field word 0 2)).bind fun t => some (.vfmulS (bit word 31) (field word 18 7) (field word 11 7) (field word 5 6) t)
  | 3 => (FType.ofCode (field word 0 2)).bind fun t => some (.vfmaS (bit word 31) (field word 18 7) (field word 11 7) (field word 5 6) t)
  | 4 => (FType.ofCode (field word 0 2)).bind fun t => some (.vfminS (bit word 31) (field word 18 7) (field word 11 7) (field word 5 6) t)
  | 5 => (FType.ofCode (field word 0 2)).bind fun t => some (.vfmaxS (bit word 31) (field word 18 7) (field word 11 7) (field word 5 6) t)
  | _ => none

/-- The forms of MAJ 0x1A by their code fields (VCOS, VEXP2, VLOG2, VRCP, …; R83, R103). -/
def parseMaj1A (word : Word) : Option Instr :=
  match (field word 7 4).toNat with
  | 0 => (SfuType.ofCode (field word 5 2)).bind fun t => some (.vrcp (bit word 31) (field word 18 7) (field word 11 7) t)
  | 1 => (SfuType.ofCode (field word 5 2)).bind fun t => some (.vrsq (bit word 31) (field word 18 7) (field word 11 7) t)
  | 2 => (SfuType.ofCode (field word 5 2)).bind fun t => some (.vsqrt (bit word 31) (field word 18 7) (field word 11 7) t)
  | 3 => (SfuType.ofCode (field word 5 2)).bind fun t => some (.vexp2 (bit word 31) (field word 18 7) (field word 11 7) t)
  | 4 => (SfuType.ofCode (field word 5 2)).bind fun t => some (.vlog2 (bit word 31) (field word 18 7) (field word 11 7) t)
  | 5 => (SfuType.ofCode (field word 5 2)).bind fun t => some (.vsin (bit word 31) (field word 18 7) (field word 11 7) t)
  | 6 => (SfuType.ofCode (field word 5 2)).bind fun t => some (.vcos (bit word 31) (field word 18 7) (field word 11 7) t)
  | 7 => (SfuType.ofCode (field word 5 2)).bind fun t => some (.vtanh (bit word 31) (field word 18 7) (field word 11 7) t)
  | _ => none

/-- The forms of MAJ 0x1B by their code fields (VCVT; R83, R103). -/
def parseMaj1B (word : Word) : Option Instr :=
  (CvtType.ofCode (field word 7 4)).bind fun t => (CvtType.ofCode (field word 3 4)).bind fun u => (CvtRnd.ofCode (field word 1 2)).bind fun r => some (.vcvt (bit word 31) (field word 18 7) (field word 11 7) t u r (bit word 0))

/-- The forms of MAJ 0x1C by their code fields (VPACK4, VUNPK4; R83, R103). -/
def parseMaj1C (word : Word) : Option Instr :=
  match (field word 8 3).toNat with
  | 0 => (BlkType.ofCode (field word 6 2)).bind fun t => some (.vpack4 (bit word 31) (field word 18 7) (field word 11 7) t)
  | 1 => (BlkType.ofCode (field word 6 2)).bind fun t => some (.vunpk4 (bit word 31) (field word 18 7) (field word 11 7) t)
  | _ => none

/-- The forms of MAJ 0x1D by their code fields (VBCAST, VLANE, VREADL, VRED, …; R83, R103). -/
def parseMaj1D (word : Word) : Option Instr :=
  match (field word 0 4).toNat with
  | 0 => some (.vshfl (bit word 31) (field word 18 7) (field word 11 7) (field word 4 7))
  | 1 => some (.vbcast (bit word 31) (field word 18 7) (field word 11 7) (field word 4 7))
  | 2 => some (.vreadl (bit word 31) (field word 18 6) (field word 11 7) (field word 4 7))
  | 3 => some (.vwritel (bit word 31) (field word 18 7) (field word 11 6) (field word 4 7))
  | 4 => (RedOp.ofCode (field word 4 3)).bind fun o => some (.vred (bit word 31) (field word 18 7) (field word 11 7) o)
  | 5 => (RedOp.ofCode (field word 4 3)).bind fun o => some (.vscan (bit word 31) (field word 18 7) (field word 11 7) o)
  | 6 => some (.vlane (bit word 31) (field word 18 7))
  | _ => none

/-- The forms of MAJ 0x1E by their code fields (LD; R83, R103). -/
def parseMaj1E (word : Word) : Option Instr :=
  (MSize.ofCode (field word 2 3)).bind fun z => (Cache.ofCode (field word 0 2)).bind fun c1 => some (.ld (bit word 31) (field word 18 7) (field word 12 6) (field word 5 7) z c1)

/-- The forms of MAJ 0x1F by their code fields (ST; R83, R103). -/
def parseMaj1F (word : Word) : Option Instr :=
  (MSize.ofCode (field word 2 3)).bind fun z => (Cache.ofCode (field word 0 2)).bind fun c1 => some (.st (bit word 31) (field word 18 7) (field word 12 6) (field word 5 7) z c1)

/-- The forms of MAJ 0x20 by their code fields (SLD, SST; R83, R103). -/
def parseMaj20 (word : Word) : Option Instr :=
  match (field word 1 2).toNat with
  | 0 => (WSize.ofCode (field word 0 1)).bind fun z => some (.sld (bit word 31) (field word 19 6) (field word 13 6) (field word 3 10) z)
  | 1 => (WSize.ofCode (field word 0 1)).bind fun z => some (.sst (bit word 31) (field word 19 6) (field word 13 6) (field word 3 10) z)
  | _ => none

/-- The forms of MAJ 0x21 by their code fields (LDS; R83, R103). -/
def parseMaj21 (word : Word) : Option Instr :=
  (MSize.ofCode (field word 2 3)).bind fun z => (Cache.ofCode (field word 0 2)).bind fun c1 => some (.lds (bit word 31) (field word 18 7) (field word 12 6) (field word 5 7) z c1)

/-- The forms of MAJ 0x22 by their code fields (STS; R83, R103). -/
def parseMaj22 (word : Word) : Option Instr :=
  (MSize.ofCode (field word 2 3)).bind fun z => (Cache.ofCode (field word 0 2)).bind fun c1 => some (.sts (bit word 31) (field word 18 7) (field word 12 6) (field word 5 7) z c1)

/-- The forms of MAJ 0x23 by their code fields (LDAS; R83, R103). -/
def parseMaj23 (word : Word) : Option Instr :=
  (MSize.ofCode (field word 2 3)).bind fun z => some (.ldas (bit word 31) (field word 18 7) (field word 12 6) (field word 5 7) z (field word 0 2))

/-- The forms of MAJ 0x24 by their code fields (STC; R83, R103). -/
def parseMaj24 (word : Word) : Option Instr :=
  (MSize.ofCode (field word 2 3)).bind fun z => some (.stc (bit word 31) (field word 18 7) (field word 12 6) (field word 5 7) z (field word 0 2))

/-- The forms of MAJ 0x25 by their code fields (ATOM; R83, R103). -/
def parseMaj25 (word : Word) : Option Instr :=
  (AtomOp.ofCode (field word 0 5)).bind fun a => some (.atom (bit word 31) (field word 18 7) (field word 12 6) (field word 5 7) a)

/-- The forms of MAJ 0x26 by their code fields (ATOMS; R83, R103). -/
def parseMaj26 (word : Word) : Option Instr :=
  (AtomOp.ofCode (field word 0 5)).bind fun a => some (.atoms (bit word 31) (field word 18 7) (field word 12 6) (field word 5 7) a)

/-- The forms of MAJ 0x27 by their code fields (LR, SC; R83, R103). -/
def parseMaj27 (word : Word) : Option Instr :=
  match (field word 4 1).toNat with
  | 0 => (WSize.ofCode (field word 2 1)).bind fun z => some (.lr (bit word 31) (field word 18 7) (field word 12 6) (field word 5 7) z)
  | 1 => (WSize.ofCode (field word 2 1)).bind fun z => some (.sc (bit word 31) (field word 18 7) (field word 12 6) (field word 5 7) z)
  | _ => none

/-- The forms of MAJ 0x28 by their code fields (PREF; R83, R103). -/
def parseMaj28 (word : Word) : Option Instr :=
  (PrefLevel.ofCode (field word 2 1)).bind fun l => (PrefClass.ofCode (field word 0 2)).bind fun c1 => some (.pref (bit word 31) (field word 12 6) (field word 5 7) l c1)

/-- The forms of MAJ 0x29 by their code fields (ARRIVE, BAR, WAITA, WAITB, …; R83, R103). -/
def parseMaj29 (word : Word) : Option Instr :=
  match (field word 21 4).toNat with
  | 0 => some (.bar (bit word 31) (field word 13 8))
  | 1 => some (.arrive (bit word 31) (field word 13 8))
  | 2 => some (.waitb (bit word 31) (field word 13 8) (bit word 12))
  | 3 => (WCond.ofCode (field word 6 2)).bind fun c1 => (Space.ofCode (field word 5 1)).bind fun s => some (.waita (bit word 31) (field word 15 6) (field word 9 6) c1 s)
  | 4 => (EClass.ofCode (field word 19 2)).bind fun c1 => some (.waitc (bit word 31) c1 (field word 13 6))
  | 5 => some (.waitbit (bit word 31) (field word 15 6) (field word 9 6))
  | _ => none

/-- The forms of MAJ 0x2A by their code fields (CPYAS, CPYG, CPY_G2G, CPY_G2S, …; R83, R103). -/
def parseMaj2A (word : Word) : Option Instr :=
  match (field word 15 4).toNat with
  | 0 => some (.cpyG2s (bit word 31) (field word 19 6))
  | 1 => some (.cpyS2g (bit word 31) (field word 19 6))
  | 2 => some (.cpyG2g (bit word 31) (field word 19 6))
  | 3 => some (.cpyg (bit word 31) (field word 19 6))
  | 4 => some (.cpyas (bit word 31) (field word 19 6))
  | _ => none

/-- The forms of MAJ 0x2B by their code fields (TAKE; R83, R103). -/
def parseMaj2B (word : Word) : Option Instr :=
  some (.take (bit word 31) (field word 19 6))

/-- The forms of MAJ 0x2C by their code fields (MMA; R83, R103). -/
def parseMaj2C (word : Word) : Option Instr :=
  (MRows.ofCode (field word 19 2)).bind fun h => (KCode.ofCode (field word 16 3)).bind fun h' => (MType.ofCode (field word 12 4)).bind fun t => some (.mma (bit word 31) (field word 21 4) (h, h') t (field word 6 6) (bit word 5) (bit word 4))

/-- The forms of MAJ 0x2D by their code fields (LDSTAT, SWAPS; R83, R103). -/
def parseMaj2D (word : Word) : Option Instr :=
  match (field word 2 1).toNat with
  | 0 => (MRows.ofCode (field word 17 2)).bind fun _ => (KCode.ofCode (field word 14 3)).bind fun k => (MType.ofCode (field word 10 4)).bind fun t => some (.ldstat (bit word 31) (field word 19 6) k t (bit word 9) (field word 3 6))
  | 1 => some (.swaps (bit word 31))
  | _ => none

/-- The forms of MAJ 0x2E by their code fields (RMMA; R83, R103). -/
def parseMaj2E (word : Word) : Option Instr :=
  (WType.ofCode (field word 8 4)).bind fun w => some (.rmma (bit word 31) (field word 21 4) (field word 15 6) (field word 12 3) w (field word 3 5) (bit word 2))

/-- The forms of MAJ 0x2F by their code fields (GANG, ZGIVE, ZLD, ZRD, …; R83, R103). -/
def parseMaj2F (word : Word) : Option Instr :=
  match (field word 21 4).toNat with
  | 0 => some (.zzero (bit word 31) (field word 17 4))
  | 1 => some (.zld (bit word 31) (field word 17 4) (field word 11 6))
  | 2 => some (.zst (bit word 31) (field word 17 4) (field word 11 6))
  | 3 => some (.zrd (bit word 31) (field word 17 4) (field word 11 6) (field word 4 7))
  | 4 => some (.zwr (bit word 31) (field word 17 4) (field word 11 6) (field word 4 7))
  | 5 => some (.zgive (bit word 31) (field word 17 4))
  | 6 => some (.ztake (bit word 31) (field word 17 4))
  | 7 => some (.gang (bit word 31) (field word 13 8))
  | _ => none

/-- The forms of MAJ 0x30 by their code fields (RANK; R83, R103). -/
def parseMaj30 (word : Word) : Option Instr :=
  (NReg.ofCode (field word 16 2)).bind fun n => (RType.ofCode (field word 14 2)).bind fun t => some (.rank (bit word 31) (field word 18 7) n t (field word 8 6) (field word 2 6) (bit word 1) (bit word 0))

/-- The forms of MAJ 0x31 by their code fields (LDPAL, RKREC; R83, R103). -/
def parseMaj31 (word : Word) : Option Instr :=
  match (field word 14 2).toNat with
  | 0 => some (.ldpal (bit word 31) (field word 22 3) (field word 16 6))
  | 1 => (PType.ofCode (field word 5 2)).bind fun t => some (.rkrec (bit word 31) (field word 22 3) (field word 16 6) (field word 7 7) t)
  | _ => none

/-- The form that a word's MAJ and code fields name; none where some code is reserved (R102, R103). -/
def parse (word : Word) : Option Instr :=
  match (field word 25 6).toNat with
  | 0 => parseMaj00 word
  | 1 => parseMaj01 word
  | 2 => parseMaj02 word
  | 3 => parseMaj03 word
  | 4 => parseMaj04 word
  | 5 => parseMaj05 word
  | 6 => parseMaj06 word
  | 7 => parseMaj07 word
  | 8 => parseMaj08 word
  | 9 => parseMaj09 word
  | 10 => parseMaj0A word
  | 11 => parseMaj0B word
  | 12 => parseMaj0C word
  | 13 => parseMaj0D word
  | 14 => parseMaj0E word
  | 15 => parseMaj0F word
  | 16 => parseMaj10 word
  | 17 => parseMaj11 word
  | 18 => parseMaj12 word
  | 19 => parseMaj13 word
  | 20 => parseMaj14 word
  | 21 => parseMaj15 word
  | 22 => parseMaj15 word
  | 23 => parseMaj15 word
  | 24 => parseMaj15 word
  | 25 => parseMaj19 word
  | 26 => parseMaj1A word
  | 27 => parseMaj1B word
  | 28 => parseMaj1C word
  | 29 => parseMaj1D word
  | 30 => parseMaj1E word
  | 31 => parseMaj1F word
  | 32 => parseMaj20 word
  | 33 => parseMaj21 word
  | 34 => parseMaj22 word
  | 35 => parseMaj23 word
  | 36 => parseMaj24 word
  | 37 => parseMaj25 word
  | 38 => parseMaj26 word
  | 39 => parseMaj27 word
  | 40 => parseMaj28 word
  | 41 => parseMaj29 word
  | 42 => parseMaj2A word
  | 43 => parseMaj2B word
  | 44 => parseMaj2C word
  | 45 => parseMaj2D word
  | 46 => parseMaj2E word
  | 47 => parseMaj2F word
  | 48 => parseMaj30 word
  | 49 => parseMaj31 word
  | _ => none

/-- Code bits that a form leaves zero: a nonzero one is a reserved code (R98, R111, R113, R114). Each pair is a field: its lowest bit and its width. -/
def reservedFields : Instr → List (Nat × Nat)
  | .vred _ _ _ _ => [(7, 4)]
  | .vscan _ _ _ _ => [(7, 4)]
  | .lr _ _ _ _ _ => [(3, 1)]
  | .sc _ _ _ _ _ => [(3, 1)]
  | .pref _ _ _ _ _ => [(3, 2)]
  | .waita _ _ _ _ _ => [(8, 1)]
  | _ => []

/-- The bits of [24:0] that a form does not use: a nonzero one gives FIELD (R83, R98). -/
def unusedFields : Instr → List (Nat × Nat)
  | .nop _ => [(4, 21)]
  | .exit => [(4, 21)]
  | .yield => [(4, 21)]
  | .brk _ _ => [(13, 12)]
  | .trap _ _ => [(13, 12)]
  | .rett _ => [(13, 12)]
  | .getc _ _ _ => [(4, 9)]
  | .setc _ _ _ => [(4, 9)]
  | .stamp _ _ => [(4, 15)]
  | .join _ => [(4, 21)]
  | .hintOrd _ _ => [(0, 16)]
  | .hintDep _ _ _ => [(0, 9)]
  | .hintRnd _ => [(0, 18)]
  | .jmpi _ => [(0, 16)]
  | .calli _ => [(0, 16)]
  | .ret => [(0, 16), (19, 6)]
  | .fence _ _ _ _ => [(0, 6)]
  | .smov _ _ _ => [(7, 6)]
  | .spopc _ _ _ => [(7, 6)]
  | .sclz _ _ _ => [(7, 6)]
  | .scmp _ _ _ _ => [(19, 6)]
  | .scmp64 _ _ _ _ => [(19, 6)]
  | .slui _ _ _ => [(0, 6)]
  | .mand _ _ _ _ => [(4, 12)]
  | .mor _ _ _ _ => [(4, 12)]
  | .mxor _ _ _ _ => [(4, 12)]
  | .mandn _ _ _ _ => [(4, 12)]
  | .mnot _ _ _ => [(4, 15)]
  | .mmov _ _ _ => [(4, 15)]
  | .mpop _ _ _ => [(4, 6), (16, 3), (22, 3)]
  | .mff1 _ _ _ => [(4, 6), (16, 3), (22, 3)]
  | .msave _ _ _ => [(4, 6), (16, 3), (22, 3)]
  | .mload _ _ _ => [(4, 6), (16, 6)]
  | .msetw _ _ => [(4, 18)]
  | .vabs _ _ _ => [(4, 7)]
  | .vnot _ _ _ => [(4, 7)]
  | .vmov _ _ _ => [(4, 7)]
  | .vpopc _ _ _ => [(4, 7)]
  | .vclz _ _ _ => [(4, 7)]
  | .vbrev _ _ _ => [(4, 7)]
  | .vli _ _ _ => [(11, 7)]
  | .vsel _ _ _ _ _ => [(0, 1)]
  | .vfabs _ _ _ _ => [(4, 7)]
  | .vfneg _ _ _ _ => [(4, 7)]
  | .vfrnd _ _ _ _ => [(4, 7)]
  | .vrcp _ _ _ _ => [(0, 5)]
  | .vrsq _ _ _ _ => [(0, 5)]
  | .vsqrt _ _ _ _ => [(0, 5)]
  | .vexp2 _ _ _ _ => [(0, 5)]
  | .vlog2 _ _ _ _ => [(0, 5)]
  | .vsin _ _ _ _ => [(0, 5)]
  | .vcos _ _ _ _ => [(0, 5)]
  | .vtanh _ _ _ _ => [(0, 5)]
  | .vpack4 _ _ _ _ => [(0, 6)]
  | .vunpk4 _ _ _ _ => [(0, 6)]
  | .vreadl _ _ _ _ => [(24, 1)]
  | .vwritel _ _ _ _ => [(17, 1)]
  | .vlane _ _ => [(4, 14)]
  | .lr _ _ _ _ _ => [(0, 2)]
  | .sc _ _ _ _ _ => [(0, 2)]
  | .pref _ _ _ _ _ => [(18, 7)]
  | .bar _ _ => [(0, 13)]
  | .arrive _ _ => [(0, 13)]
  | .waitb _ _ _ => [(0, 12)]
  | .waita _ _ _ _ _ => [(0, 5)]
  | .waitc _ _ _ => [(0, 13)]
  | .waitbit _ _ _ => [(0, 9)]
  | .cpyG2s _ _ => [(0, 15)]
  | .cpyS2g _ _ => [(0, 15)]
  | .cpyG2g _ _ => [(0, 15)]
  | .cpyg _ _ => [(0, 15)]
  | .cpyas _ _ => [(0, 15)]
  | .take _ _ => [(0, 19)]
  | .mma _ _ _ _ _ _ _ => [(0, 4)]
  | .ldstat _ _ _ _ _ _ => [(0, 2), (17, 2)]
  | .swaps _ => [(0, 2), (3, 22)]
  | .rmma _ _ _ _ _ _ _ => [(0, 2)]
  | .zzero _ _ => [(0, 17)]
  | .zld _ _ _ => [(0, 11)]
  | .zst _ _ _ => [(0, 11)]
  | .zrd _ _ _ _ => [(0, 4)]
  | .zwr _ _ _ _ => [(0, 4)]
  | .zgive _ _ => [(0, 17)]
  | .ztake _ _ => [(0, 17)]
  | .gang _ _ => [(0, 13)]
  | .ldpal _ _ _ => [(0, 14)]
  | .rkrec _ _ _ _ _ => [(0, 5)]
  | _ => []

/-- The P rule of a form (R103, R104). -/
def parkRule : Instr → PRule
  | .exit => .one
  | .yield => .one
  | .rett _ => .one
  | .hintImm _ => .zero
  | .hintOrd _ _ => .zero
  | .hintDep _ _ _ => .zero
  | .hintRnd _ => .zero
  | .hintOff _ => .zero
  | .br _ _ _ => .one
  | .jmp _ => .one
  | .call _ => .one
  | .tramp _ => .one
  | .jmpi _ => .one
  | .calli _ => .one
  | .ret => .one
  | .split _ _ => .one
  | _ => .either

/-- The checks of R102 after the code fields, in the order of the reason codes (R98). -/
def checkWord (w : Word) (i : Instr) : Except Reason Instr :=
  if allZero w (reservedFields i) = false ∨ i.codesOk = false then .error .reserved
  else if allZero w (unusedFields i) = false ∨ i.fieldsOk = false ∨ (parkRule i = .zero ∧ bit w 31 = true) then .error .field
  else if i.aligned = false then .error .align
  else if parkRule i = .one ∧ bit w 31 = false then .error .park
  else .ok i

/-- The decoder: the instruction that a word is, or the reason it is none (R102). -/
def decode (w : Word) : Except Reason Instr :=
  match parse w with
  | none => .error .reserved
  | some i => checkWord w i

/-- Four bytes as the word they hold, least significant first (R4). -/
def wordOfBytes (b0 b1 b2 b3 : Byte) : Word := b3 ++ b2 ++ b1 ++ b0

/-- The decoder on bytes in memory order: the instruction and the bytes after it. Fewer than four bytes are no word. -/
def decodeBytes : List Byte → Except Reason (Instr × List Byte)
  | b0 :: b1 :: b2 :: b3 :: rest =>
    match decode (wordOfBytes b0 b1 b2 b3) with
    | .ok i => .ok (i, rest)
    | .error r => .error r
  | _ => .error .reserved

/-- Byte `k` of a number, as memory holds it (R4). -/
def byteOfNat (w k : Nat) : Byte := BitVec.ofNat 8 (w >>> (8 * k))

/-- The instruction that the decoder reads from a word numbered as the opcode table numbers it. Every encoded row has
32 bits; a row without an encoding (a device event) has none, and no instruction is read for it. -/
def decodeTableWord (nbits w : Nat) : Option Instr :=
  if nbits = 0 ∨ 32 < nbits then none
  else
    match decodeBytes [byteOfNat w 0, byteOfNat w 1, byteOfNat w 2, byteOfNat w 3] with
    | .ok (i, _) => some i
    | .error _ => none

/-- The encoder: the word of an encoded instruction by the formats of R83, each field's value times the weight of its lowest
bit, added to the constant that MAJ and the code fields give; none for a device event. -/
def encode : Instr → Option Word
  | .nop p => some (BitVec.ofNat 32 (0x00000000 + p.toNat * 0x80000000))
  | .exit => some (BitVec.ofNat 32 (0x80000001))
  | .yield => some (BitVec.ofNat 32 (0x80000002))
  | .brk p n => some (BitVec.ofNat 32 (0x00000003 + p.toNat * 0x80000000 + n.toNat * 0x10))
  | .trap p n => some (BitVec.ofNat 32 (0x00000004 + p.toNat * 0x80000000 + n.toNat * 0x10))
  | .rett n => some (BitVec.ofNat 32 (0x80000005 + (RettMode.code n).toNat * 0x10))
  | .getc p s c1 => some (BitVec.ofNat 32 (0x00000006 + p.toNat * 0x80000000 + s.toNat * 0x80000 + c1.toNat * 0x2000))
  | .setc p s c1 => some (BitVec.ofNat 32 (0x00000007 + p.toNat * 0x80000000 + s.toNat * 0x80000 + c1.toNat * 0x2000))
  | .stamp p s => some (BitVec.ofNat 32 (0x00000008 + p.toNat * 0x80000000 + s.toNat * 0x80000))
  | .join p => some (BitVec.ofNat 32 (0x00000009 + p.toNat * 0x80000000))
  | .hintImm i => some (BitVec.ofNat 32 (0x02000000 + i.toNat))
  | .hintOrd o s => some (BitVec.ofNat 32 (0x02200000 + (Order.code o).toNat * 0x80000 + (Scope.code s).toNat * 0x10000))
  | .hintDep w e s => some (BitVec.ofNat 32 (0x02400000 + w.toNat * 0x2000 + e.toNat * 0x1000 + s.toNat * 0x200))
  | .hintRnd m => some (BitVec.ofNat 32 (0x02600000 + (RMode.code m).toNat * 0x40000))
  | .hintOff o => some (BitVec.ofNat 32 (0x02800000 + o.toNat))
  | .br c1 m o => some (BitVec.ofNat 32 (0x84000000 + (BrCond.code c1).toNat * 0x200000 + m.toNat * 0x40000 + o.toNat))
  | .jmp o => some (BitVec.ofNat 32 (0x86000000 + o.toNat))
  | .call o => some (BitVec.ofNat 32 (0x88000000 + o.toNat))
  | .tramp o => some (BitVec.ofNat 32 (0x8A000000 + o.toNat))
  | .jmpi s => some (BitVec.ofNat 32 (0x8C000000 + s.toNat * 0x80000))
  | .calli s => some (BitVec.ofNat 32 (0x8C010000 + s.toNat * 0x80000))
  | .ret => some (BitVec.ofNat 32 (0x8C020000))
  | .split m o => some (BitVec.ofNat 32 (0x8E000000 + m.toNat * 0x400000 + o.toNat))
  | .fence p r u c1 => some (BitVec.ofNat 32 (0x10000000 + p.toNat * 0x80000000 + r.toNat * 0x20000 + u.toNat * 0x200 + (Scope.code c1).toNat * 0x40))
  | .sadd p d a b => some (BitVec.ofNat 32 (0x12000000 + p.toNat * 0x80000000 + d.toNat * 0x80000 + a.toNat * 0x2000 + b.toNat * 0x80))
  | .ssub p d a b => some (BitVec.ofNat 32 (0x12000001 + p.toNat * 0x80000000 + d.toNat * 0x80000 + a.toNat * 0x2000 + b.toNat * 0x80))
  | .smul p d a b => some (BitVec.ofNat 32 (0x12000002 + p.toNat * 0x80000000 + d.toNat * 0x80000 + a.toNat * 0x2000 + b.toNat * 0x80))
  | .smulh p d a b => some (BitVec.ofNat 32 (0x12000003 + p.toNat * 0x80000000 + d.toNat * 0x80000 + a.toNat * 0x2000 + b.toNat * 0x80))
  | .smulhu p d a b => some (BitVec.ofNat 32 (0x12000004 + p.toNat * 0x80000000 + d.toNat * 0x80000 + a.toNat * 0x2000 + b.toNat * 0x80))
  | .sand p d a b => some (BitVec.ofNat 32 (0x12000005 + p.toNat * 0x80000000 + d.toNat * 0x80000 + a.toNat * 0x2000 + b.toNat * 0x80))
  | .sor p d a b => some (BitVec.ofNat 32 (0x12000006 + p.toNat * 0x80000000 + d.toNat * 0x80000 + a.toNat * 0x2000 + b.toNat * 0x80))
  | .sxor p d a b => some (BitVec.ofNat 32 (0x12000007 + p.toNat * 0x80000000 + d.toNat * 0x80000 + a.toNat * 0x2000 + b.toNat * 0x80))
  | .sandn p d a b => some (BitVec.ofNat 32 (0x12000008 + p.toNat * 0x80000000 + d.toNat * 0x80000 + a.toNat * 0x2000 + b.toNat * 0x80))
  | .sshl p d a b => some (BitVec.ofNat 32 (0x12000009 + p.toNat * 0x80000000 + d.toNat * 0x80000 + a.toNat * 0x2000 + b.toNat * 0x80))
  | .sshr p d a b => some (BitVec.ofNat 32 (0x1200000A + p.toNat * 0x80000000 + d.toNat * 0x80000 + a.toNat * 0x2000 + b.toNat * 0x80))
  | .ssra p d a b => some (BitVec.ofNat 32 (0x1200000B + p.toNat * 0x80000000 + d.toNat * 0x80000 + a.toNat * 0x2000 + b.toNat * 0x80))
  | .smin p d a b => some (BitVec.ofNat 32 (0x1200000C + p.toNat * 0x80000000 + d.toNat * 0x80000 + a.toNat * 0x2000 + b.toNat * 0x80))
  | .smax p d a b => some (BitVec.ofNat 32 (0x1200000D + p.toNat * 0x80000000 + d.toNat * 0x80000 + a.toNat * 0x2000 + b.toNat * 0x80))
  | .sumin p d a b => some (BitVec.ofNat 32 (0x1200000E + p.toNat * 0x80000000 + d.toNat * 0x80000 + a.toNat * 0x2000 + b.toNat * 0x80))
  | .sumax p d a b => some (BitVec.ofNat 32 (0x1200000F + p.toNat * 0x80000000 + d.toNat * 0x80000 + a.toNat * 0x2000 + b.toNat * 0x80))
  | .sadd64 p d a b => some (BitVec.ofNat 32 (0x12000010 + p.toNat * 0x80000000 + d.toNat * 0x80000 + a.toNat * 0x2000 + b.toNat * 0x80))
  | .ssub64 p d a b => some (BitVec.ofNat 32 (0x12000011 + p.toNat * 0x80000000 + d.toNat * 0x80000 + a.toNat * 0x2000 + b.toNat * 0x80))
  | .smov p d a => some (BitVec.ofNat 32 (0x12000012 + p.toNat * 0x80000000 + d.toNat * 0x80000 + a.toNat * 0x2000))
  | .ssel p d a b => some (BitVec.ofNat 32 (0x12000013 + p.toNat * 0x80000000 + d.toNat * 0x80000 + a.toNat * 0x2000 + b.toNat * 0x80))
  | .spopc p d a => some (BitVec.ofNat 32 (0x12000014 + p.toNat * 0x80000000 + d.toNat * 0x80000 + a.toNat * 0x2000))
  | .sclz p d a => some (BitVec.ofNat 32 (0x12000015 + p.toNat * 0x80000000 + d.toNat * 0x80000 + a.toNat * 0x2000))
  | .scmp p a b c1 => some (BitVec.ofNat 32 (0x14000000 + p.toNat * 0x80000000 + a.toNat * 0x2000 + b.toNat * 0x80 + (Cond.code c1).toNat))
  | .scmp64 p a b c1 => some (BitVec.ofNat 32 (0x14000010 + p.toNat * 0x80000000 + a.toNat * 0x2000 + b.toNat * 0x80 + (Cond.code c1).toNat))
  | .saddi p d a i => some (BitVec.ofNat 32 (0x16000000 + p.toNat * 0x80000000 + d.toNat * 0x80000 + a.toNat * 0x2000 + i.toNat))
  | .sandi p d a i => some (BitVec.ofNat 32 (0x16000400 + p.toNat * 0x80000000 + d.toNat * 0x80000 + a.toNat * 0x2000 + i.toNat))
  | .sori p d a i => some (BitVec.ofNat 32 (0x16000800 + p.toNat * 0x80000000 + d.toNat * 0x80000 + a.toNat * 0x2000 + i.toNat))
  | .sxori p d a i => some (BitVec.ofNat 32 (0x16000C00 + p.toNat * 0x80000000 + d.toNat * 0x80000 + a.toNat * 0x2000 + i.toNat))
  | .sshli p d a i => some (BitVec.ofNat 32 (0x16001000 + p.toNat * 0x80000000 + d.toNat * 0x80000 + a.toNat * 0x2000 + i.toNat))
  | .sshri p d a i => some (BitVec.ofNat 32 (0x16001400 + p.toNat * 0x80000000 + d.toNat * 0x80000 + a.toNat * 0x2000 + i.toNat))
  | .ssrai p d a i => some (BitVec.ofNat 32 (0x16001800 + p.toNat * 0x80000000 + d.toNat * 0x80000 + a.toNat * 0x2000 + i.toNat))
  | .sli p d i => some (BitVec.ofNat 32 (0x18000000 + p.toNat * 0x80000000 + d.toNat * 0x80000 + i.toNat))
  | .slui p d i => some (BitVec.ofNat 32 (0x1A000000 + p.toNat * 0x80000000 + d.toNat * 0x80000 + i.toNat * 0x40))
  | .mand p d a b => some (BitVec.ofNat 32 (0x1C000000 + p.toNat * 0x80000000 + d.toNat * 0x400000 + a.toNat * 0x80000 + b.toNat * 0x10000))
  | .mor p d a b => some (BitVec.ofNat 32 (0x1C000001 + p.toNat * 0x80000000 + d.toNat * 0x400000 + a.toNat * 0x80000 + b.toNat * 0x10000))
  | .mxor p d a b => some (BitVec.ofNat 32 (0x1C000002 + p.toNat * 0x80000000 + d.toNat * 0x400000 + a.toNat * 0x80000 + b.toNat * 0x10000))
  | .mandn p d a b => some (BitVec.ofNat 32 (0x1C000003 + p.toNat * 0x80000000 + d.toNat * 0x400000 + a.toNat * 0x80000 + b.toNat * 0x10000))
  | .mnot p d a => some (BitVec.ofNat 32 (0x1C000004 + p.toNat * 0x80000000 + d.toNat * 0x400000 + a.toNat * 0x80000))
  | .mmov p d a => some (BitVec.ofNat 32 (0x1C000005 + p.toNat * 0x80000000 + d.toNat * 0x400000 + a.toNat * 0x80000))
  | .mpop p a s => some (BitVec.ofNat 32 (0x1C000006 + p.toNat * 0x80000000 + a.toNat * 0x80000 + s.toNat * 0x400))
  | .mff1 p a s => some (BitVec.ofNat 32 (0x1C000007 + p.toNat * 0x80000000 + a.toNat * 0x80000 + s.toNat * 0x400))
  | .msave p a s => some (BitVec.ofNat 32 (0x1C000008 + p.toNat * 0x80000000 + a.toNat * 0x80000 + s.toNat * 0x400))
  | .mload p d s => some (BitVec.ofNat 32 (0x1C000009 + p.toNat * 0x80000000 + d.toNat * 0x400000 + s.toNat * 0x400))
  | .msetw p d => some (BitVec.ofNat 32 (0x1C00000A + p.toNat * 0x80000000 + d.toNat * 0x400000))
  | .vcmp p d a b c1 t => some (BitVec.ofNat 32 (0x1E000000 + p.toNat * 0x80000000 + d.toNat * 0x400000 + a.toNat * 0x8000 + b.toNat * 0x100 + (VCond.code c1).toNat * 0x10 + (VType.code t).toNat))
  | .vadd p d a b => some (BitVec.ofNat 32 (0x20000000 + p.toNat * 0x80000000 + d.toNat * 0x40000 + a.toNat * 0x800 + b.toNat * 0x10))
  | .vsub p d a b => some (BitVec.ofNat 32 (0x20000001 + p.toNat * 0x80000000 + d.toNat * 0x40000 + a.toNat * 0x800 + b.toNat * 0x10))
  | .vmul p d a b => some (BitVec.ofNat 32 (0x20000002 + p.toNat * 0x80000000 + d.toNat * 0x40000 + a.toNat * 0x800 + b.toNat * 0x10))
  | .vmulh p d a b => some (BitVec.ofNat 32 (0x20000003 + p.toNat * 0x80000000 + d.toNat * 0x40000 + a.toNat * 0x800 + b.toNat * 0x10))
  | .vmulhu p d a b => some (BitVec.ofNat 32 (0x20000004 + p.toNat * 0x80000000 + d.toNat * 0x40000 + a.toNat * 0x800 + b.toNat * 0x10))
  | .vmad p d a b => some (BitVec.ofNat 32 (0x20000005 + p.toNat * 0x80000000 + d.toNat * 0x40000 + a.toNat * 0x800 + b.toNat * 0x10))
  | .vand p d a b => some (BitVec.ofNat 32 (0x20000006 + p.toNat * 0x80000000 + d.toNat * 0x40000 + a.toNat * 0x800 + b.toNat * 0x10))
  | .vor p d a b => some (BitVec.ofNat 32 (0x20000007 + p.toNat * 0x80000000 + d.toNat * 0x40000 + a.toNat * 0x800 + b.toNat * 0x10))
  | .vxor p d a b => some (BitVec.ofNat 32 (0x20000008 + p.toNat * 0x80000000 + d.toNat * 0x40000 + a.toNat * 0x800 + b.toNat * 0x10))
  | .vshl p d a b => some (BitVec.ofNat 32 (0x20000009 + p.toNat * 0x80000000 + d.toNat * 0x40000 + a.toNat * 0x800 + b.toNat * 0x10))
  | .vshr p d a b => some (BitVec.ofNat 32 (0x2000000A + p.toNat * 0x80000000 + d.toNat * 0x40000 + a.toNat * 0x800 + b.toNat * 0x10))
  | .vsra p d a b => some (BitVec.ofNat 32 (0x2000000B + p.toNat * 0x80000000 + d.toNat * 0x40000 + a.toNat * 0x800 + b.toNat * 0x10))
  | .vmin p d a b => some (BitVec.ofNat 32 (0x2000000C + p.toNat * 0x80000000 + d.toNat * 0x40000 + a.toNat * 0x800 + b.toNat * 0x10))
  | .vmax p d a b => some (BitVec.ofNat 32 (0x2000000D + p.toNat * 0x80000000 + d.toNat * 0x40000 + a.toNat * 0x800 + b.toNat * 0x10))
  | .vumin p d a b => some (BitVec.ofNat 32 (0x2000000E + p.toNat * 0x80000000 + d.toNat * 0x40000 + a.toNat * 0x800 + b.toNat * 0x10))
  | .vumax p d a b => some (BitVec.ofNat 32 (0x2000000F + p.toNat * 0x80000000 + d.toNat * 0x40000 + a.toNat * 0x800 + b.toNat * 0x10))
  | .vaddS p d a s => some (BitVec.ofNat 32 (0x24000000 + p.toNat * 0x80000000 + d.toNat * 0x40000 + a.toNat * 0x800 + s.toNat * 0x20))
  | .vsubS p d a s => some (BitVec.ofNat 32 (0x24000001 + p.toNat * 0x80000000 + d.toNat * 0x40000 + a.toNat * 0x800 + s.toNat * 0x20))
  | .vmulS p d a s => some (BitVec.ofNat 32 (0x24000002 + p.toNat * 0x80000000 + d.toNat * 0x40000 + a.toNat * 0x800 + s.toNat * 0x20))
  | .vmulhS p d a s => some (BitVec.ofNat 32 (0x24000003 + p.toNat * 0x80000000 + d.toNat * 0x40000 + a.toNat * 0x800 + s.toNat * 0x20))
  | .vmulhuS p d a s => some (BitVec.ofNat 32 (0x24000004 + p.toNat * 0x80000000 + d.toNat * 0x40000 + a.toNat * 0x800 + s.toNat * 0x20))
  | .vmadS p d a s => some (BitVec.ofNat 32 (0x24000005 + p.toNat * 0x80000000 + d.toNat * 0x40000 + a.toNat * 0x800 + s.toNat * 0x20))
  | .vandS p d a s => some (BitVec.ofNat 32 (0x24000006 + p.toNat * 0x80000000 + d.toNat * 0x40000 + a.toNat * 0x800 + s.toNat * 0x20))
  | .vorS p d a s => some (BitVec.ofNat 32 (0x24000007 + p.toNat * 0x80000000 + d.toNat * 0x40000 + a.toNat * 0x800 + s.toNat * 0x20))
  | .vxorS p d a s => some (BitVec.ofNat 32 (0x24000008 + p.toNat * 0x80000000 + d.toNat * 0x40000 + a.toNat * 0x800 + s.toNat * 0x20))
  | .vshlS p d a s => some (BitVec.ofNat 32 (0x24000009 + p.toNat * 0x80000000 + d.toNat * 0x40000 + a.toNat * 0x800 + s.toNat * 0x20))
  | .vshrS p d a s => some (BitVec.ofNat 32 (0x2400000A + p.toNat * 0x80000000 + d.toNat * 0x40000 + a.toNat * 0x800 + s.toNat * 0x20))
  | .vsraS p d a s => some (BitVec.ofNat 32 (0x2400000B + p.toNat * 0x80000000 + d.toNat * 0x40000 + a.toNat * 0x800 + s.toNat * 0x20))
  | .vminS p d a s => some (BitVec.ofNat 32 (0x2400000C + p.toNat * 0x80000000 + d.toNat * 0x40000 + a.toNat * 0x800 + s.toNat * 0x20))
  | .vmaxS p d a s => some (BitVec.ofNat 32 (0x2400000D + p.toNat * 0x80000000 + d.toNat * 0x40000 + a.toNat * 0x800 + s.toNat * 0x20))
  | .vuminS p d a s => some (BitVec.ofNat 32 (0x2400000E + p.toNat * 0x80000000 + d.toNat * 0x40000 + a.toNat * 0x800 + s.toNat * 0x20))
  | .vumaxS p d a s => some (BitVec.ofNat 32 (0x2400000F + p.toNat * 0x80000000 + d.toNat * 0x40000 + a.toNat * 0x800 + s.toNat * 0x20))
  | .vadd64 p d a b => some (BitVec.ofNat 32 (0x22000000 + p.toNat * 0x80000000 + d.toNat * 0x40000 + a.toNat * 0x800 + b.toNat * 0x10))
  | .vsub64 p d a b => some (BitVec.ofNat 32 (0x22000001 + p.toNat * 0x80000000 + d.toNat * 0x40000 + a.toNat * 0x800 + b.toNat * 0x10))
  | .vmulw p d a b => some (BitVec.ofNat 32 (0x22000002 + p.toNat * 0x80000000 + d.toNat * 0x40000 + a.toNat * 0x800 + b.toNat * 0x10))
  | .vabs p d a => some (BitVec.ofNat 32 (0x22000003 + p.toNat * 0x80000000 + d.toNat * 0x40000 + a.toNat * 0x800))
  | .vnot p d a => some (BitVec.ofNat 32 (0x22000004 + p.toNat * 0x80000000 + d.toNat * 0x40000 + a.toNat * 0x800))
  | .vmov p d a => some (BitVec.ofNat 32 (0x22000005 + p.toNat * 0x80000000 + d.toNat * 0x40000 + a.toNat * 0x800))
  | .vpopc p d a => some (BitVec.ofNat 32 (0x22000006 + p.toNat * 0x80000000 + d.toNat * 0x40000 + a.toNat * 0x800))
  | .vclz p d a => some (BitVec.ofNat 32 (0x22000007 + p.toNat * 0x80000000 + d.toNat * 0x40000 + a.toNat * 0x800))
  | .vbrev p d a => some (BitVec.ofNat 32 (0x22000008 + p.toNat * 0x80000000 + d.toNat * 0x40000 + a.toNat * 0x800))
  | .vbfe p d a b => some (BitVec.ofNat 32 (0x22000009 + p.toNat * 0x80000000 + d.toNat * 0x40000 + a.toNat * 0x800 + b.toNat * 0x10))
  | .vbfi p d a b => some (BitVec.ofNat 32 (0x2200000A + p.toNat * 0x80000000 + d.toNat * 0x40000 + a.toNat * 0x800 + b.toNat * 0x10))
  | .vaddi p d a i => some (BitVec.ofNat 32 (0x26000000 + p.toNat * 0x80000000 + d.toNat * 0x40000 + a.toNat * 0x800 + i.toNat))
  | .vandi p d a i => some (BitVec.ofNat 32 (0x26000100 + p.toNat * 0x80000000 + d.toNat * 0x40000 + a.toNat * 0x800 + i.toNat))
  | .vori p d a i => some (BitVec.ofNat 32 (0x26000200 + p.toNat * 0x80000000 + d.toNat * 0x40000 + a.toNat * 0x800 + i.toNat))
  | .vxori p d a i => some (BitVec.ofNat 32 (0x26000300 + p.toNat * 0x80000000 + d.toNat * 0x40000 + a.toNat * 0x800 + i.toNat))
  | .vshli p d a i => some (BitVec.ofNat 32 (0x26000400 + p.toNat * 0x80000000 + d.toNat * 0x40000 + a.toNat * 0x800 + i.toNat))
  | .vshri p d a i => some (BitVec.ofNat 32 (0x26000500 + p.toNat * 0x80000000 + d.toNat * 0x40000 + a.toNat * 0x800 + i.toNat))
  | .vsrai p d a i => some (BitVec.ofNat 32 (0x26000600 + p.toNat * 0x80000000 + d.toNat * 0x40000 + a.toNat * 0x800 + i.toNat))
  | .vli p d i => some (BitVec.ofNat 32 (0x26000700 + p.toNat * 0x80000000 + d.toNat * 0x40000 + i.toNat))
  | .vsel p d a b m => some (BitVec.ofNat 32 (0x28000000 + p.toNat * 0x80000000 + d.toNat * 0x40000 + a.toNat * 0x800 + b.toNat * 0x10 + m.toNat * 0x2))
  | .vfadd p k d a b => some (BitVec.ofNat 32 (0x20000000 + p.toNat * 0x80000000 + (FMaj.code k).toNat * 0x2000000 + d.toNat * 0x40000 + a.toNat * 0x800 + b.toNat * 0x10))
  | .vfsub p k d a b => some (BitVec.ofNat 32 (0x20000001 + p.toNat * 0x80000000 + (FMaj.code k).toNat * 0x2000000 + d.toNat * 0x40000 + a.toNat * 0x800 + b.toNat * 0x10))
  | .vfmul p k d a b => some (BitVec.ofNat 32 (0x20000002 + p.toNat * 0x80000000 + (FMaj.code k).toNat * 0x2000000 + d.toNat * 0x40000 + a.toNat * 0x800 + b.toNat * 0x10))
  | .vfma p k d a b => some (BitVec.ofNat 32 (0x20000003 + p.toNat * 0x80000000 + (FMaj.code k).toNat * 0x2000000 + d.toNat * 0x40000 + a.toNat * 0x800 + b.toNat * 0x10))
  | .vfmin p k d a b => some (BitVec.ofNat 32 (0x20000004 + p.toNat * 0x80000000 + (FMaj.code k).toNat * 0x2000000 + d.toNat * 0x40000 + a.toNat * 0x800 + b.toNat * 0x10))
  | .vfmax p k d a b => some (BitVec.ofNat 32 (0x20000005 + p.toNat * 0x80000000 + (FMaj.code k).toNat * 0x2000000 + d.toNat * 0x40000 + a.toNat * 0x800 + b.toNat * 0x10))
  | .vfabs p k d a => some (BitVec.ofNat 32 (0x20000006 + p.toNat * 0x80000000 + (FMaj.code k).toNat * 0x2000000 + d.toNat * 0x40000 + a.toNat * 0x800))
  | .vfneg p k d a => some (BitVec.ofNat 32 (0x20000007 + p.toNat * 0x80000000 + (FMaj.code k).toNat * 0x2000000 + d.toNat * 0x40000 + a.toNat * 0x800))
  | .vfcps p k d a b => some (BitVec.ofNat 32 (0x20000008 + p.toNat * 0x80000000 + (FMaj.code k).toNat * 0x2000000 + d.toNat * 0x40000 + a.toNat * 0x800 + b.toNat * 0x10))
  | .vfdiv p k d a b => some (BitVec.ofNat 32 (0x20000009 + p.toNat * 0x80000000 + (FMaj.code k).toNat * 0x2000000 + d.toNat * 0x40000 + a.toNat * 0x800 + b.toNat * 0x10))
  | .vfrnd p k d a => some (BitVec.ofNat 32 (0x2000000A + p.toNat * 0x80000000 + (FMaj.code k).toNat * 0x2000000 + d.toNat * 0x40000 + a.toNat * 0x800))
  | .vfaddS p d a s t => some (BitVec.ofNat 32 (0x32000000 + p.toNat * 0x80000000 + d.toNat * 0x40000 + a.toNat * 0x800 + s.toNat * 0x20 + (FType.code t).toNat))
  | .vfsubS p d a s t => some (BitVec.ofNat 32 (0x32000004 + p.toNat * 0x80000000 + d.toNat * 0x40000 + a.toNat * 0x800 + s.toNat * 0x20 + (FType.code t).toNat))
  | .vfmulS p d a s t => some (BitVec.ofNat 32 (0x32000008 + p.toNat * 0x80000000 + d.toNat * 0x40000 + a.toNat * 0x800 + s.toNat * 0x20 + (FType.code t).toNat))
  | .vfmaS p d a s t => some (BitVec.ofNat 32 (0x3200000C + p.toNat * 0x80000000 + d.toNat * 0x40000 + a.toNat * 0x800 + s.toNat * 0x20 + (FType.code t).toNat))
  | .vfminS p d a s t => some (BitVec.ofNat 32 (0x32000010 + p.toNat * 0x80000000 + d.toNat * 0x40000 + a.toNat * 0x800 + s.toNat * 0x20 + (FType.code t).toNat))
  | .vfmaxS p d a s t => some (BitVec.ofNat 32 (0x32000014 + p.toNat * 0x80000000 + d.toNat * 0x40000 + a.toNat * 0x800 + s.toNat * 0x20 + (FType.code t).toNat))
  | .vrcp p d a t => some (BitVec.ofNat 32 (0x34000000 + p.toNat * 0x80000000 + d.toNat * 0x40000 + a.toNat * 0x800 + (SfuType.code t).toNat * 0x20))
  | .vrsq p d a t => some (BitVec.ofNat 32 (0x34000080 + p.toNat * 0x80000000 + d.toNat * 0x40000 + a.toNat * 0x800 + (SfuType.code t).toNat * 0x20))
  | .vsqrt p d a t => some (BitVec.ofNat 32 (0x34000100 + p.toNat * 0x80000000 + d.toNat * 0x40000 + a.toNat * 0x800 + (SfuType.code t).toNat * 0x20))
  | .vexp2 p d a t => some (BitVec.ofNat 32 (0x34000180 + p.toNat * 0x80000000 + d.toNat * 0x40000 + a.toNat * 0x800 + (SfuType.code t).toNat * 0x20))
  | .vlog2 p d a t => some (BitVec.ofNat 32 (0x34000200 + p.toNat * 0x80000000 + d.toNat * 0x40000 + a.toNat * 0x800 + (SfuType.code t).toNat * 0x20))
  | .vsin p d a t => some (BitVec.ofNat 32 (0x34000280 + p.toNat * 0x80000000 + d.toNat * 0x40000 + a.toNat * 0x800 + (SfuType.code t).toNat * 0x20))
  | .vcos p d a t => some (BitVec.ofNat 32 (0x34000300 + p.toNat * 0x80000000 + d.toNat * 0x40000 + a.toNat * 0x800 + (SfuType.code t).toNat * 0x20))
  | .vtanh p d a t => some (BitVec.ofNat 32 (0x34000380 + p.toNat * 0x80000000 + d.toNat * 0x40000 + a.toNat * 0x800 + (SfuType.code t).toNat * 0x20))
  | .vcvt p d a t u r s => some (BitVec.ofNat 32 (0x36000000 + p.toNat * 0x80000000 + d.toNat * 0x40000 + a.toNat * 0x800 + (CvtType.code t).toNat * 0x80 + (CvtType.code u).toNat * 0x8 + (CvtRnd.code r).toNat * 0x2 + s.toNat))
  | .vpack4 p d a t => some (BitVec.ofNat 32 (0x38000000 + p.toNat * 0x80000000 + d.toNat * 0x40000 + a.toNat * 0x800 + (BlkType.code t).toNat * 0x40))
  | .vunpk4 p d a t => some (BitVec.ofNat 32 (0x38000100 + p.toNat * 0x80000000 + d.toNat * 0x40000 + a.toNat * 0x800 + (BlkType.code t).toNat * 0x40))
  | .vshfl p d a b => some (BitVec.ofNat 32 (0x3A000000 + p.toNat * 0x80000000 + d.toNat * 0x40000 + a.toNat * 0x800 + b.toNat * 0x10))
  | .vbcast p d a k => some (BitVec.ofNat 32 (0x3A000001 + p.toNat * 0x80000000 + d.toNat * 0x40000 + a.toNat * 0x800 + k.toNat * 0x10))
  | .vreadl p s a k => some (BitVec.ofNat 32 (0x3A000002 + p.toNat * 0x80000000 + s.toNat * 0x40000 + a.toNat * 0x800 + k.toNat * 0x10))
  | .vwritel p d s k => some (BitVec.ofNat 32 (0x3A000003 + p.toNat * 0x80000000 + d.toNat * 0x40000 + s.toNat * 0x800 + k.toNat * 0x10))
  | .vred p d a o => some (BitVec.ofNat 32 (0x3A000004 + p.toNat * 0x80000000 + d.toNat * 0x40000 + a.toNat * 0x800 + (RedOp.code o).toNat * 0x10))
  | .vscan p d a o => some (BitVec.ofNat 32 (0x3A000005 + p.toNat * 0x80000000 + d.toNat * 0x40000 + a.toNat * 0x800 + (RedOp.code o).toNat * 0x10))
  | .vlane p d => some (BitVec.ofNat 32 (0x3A000006 + p.toNat * 0x80000000 + d.toNat * 0x40000))
  | .ld p v s o z c1 => some (BitVec.ofNat 32 (0x3C000000 + p.toNat * 0x80000000 + v.toNat * 0x40000 + s.toNat * 0x1000 + o.toNat * 0x20 + (MSize.code z).toNat * 0x4 + (Cache.code c1).toNat))
  | .st p v s o z c1 => some (BitVec.ofNat 32 (0x3E000000 + p.toNat * 0x80000000 + v.toNat * 0x40000 + s.toNat * 0x1000 + o.toNat * 0x20 + (MSize.code z).toNat * 0x4 + (Cache.code c1).toNat))
  | .sld p d s o z => some (BitVec.ofNat 32 (0x40000000 + p.toNat * 0x80000000 + d.toNat * 0x80000 + s.toNat * 0x2000 + o.toNat * 0x8 + (WSize.code z).toNat))
  | .sst p d s o z => some (BitVec.ofNat 32 (0x40000002 + p.toNat * 0x80000000 + d.toNat * 0x80000 + s.toNat * 0x2000 + o.toNat * 0x8 + (WSize.code z).toNat))
  | .lds p v s o z c1 => some (BitVec.ofNat 32 (0x42000000 + p.toNat * 0x80000000 + v.toNat * 0x40000 + s.toNat * 0x1000 + o.toNat * 0x20 + (MSize.code z).toNat * 0x4 + (Cache.code c1).toNat))
  | .sts p v s o z c1 => some (BitVec.ofNat 32 (0x44000000 + p.toNat * 0x80000000 + v.toNat * 0x40000 + s.toNat * 0x1000 + o.toNat * 0x20 + (MSize.code z).toNat * 0x4 + (Cache.code c1).toNat))
  | .ldas p v s o z q => some (BitVec.ofNat 32 (0x46000000 + p.toNat * 0x80000000 + v.toNat * 0x40000 + s.toNat * 0x1000 + o.toNat * 0x20 + (MSize.code z).toNat * 0x4 + q.toNat))
  | .stc p v s o z q => some (BitVec.ofNat 32 (0x48000000 + p.toNat * 0x80000000 + v.toNat * 0x40000 + s.toNat * 0x1000 + o.toNat * 0x20 + (MSize.code z).toNat * 0x4 + q.toNat))
  | .atom p v s o a => some (BitVec.ofNat 32 (0x4A000000 + p.toNat * 0x80000000 + v.toNat * 0x40000 + s.toNat * 0x1000 + o.toNat * 0x20 + (AtomOp.code a).toNat))
  | .atoms p v s o a => some (BitVec.ofNat 32 (0x4C000000 + p.toNat * 0x80000000 + v.toNat * 0x40000 + s.toNat * 0x1000 + o.toNat * 0x20 + (AtomOp.code a).toNat))
  | .lr p v s o z => some (BitVec.ofNat 32 (0x4E000000 + p.toNat * 0x80000000 + v.toNat * 0x40000 + s.toNat * 0x1000 + o.toNat * 0x20 + (WSize.code z).toNat * 0x4))
  | .sc p v s o z => some (BitVec.ofNat 32 (0x4E000010 + p.toNat * 0x80000000 + v.toNat * 0x40000 + s.toNat * 0x1000 + o.toNat * 0x20 + (WSize.code z).toNat * 0x4))
  | .pref p s o l c1 => some (BitVec.ofNat 32 (0x50000000 + p.toNat * 0x80000000 + s.toNat * 0x1000 + o.toNat * 0x20 + (PrefLevel.code l).toNat * 0x4 + (PrefClass.code c1).toNat))
  | .bar p g => some (BitVec.ofNat 32 (0x52000000 + p.toNat * 0x80000000 + g.toNat * 0x2000))
  | .arrive p g => some (BitVec.ofNat 32 (0x52200000 + p.toNat * 0x80000000 + g.toNat * 0x2000))
  | .waitb p g h => some (BitVec.ofNat 32 (0x52400000 + p.toNat * 0x80000000 + g.toNat * 0x2000 + h.toNat * 0x1000))
  | .waita p a v c1 s => some (BitVec.ofNat 32 (0x52600000 + p.toNat * 0x80000000 + a.toNat * 0x8000 + v.toNat * 0x200 + (WCond.code c1).toNat * 0x40 + (Space.code s).toNat * 0x20))
  | .waitc p c1 n => some (BitVec.ofNat 32 (0x52800000 + p.toNat * 0x80000000 + (EClass.code c1).toNat * 0x80000 + n.toNat * 0x2000))
  | .waitbit p b i => some (BitVec.ofNat 32 (0x52A00000 + p.toNat * 0x80000000 + b.toNat * 0x8000 + i.toNat * 0x200))
  | .cpyG2s p d => some (BitVec.ofNat 32 (0x54000000 + p.toNat * 0x80000000 + d.toNat * 0x80000))
  | .cpyS2g p d => some (BitVec.ofNat 32 (0x54008000 + p.toNat * 0x80000000 + d.toNat * 0x80000))
  | .cpyG2g p d => some (BitVec.ofNat 32 (0x54010000 + p.toNat * 0x80000000 + d.toNat * 0x80000))
  | .cpyg p d => some (BitVec.ofNat 32 (0x54018000 + p.toNat * 0x80000000 + d.toNat * 0x80000))
  | .cpyas p d => some (BitVec.ofNat 32 (0x54020000 + p.toNat * 0x80000000 + d.toNat * 0x80000))
  | .take p a => some (BitVec.ofNat 32 (0x56000000 + p.toNat * 0x80000000 + a.toNat * 0x80000))
  | .mma p z (h, h') t a c1 s => some (BitVec.ofNat 32 (0x58000000 + p.toNat * 0x80000000 + z.toNat * 0x200000 + (MRows.code h).toNat * 0x80000 + (KCode.code h').toNat * 0x10000 + (MType.code t).toNat * 0x1000 + a.toNat * 0x40 + c1.toNat * 0x20 + s.toNat * 0x10))
  | .ldstat p a k t m s => some (BitVec.ofNat 32 (0x5A000000 + p.toNat * 0x80000000 + a.toNat * 0x80000 + (KCode.code k).toNat * 0x4000 + (MType.code t).toNat * 0x400 + m.toNat * 0x200 + s.toNat * 0x8))
  | .swaps p => some (BitVec.ofNat 32 (0x5A000004 + p.toNat * 0x80000000))
  | .rmma p z a l w r c1 => some (BitVec.ofNat 32 (0x5C000000 + p.toNat * 0x80000000 + z.toNat * 0x200000 + a.toNat * 0x8000 + l.toNat * 0x1000 + (WType.code w).toNat * 0x100 + r.toNat * 0x8 + c1.toNat * 0x4))
  | .zzero p z => some (BitVec.ofNat 32 (0x5E000000 + p.toNat * 0x80000000 + z.toNat * 0x20000))
  | .zld p z s => some (BitVec.ofNat 32 (0x5E200000 + p.toNat * 0x80000000 + z.toNat * 0x20000 + s.toNat * 0x800))
  | .zst p z s => some (BitVec.ofNat 32 (0x5E400000 + p.toNat * 0x80000000 + z.toNat * 0x20000 + s.toNat * 0x800))
  | .zrd p z s v => some (BitVec.ofNat 32 (0x5E600000 + p.toNat * 0x80000000 + z.toNat * 0x20000 + s.toNat * 0x800 + v.toNat * 0x10))
  | .zwr p z s v => some (BitVec.ofNat 32 (0x5E800000 + p.toNat * 0x80000000 + z.toNat * 0x20000 + s.toNat * 0x800 + v.toNat * 0x10))
  | .zgive p z => some (BitVec.ofNat 32 (0x5EA00000 + p.toNat * 0x80000000 + z.toNat * 0x20000))
  | .ztake p z => some (BitVec.ofNat 32 (0x5EC00000 + p.toNat * 0x80000000 + z.toNat * 0x20000))
  | .gang p g => some (BitVec.ofNat 32 (0x5EE00000 + p.toNat * 0x80000000 + g.toNat * 0x2000))
  | .rank p a n t d c1 o g => some (BitVec.ofNat 32 (0x60000000 + p.toNat * 0x80000000 + a.toNat * 0x40000 + (NReg.code n).toNat * 0x10000 + (RType.code t).toNat * 0x4000 + d.toNat * 0x100 + c1.toNat * 0x4 + o.toNat * 0x2 + g.toNat))
  | .ldpal p l a => some (BitVec.ofNat 32 (0x62000000 + p.toNat * 0x80000000 + l.toNat * 0x400000 + a.toNat * 0x10000))
  | .rkrec p l a v t => some (BitVec.ofNat 32 (0x62004000 + p.toNat * 0x80000000 + l.toNat * 0x400000 + a.toNat * 0x10000 + v.toNat * 0x80 + (PType.code t).toNat * 0x20))
  | .doorbell _ _ _ => none
  | .descriptorRead _ _ => none
  | .qceilWrite _ _ _ _ => none
  | .qsizeWrite _ _ _ _ => none
  | .blockPlacement _ _ _ _ => none
  | .coresPlacement _ _ => none
  | .blockRetirement _ => none
  | .ageingExpiry _ => none
  | .waitOverdue _ => none
  | .victimChoice _ _ => none
  | .sliceExpiry _ => none
  | .eviction _ => none
  | .blockRestore _ _ _ => none
  | .longResultReturn _ _ => none
  | .translationCheckComplete _ => none
  | .instructionFetchFail _ => none
  | .trapDelivery _ => none
  | .faultFinalRecord _ => none
  | .waveEnd _ => none
  | .homeStoreEvent _ => none
  | .homeAsofRead _ _ => none
  | .wcDrainTimeout _ _ _ => none
  | .remoteCleanExpiry _ _ => none
  | .remoteDirtyFlush _ _ => none
  | .pinLeaseExpiry _ _ => none
  | .clockExchange => none
  | .horizonRaise _ _ => none
  | .horizonAnnounceAck _ _ => none
  | .horizonRaiseComplete _ => none
  | .logShareFull _ _ => none
  | .waitPollTick _ _ => none
  | .waketoExpiry _ _ => none
  | .copyComplete _ => none
  | .matrixOpBegin _ _ => none
  | .matrixOpComplete _ _ => none
  | .rankOpComplete _ => none
  | .tileTransferComplete _ => none
  | .marketAnswer _ => none
  | .homeWayRetire _ _ => none
  | .dramRowRemap _ _ => none
  | .deviceReset _ => none
  | .firmwareUpdateStage _ => none
  | .thermalThrottle _ _ _ => none
  | .thermalShutdown => none
  | .uncorrectableError _ _ => none
  | .hostBar2Access _ _ _ _ => none
  | .peerAccess _ _ _ _ _ => none
  | .sampleTick _ _ => none
  | .verify _ _ => none
  | .verifyComplete _ => none
  | .verifyRelease _ _ => none
  | .keepRegister _ _ => none
  | .keepEnd _ _ => none
  | .translationInvalidate _ _ => none
  | .invalidateComplete _ => none
  | .keyLoad _ _ => none
  | .keyErase _ _ => none
  | .attestationRequest _ _ => none
  | .fholdWrite _ _ => none
  | .fhlogqWrite _ _ _ => none
  | .fhlogbWrite _ _ _ => none
  | .fcoreWrite _ _ _ _ => none
  | .suspend _ _ => none
  | .unsuspend _ _ => none
  | .fsliceWrite _ _ _ => none
  | .fpinWrite _ _ _ => none
  | .debugStop _ _ => none
  | .debugResume _ _ => none
  | .debugRegisterWrite _ _ _ _ _ => none
  | .registerWrite _ _ _ _ => none
  | .l1LeaseExpiry _ _ => none
  | .linkTraining _ _ => none
  | .deviceDegraded => none
  | .correctedSoftError _ => none
  | .keepRequestComplete _ => none
  | .keyCommandComplete => none
  | .attestationComplete _ => none
  | .instructionFetchComplete _ => none

end Sys2Proof
end

