-- ==== Sys2Proof/Machine/Matrix.lean ====
section
/-! DEFINITION. The matrix engine: operands (R242, R115), the checks of its words (R243, R245, R265), the holder of the array (R241), gangs
and the rendezvous latch (R251, R252), the queue (R250, R264), and what LDSTAT, SWAPS, MMA and RMMA do at completion (R155 to R157). -/

namespace Sys2Proof.Machine

/-! ### Types and shapes (R115, R242) -/

/-- Kmax of a type (R115, R328). -/
def kmax : MType → Nat
  | .f64 => 32
  | .f32 => 64
  | .f16 | .bf16 => 512
  | .e4m3 | .e5m2 | .i8 => 1024
  | .blk4 => 2048

/-- The divisor of a K code (R115). -/
def kdiv : KCode → Nat
  | .k1 => 1
  | .k2 => 2
  | .k4 => 4
  | .k8 => 8

/-- Ks, the stored K (R242). -/
def storedK (t : MType) (k : KCode) : Nat := kmax t / kdiv k

/-- Rows of a shape (R115). -/
def rowsOf : MRows → Nat
  | .m8 => 8
  | .m16 => 16
  | .m32 => 32

/-- Bytes of an element; BLK4 has half a byte and is not asked (R242). -/
def elemBytes : MType → Nat
  | .f64 => 8
  | .f32 => 4
  | .f16 | .bf16 => 2
  | .e4m3 | .e5m2 | .i8 | .blk4 => 1

/-- The floating-point format of a type. -/
def elemFmt : MType → Fmt
  | .f64 => .f64
  | .f32 => .f32
  | .f16 => .f16
  | .bf16 => .bf16
  | .e4m3 => .e4m3
  | .e5m2 | .i8 | .blk4 => .e5m2

/-- The group size of a type; of I8 all of K (R155). -/
def groupOf : MType → Nat
  | .f64 | .f32 => 1
  | .f16 | .bf16 => 4
  | .e4m3 | .e5m2 => 8
  | .blk4 => 32
  | .i8 => 2048

/-- Bytes of B (R243). -/
def bytesB (t : MType) (k : KCode) : Nat := if t = .blk4 then 17 * storedK t k else 32 * storedK t k * elemBytes t

/-- Bytes of some rows of A (R242, R328). -/
def bytesA (t : MType) (k : KCode) (rows : Nat) : Nat :=
  if t = .blk4 then rows * storedK t k / 2 + rows * storedK t k / 32 else rows * storedK t k * elemBytes t

/-- The matrix type of a weight type (R265). -/
def weightType : WType → MType
  | .f32 => .f32
  | .f16 => .f16
  | .bf16 => .bf16
  | .e4m3 => .e4m3
  | .e5m2 => .e5m2

/-! ### The values of the operations -/

/-- A nibble of a byte list, even ones in bits [3:0] (R240). -/
def nibble (f : Nat → Byte) (k : Nat) : Nat := (f (k / 2)).toNat / 16 ^ (k % 2) % 16

/-- An element of a byte list as a value; a BLK4 code under its scale byte (R240, R242). -/
def elemValue (t : MType) (codes : Nat → Byte) (scale : Nat → Byte) (k : Nat) : FVal :=
  if t = .blk4 then
    let e := (scale (k / 32)).toNat
    blkDecode (blkOfCode (e / 64)) (e % 64) (nibble codes k)
  else (elemFmt t).decode (leNat codes (k * elemBytes t) (elemBytes t))

/-- The exact sum of products of stored elements `k` to `k + n - 1` (R155). -/
def sumProducts (a b : Nat → FVal) (k : Nat) : Nat → FVal
  | 0 => .fin false 0 0
  | 1 => (a k).mul (b k)
  | n + 1 => ((a k).mul (b k)).add .rne (sumProducts a b (k + 1) n)

/-- The accumulation of the groups of stored elements in ascending order: one rounding for each (R155, R246). -/
def accumulate (f : Fmt) (g : Nat) (a b : Nat → FVal) (k : Nat) : Nat → Nat → Nat
  | 0, c => c
  | n + 1, c => accumulate f g a b (k + g) n (f.round .rne 0 ((f.decode c).add .rne (sumProducts a b k g)))

/-- The sum of products of I8 elements (R155). -/
def sumI8 (a b : Nat → Byte) : Nat → Int
  | 0 => 0
  | n + 1 => (a n).toInt * (b n).toInt + sumI8 a b n

/-- One output element of an MMA: stored elements of an A row and of a column of the plane (R155, R156, R246). -/
def mmaElement (t : MType) (ks : Nat) (sparse : Bool) (rowCodes rowScale colCodes colScale : Nat → Byte) (c : Nat) : Nat :=
  if t = .i8 then (((c : Int) + sumI8 rowCodes colCodes ks) % 2 ^ 32).toNat
  else
    let g := if sparse then groupOf t / 2 else groupOf t
    let f := if t = .f64 then Fmt.f64 else Fmt.f32
    accumulate f g (elemValue t rowCodes rowScale) (elemValue t colCodes colScale) 0 (ks / g) c

/-- A tile slot of a block. -/
def Block.tile (b : Block) (z : Nat) : Tile := b.tiles.getD z default

/-- A block with one tile slot changed. -/
def Block.modTile (b : Block) (z : Nat) (f : Tile → Tile) : Block := { b with tiles := b.tiles.modify z f }

/-- A tile with the words below some row taken from a function of row and column. -/
def Tile.setRows (t : Tile) (rows : Nat) (f : Nat → Nat → Word) : Tile :=
  { t with words := (List.range 1024).map fun i => if i < 32 * rows then f (i / 32) (i % 32) else t.words.getD i 0 }

/-- A column of a plane: its byte of some number (R240). -/
def colByte (cs : List (List Byte)) (n k : Nat) : Byte := (cs.getD n []).getD k 0

/-- The bytes of the row of A that MMA streams (R242). -/
def rowBytes (t : MType) (m ks a i : Nat) (f : Nat → Byte) : (Nat → Byte) × (Nat → Byte) :=
  if t = .blk4 then (fun k => f (a + i * ks / 2 + k), fun kb => f (a + m * ks / 2 + i * ks / 32 + kb))
  else (fun k => f (a + i * ks * elemBytes t + k), fun _ => 0)

/-- The value of an output element of an MMA. -/
def mmaValue (f : Nat → Byte) (pl : Plane) (t : MType) (m ks : Nat) (sparse : Bool) (a c i j : Nat) : Nat :=
  let r := rowBytes t m ks a i f
  mmaElement t ks sparse r.1 r.2 (colByte pl.weight j) (colByte pl.scale j) c

/-- The output of an MMA on a block, by row and column (R245). -/
def Block.mmaOut (b : Block) (pl : Plane) (z : Nat) (m : MRows) (k : KCode) (t : MType) (acc sparse : Bool) (a i j : Nat) : Nat :=
  let old := if !acc then 0
    else ((b.tile z).words.getD (32 * i + j) 0).toNat +
      if t = .f64 then 2 ^ 32 * ((b.tile (z + 1)).words.getD (32 * i + j) 0).toNat else 0
  mmaValue b.scratch.get pl t (rowsOf m) (storedK t k) sparse a old i j

/-- The rows of a tile slot written, with those of the next where an element has 64 bits (R245). -/
def Block.putRows (b : Block) (z rows : Nat) (pair : Bool) (val : Nat → Nat → Nat) : Block :=
  let b := b.modTile z fun x => x.setRows rows fun i j => BitVec.ofNat 32 (val i j)
  if pair then b.modTile (z + 1) fun x => x.setRows rows fun i j => BitVec.ofNat 32 (val i j / 2 ^ 32) else b

/-- MMA on a block (R245). -/
def Block.mma (b : Block) (pl : Plane) (z : Nat) (m : MRows) (k : KCode) (t : MType) (acc sparse : Bool) (a : Nat) : Block :=
  b.putRows z (rowsOf m) (t == .f64) (b.mmaOut pl z m k t acc sparse a)

/-- The entries of a code slot before END, in rank order (R261). -/
def codeEntries (f : Nat → Byte) (a : Nat) : List Nat :=
  (((List.range 64).map fun r => leNat f (a + 2 * r) 2).takeWhile fun e => e < 32768).map fun e => e % 4096

/-- The accumulation of a row of an RMMA in ascending rank (R157). A NaN that no arrival meets keeps its bits (log 35: DESIGN CHOICE). -/
def rankAccumulate (pal : Nat → FVal) (wt : Nat → FVal) (kbase k : Nat) : Nat → List Nat → Nat → Nat
  | _, [], c => c
  | r, x :: xs, c =>
    rankAccumulate pal wt kbase k (r + 1) xs
      (if kbase ≤ x ∧ x < kbase + k then Fmt.f32.round .rne 0 ((Fmt.f32.decode c).add .rne ((pal r).mul (wt (x - kbase)))) else c)

/-- The output of an RMMA on a block, by row and column (R265). -/
def Block.rmmaOut (b : Block) (pl : Plane) (z p : Nat) (t : WType) (acc : Bool) (a kbase i j : Nat) : Nat :=
  let pal := fun r => Fmt.f32.decode ((b.pals.getD p []).getD r 0).toNat
  let w := weightType t
  rankAccumulate pal (elemValue w (colByte pl.weight j) fun _ => 0) kbase (kmax w) 0 (codeEntries b.scratch.get (a + 128 * i))
    (if acc then ((b.tile z).words.getD (32 * i + j) 0).toNat else 0)

/-- RMMA on a block (R265). -/
def Block.rmma (b : Block) (pl : Plane) (z p : Nat) (t : WType) (rows : Nat) (acc : Bool) (a kbase : Nat) : Block :=
  b.putRows z rows false (b.rmmaOut pl z p t acc a kbase)

/-- Cycles beyond the first that a row's arrivals take: a cycle ends at 32 arrivals, or where the next needs a cell row already used (R266). The
cell rows used in the open cycle come first. -/
def packCycles : List Nat → List Nat → Nat
  | _, [] => 0
  | used, c :: r => if used.length = 32 ∨ used.contains c then 1 + packCycles [c] r else packCycles (c :: used) r

/-- The cell rows of the arrivals of a code slot that lie in the window, in rank order (R255, R266). -/
def cellRows (f : Nat → Byte) (t : MType) (a kbase : Nat) : List Nat :=
  ((codeEntries f a).filter fun x => kbase ≤ x && x < kbase + kmax t).map fun x => (x - kbase) * elemBytes t / 32

/-- The cycles for which an RMMA holds the stream (R253, R266). -/
def rankCycles (f : Nat → Byte) (t : MType) (rows a kbase : Nat) : Nat :=
  rows + ((List.range rows).map fun i => packCycles [] (cellRows f t (a + 128 * i) kbase)).sum

/-- Column `n` of B: its weight bytes (R242, R243). -/
def columnWeights (t : MType) (ks b n : Nat) (f : Nat → Byte) : List Byte :=
  if t = .blk4 then
    let code := fun r => (f (b + 16 * r + n / 2)).toNat / 16 ^ (n % 2) % 16
    (List.range (ks / 2)).map fun j => BitVec.ofNat 8 (code (2 * j) + 16 * code (2 * j + 1))
  else (List.range ks).flatMap fun r => (List.range (elemBytes t)).map fun e => f (b + r * 32 * elemBytes t + n * elemBytes t + e)

/-- Column `n` of B: its scale bytes. -/
def columnScales (t : MType) (ks b n : Nat) (f : Nat → Byte) : List Byte :=
  if t = .blk4 then (List.range (ks / 32)).map fun kb => f (b + 16 * ks + 32 * kb + n) else []

/-- The shadow plane that LDSTAT loads (R243). -/
def loadPlane (f : Nat → Byte) (t : MType) (k : KCode) (sparse : Bool) (b c : Nat) : Plane where
  weight := (List.range 32).map fun n => columnWeights t (storedK t k) b n f
  scale := (List.range 32).map fun n => columnScales t (storedK t k) b n f
  mdata := (List.range 32).map fun _ => if sparse then bytesAt f c (storedK t k / 4) else []
  sparse := sparse

/-! ### Checks of the words (R243, R245, R265) -/

/-- A scratchpad operand: MISALIGN, then PROT with the first byte beyond the allocation, as R196 has it for a matrix operation. -/
def operandCause (a n align alloc : Nat) : Option (BitVec 8 × Word64) :=
  if a % align ≠ 0 then some (Cause.misalign, BitVec.ofNat 64 a) else (beyond a n alloc).map fun x => (Cause.prot, x)

/-- The first cause of two. -/
def orCause (x y : Option (BitVec 8 × Word64)) : Option (BitVec 8 × Word64) :=
  match x with
  | some c => some c
  | none => y

/-- A slot that the block does not have (R90). -/
def Block.slotCause (b : Block) (z : Nat) : Option (BitVec 8 × Word64) :=
  if b.tiles.length ≤ z then some (Cause.prot, BitVec.ofNat 64 z) else none

/-- A slot whose token is on the wrong side (R247). -/
def Block.tokenCause (b : Block) (z : Nat) (matrix : Bool) : Option (BitVec 8 × Word64) :=
  if (b.tile z).matrix != matrix then some (Cause.token, BitVec.ofNat 64 z) else none

/-- The slots that an operation writes. -/
def MatKind.slots : MatKind → List Nat
  | .mma z _ _ t _ _ _ => if t = .f64 then [z, z + 1] else [z]
  | .rmma z _ _ _ _ _ _ => [z]
  | .ldstat .. | .swaps => []

/-- The first cause of some slots. -/
def firstCause (f : Nat → Option (BitVec 8 × Word64)) : List Nat → Option (BitVec 8 × Word64)
  | [] => none
  | z :: r => orCause (f z) (firstCause f r)

/-- The cause of a matrix word on its block, if any (R243, R244, R245, R265). -/
def Block.matCause (b : Block) (k : MatKind) : Option (BitVec 8 × Word64) :=
  let alloc := b.scratch.size
  let tokens := firstCause (fun z => b.tokenCause z true) k.slots
  match k with
  | .swaps => none
  | .ldstat kc t meta_ x c =>
    if x % 128 ≠ 0 then some (Cause.misalign, BitVec.ofNat 64 x)
    else if meta_ && c % 16 != 0 then some (Cause.misalign, BitVec.ofNat 64 c)
    else orCause ((beyond x (bytesB t kc) alloc).map fun y => (Cause.prot, y))
      (if meta_ then (beyond c (storedK t kc / 4) alloc).map fun y => (Cause.prot, y) else none)
  | .mma _ m kc t _ _ a =>
    orCause (firstCause b.slotCause k.slots) (orCause (operandCause a (bytesA t kc (rowsOf m)) 128 alloc) tokens)
  | .rmma _ _ _ rows _ a _ => orCause (firstCause b.slotCause k.slots) (orCause (operandCause a (128 * rows) 128 alloc) tokens)

/-! ### Issue: the holder, the counter and the latch (R241, R252) -/

/-- The array of a core. -/
def State.array (s : State) (core : Nat) : Array' := (s.core core).array

/-- The state with the array of a core changed. -/
def State.modArray (s : State) (core : Nat) (f : Array' → Array') : State := s.modCore core fun c => { c with array := f c.array }

/-- The array with a block as holder: where it becomes the holder the array is cleared, which takes 200 core cycles (R241). -/
def Array'.hold (a : Array') (bi now : Nat) : Array' :=
  if a.holder = some bi then a else { a with holder := some bi, active := Plane.zero, shadow := Plane.zero, readyAt := now + 200 }

/-- The array is free for a block (R241). -/
def Array'.freeFor (a : Array') (bi : Nat) : Bool := a.holder.isNone || a.holder == some bi

/-- An operation enters the queue, counted by some waves, whose words end (R250, R252). -/
def State.enqueue (s : State) (p : Bool) (kind : MatKind) (waves : List Nat) (gang : Option Nat) (lead : Nat) : State :=
  let w := s.wave lead
  let dep := w.hints.dep.getD (0, none)
  let id := s.nextOp
  let op : MatOp := ⟨id, w.block, waves, kind, gang, lead, dep.1, dep.2, false, 0, 0, 0, []⟩
  let s := { s with nextOp := id + 1 }.modArray (s.coreOf w) fun a => let a := a.hold w.block (s.cycle (s.coreOf w))
    { a with queue := a.queue ++ [op] }
  waves.foldl (fun s wi => s.modWave wi fun w => { (w.begin .m id).step p with ibuf := none }) s

/-- A matrix word of a wave that is a gang of one (R241, R243, R245). -/
def State.matrixAlone (s : State) (p : Bool) (kind : Wave → MatKind) (w : Wave) : Out :=
  if !(s.array (s.coreOf w)).freeFor w.block then s.stall .array
  else if 63 ≤ w.counter .m then s.stall .counter
  else match (s.blockOf w).matCause (kind w) with
    | some (c, a) => s.trap c a
    | none => .next (s.enqueue p (kind w) [s.issuing] none s.issuing)

/-- The members of a group that have not ended, by number in the block (R252). -/
def State.gangMembers (s : State) (bi g : Nat) : List Nat :=
  let b := s.block bi
  let l := s.launch b.launch
  b.waves.filter fun wi => !(s.wave wi).ended && l.isMember g (s.wave wi).index

/-- A member's word is recorded at the latch (R252). -/
def Block.latchPut (b : Block) (g wi : Nat) (i : Instr) (dep : Option (BitVec 8 × Option (BitVec 3))) : Block :=
  if b.latch.any fun e => e.group == g && e.wave == wi then b else { b with latch := b.latch ++ [LatchEntry.mk g wi i dep] }

/-- The latch of a group is emptied. -/
def Block.latchClear (b : Block) (g : Nat) : Block := { b with latch := b.latch.filter fun e => e.group != g }

/-- The entries at the latch all hold the same word and hint (R252). -/
def sameWords : List LatchEntry → Bool
  | [] => true
  | e :: r => r.all fun x => x.word == e.word && x.dep == e.dep

/-- Every member releases at BK; none where some member must wait (R252). -/
def State.releaseAll (ms : List Nat) (s : State) : State × Bool :=
  ms.foldl (fun r wi =>
    let t := r.1.release wi .bk
    (t, r.2 && t.released wi .bk)) (s, true)

/-- The rendezvous: every member's word has arrived (R252). Where the words differ it releases and acquires nothing (log 19: DESIGN CHOICE). -/
def State.rendezvous (s : State) (p : Bool) (kind : Wave → MatKind) (bi g : Nat) (ms : List Nat) : Out :=
  let b := s.block bi
  let es := b.latch.filter fun e => e.group == g
  if !sameWords es then
    .next (ms.foldl (fun s wi => s.trapWave wi ⟨Cause.gang, (s.wave wi).exec, BitVec.ofNat 64 g⟩) (s.modBlock bi fun b => b.latchClear g))
  else if !(s.array b.core).freeFor bi then s.stall .array
  else
    let x := s.releaseAll ms
    if !x.2 then x.1.stall .retry
    else
      let s := ms.foldl (fun s wi => s.published wi .bk) x.1
      let s := ms.foldl (fun s wi => s.acquire wi .bk) s
      let lead := ms.headD 0
      let s := s.modBlock bi fun b => b.latchClear g
      match b.matCause (kind (s.wave lead)) with
      | some (c, a) => .next (ms.foldl (fun s wi => s.trapWave wi ⟨c, (s.wave wi).exec, a⟩) s)
      | none => .next ((s.enqueue p (kind (s.wave lead)) ms (some g) lead).count (s.launch b.launch).func 2 (ms.length - 1))

/-- A matrix word of a member of a gang passes the rendezvous latch (R252). A member that has been taken issues its word when it is restored
(R254). -/
def State.matrixGang (s : State) (i : Instr) (p : Bool) (kind : Wave → MatKind) (w : Wave) (g : Nat) : Out :=
  if 63 ≤ w.counter .m then s.stall .counter
  else
    let s := s.modBlock w.block fun b => b.latchPut g s.issuing i w.hints.dep
    let ms := s.gangMembers w.block g
    if ms.all fun wi => !(s.wave wi).taken && (s.block w.block).latch.any fun e => e.group == g && e.wave == wi then s.rendezvous p kind w.block g ms
    else s.stall .latch

/-- A matrix word (R241, R252). -/
def State.matrix (s : State) (i : Instr) (p : Bool) (kind : Wave → MatKind) : Out :=
  s.onWave fun w =>
    match w.gang with
    | none => s.matrixAlone p kind w
    | some g => s.matrixGang i p kind w g

/-- LDSTAT (R243, R323). -/
def execLdstat (p : Bool) (a : SReg) (k : KCode) (t : MType) (m : Bool) (c : SReg) (s : State) : Out :=
  s.matrix (.ldstat p a k t m c) p fun w => .ldstat k t m (w.s a).toNat (w.s c).toNat

/-- SWAPS (R244, R352). -/
def execSwaps (p : Bool) (s : State) : Out := s.matrix (.swaps p) p fun _ => .swaps

/-- MMA (R245, R328). -/
def execMma (p : Bool) (z : ZReg) (h : MRows × KCode) (t : MType) (a : SReg) (acc sparse : Bool) (s : State) : Out :=
  s.matrix (.mma p z h t a acc sparse) p fun w => .mma z.toNat h.1 h.2 t acc sparse (w.s a).toNat

/-- RMMA (R265, R334). -/
def execRmma (p : Bool) (z : ZReg) (a : SReg) (l : PalReg) (t : WType) (r : BitVec 5) (acc : Bool) (s : State) : Out :=
  s.matrix (.rmma p z a l t r acc) p fun w => .rmma z.toNat l.toNat t (r.toNat + 1) acc (w.s a).toNat (w.s (a + 1)).toNat

/-- The number of waves of a group, those that have ended included (R251, R309). -/
def State.groupSize (s : State) (w : Wave) (g : Nat) : Nat :=
  let l := s.launchOf w
  ((s.blockOf w).waves.filter fun wi => l.isMember g (s.wave wi).index).length

/-- GANG (R251, R309). -/
def execGang (p : Bool) (g : BitVec 8) (s : State) : Out :=
  s.onWave fun w =>
    let n := s.groupSize w g.toNat
    if !s.mayName w g.toNat || n < 2 || 6 < n then s.trap Cause.prot (g.setWidth 64)
    else if w.counter .m ≠ 0 then s.stall .gang
    else s.retire .plain p fun w => { w with gang := some g.toNat }

/-! ### The queue (R250, R264) -/

/-- The operation is a SWAPS. -/
def MatKind.isSwaps : MatKind → Bool
  | .swaps => true
  | _ => false

/-- The operation is an LDSTAT. -/
def MatKind.isLoad : MatKind → Bool
  | .ldstat .. => true
  | _ => false

/-- The operation streams rows: MMA or RMMA. -/
def MatKind.streams : MatKind → Bool
  | .mma .. | .rmma .. => true
  | _ => false

/-- The rows that an operation streams (R253). -/
def MatKind.rows : MatKind → Nat
  | .mma _ m .. => rowsOf m
  | .rmma _ _ _ rows .. => rows
  | .ldstat .. | .swaps => 0

/-- Two operations belong to one gang and so share dependency slots (R251). -/
def MatOp.sameGang (a b : MatOp) : Bool := a.block == b.block && a.gang == b.gang && (a.gang.isSome || a.lead == b.lead)

/-- The core cycles that an operation has run (R253, R255). -/
def MatOp.elapsed (o : MatOp) (now : Nat) : Nat := if o.begun then o.ran + (now - o.beginAt) else 0

/-- An operation has begun and has passed its last row, or its last bytes (R250, R253). -/
def MatOp.passed (o : MatOp) (now : Nat) : Bool := o.begun && o.cycles ≤ o.elapsed now

/-- An operation of the array has run for its time: the rows of a product leave the array 24 cycles after the stream (R253). -/
def MatOp.ripe (o : MatOp) (now : Nat) : Bool := o.begun && (o.cycles + if o.kind.streams then 24 else 0) ≤ o.elapsed now

/-- The core cycles for which an operation that begins now holds the stream or the read port; 2 for SWAPS (R253, R266). -/
def MatKind.cycles (f : Nat → Byte) : MatKind → Nat
  | .swaps => 2
  | .ldstat k t _ _ _ => (bytesB t k + 255) / 256
  | .mma _ m .. => rowsOf m
  | .rmma _ _ t rows _ a kbase => rankCycles f (weightType t) rows a kbase

/-- An earlier operation holds back a later one: planes, the stream, and dependency slots (R250). An LDSTAT also waits for the read port of an
earlier one (log 19: DESIGN CHOICE). -/
def MatOp.holdsBack (now : Nat) (e o : MatOp) : Bool :=
  (e.kind.isSwaps || o.kind.isSwaps) || (e.kind.streams && o.kind.streams && !e.passed now) ||
    (e.kind.isLoad && o.kind.isLoad && !e.passed now) ||
    (e.sameGang o && match e.setSlot with
      | some d => o.waitMask.getLsbD d.toNat
      | none => false)

/-- A palette load of the block is issued before an RMMA that names the palette (R264). -/
def State.paletteBusy (s : State) (core : Nat) (o : MatOp) : Bool :=
  match o.kind with
  | .rmma _ p .. => (s.core core).rankq.any fun r => r.block == o.block && r.id < o.id && match r.kind with
      | .ldpal q _ => q == p
      | _ => false
  | _ => false

/-- The block's operations run: it is resident, or stopped by its launch's end or a debugger (R206, R285). -/
def State.blockRuns (s : State) (bi : Nat) : Bool := (s.block bi).status == .resident

/-- The operation at a place of a core's queue may begin (R241, R250, R264). -/
def State.mayBegin (s : State) (core k : Nat) : Bool :=
  let a := s.array core
  let now := s.cycle core
  match a.queue[k]? with
  | none => false
  | some o => !o.begun && s.blockRuns o.block && a.readyAt ≤ now && !((a.queue.take k).any fun e => e.holdsBack now o) && !s.paletteBusy core o

/-- An operation begins (R250, R253). -/
def MatOp.start (o : MatOp) (now cycles : Nat) : MatOp := { o with begun := true, beginAt := now, cycles := cycles }

/-- MATRIX_OP_BEGIN (R250). -/
def execMatrixOpBegin (core k : Nat) (s : State) : Out :=
  if s.mayBegin core k then
    let go := fun o : MatOp => o.start (s.cycle core) (o.kind.cycles (s.block o.block).scratch.get)
    (s.modArray core fun a => { a with queue := a.queue.modify k go }).done
  else s.done

/-- An earlier operation of the same unit has not completed: the streams end in order, and so do the loads (R253). -/
def MatOp.before (e o : MatOp) : Bool := (e.kind.streams && o.kind.streams) || (e.kind.isLoad && o.kind.isLoad)

/-- The operation at a place of a core's queue may complete (R253). -/
def State.mayEnd (s : State) (core k : Nat) : Bool :=
  let q := (s.array core).queue
  match q[k]? with
  | none => false
  | some o => o.begun && s.blockRuns o.block && !((q.take k).any fun e => e.before o)

/-- The output of an operation: the sums of the rows that it had streamed when it was frozen, and the others as they come (R158, R255). -/
def MatOp.resumed (o : MatOp) (val : Nat → Nat → Nat) (i j : Nat) : Nat :=
  match o.sums[i]? with
  | some r => r.getD j 0
  | none => val i j

/-- The output of a streaming operation by row and column; that of another is not asked. -/
def MatOp.output (o : MatOp) (b : Block) (pl : Plane) : Nat → Nat → Nat :=
  match o.kind with
  | .mma z m k t acc sp x => o.resumed (b.mmaOut pl z m k t acc sp x)
  | .rmma z p t _ acc x kb => o.resumed (b.rmmaOut pl z p t acc x kb)
  | .ldstat .. | .swaps => fun _ _ => 0

/-- The block once a streaming operation has left its output in the tiles (R245, R265). -/
def Block.applyMat (b : Block) (pl : Plane) (o : MatOp) : Block :=
  match o.kind with
  | .mma z m _ t .. => b.putRows z (rowsOf m) (t == .f64) (o.output b pl)
  | .rmma z _ _ rows .. => b.putRows z rows false (o.output b pl)
  | .ldstat .. | .swaps => b

/-- An operation frozen at a core cycle: the sums of the rows that it has streamed are kept (R158, R255). -/
def MatOp.freeze (o : MatOp) (now : Nat) (b : Block) (pl : Plane) : MatOp :=
  if !o.begun then o
  else
    let rows := List.range (min o.kind.rows (o.elapsed now))
    { o with ran := o.elapsed now, sums := rows.map fun i => (List.range 32).map fun j => o.output b pl i j }

/-- What a completed operation leaves (R243, R244, R245, R265). -/
def State.matEffect (s : State) (core : Nat) (o : MatOp) : State :=
  let a := s.array core
  match o.kind with
  | .swaps => s.modArray core fun a => { a with active := a.shadow, shadow := a.active }
  | .ldstat k t m b c => s.modArray core fun a => { a with shadow := loadPlane (s.block o.block).scratch.get t k m b c }
  | .mma .. | .rmma .. => s.modBlock o.block fun b => b.applyMat a.active o

/-- MATRIX_OP_COMPLETE (R253): the effect, the release of the slot, and M of every wave that counts it. -/
def execMatrixOpComplete (core k : Nat) (s : State) : Out :=
  match (s.array core).queue[k]? with
  | none => s.done
  | some o =>
    if s.mayEnd core k then
      let t := (s.matEffect core o).modArray core fun a => { a with queue := a.queue.eraseIdx k }
      ((o.waves.foldl (fun t wi => t.modWave wi fun w => w.opDone .m o.id) t).count (s.launch (s.block o.block).launch).func 0x0C
        (if o.kind.streams then o.cycles else 0)).done
    else s.done

end Sys2Proof.Machine
end

