-- ==== Sys2Proof/Machine/Tile.lean ====
section
/-! DEFINITION. The tile forms: ZZERO, ZRD, ZWR (R377, R380, R381), ZGIVE and ZTAKE (R378), ZLD and ZST with their completion (R379), under the
tokens of R247 and the element map of R248. -/

namespace Sys2Proof.Machine

/-- A ZLD or ZST of the block on a slot is outstanding (R248). -/
def State.slotBusy (s : State) (bi z : Nat) : Bool := s.xfers.any fun x => x.block == bi && x.z == z

/-- A tile form on a slot: PROT for an absent slot, then its own causes, then its token, then a wait for the slot's transfers, which stalls it for a
given reason (R248, R377). -/
def State.tileForm (s : State) (z : ZReg) (cause : Option (BitVec 8 × Word64)) (token : Bool) (r : Stall) (k : Wave → Out) : Out :=
  s.onWave fun w =>
    let b := s.blockOf w
    match orCause (b.slotCause z.toNat) (orCause cause (if token then b.tokenCause z.toNat false else none)) with
    | some (c, a) => s.trap c a
    | none => if s.slotBusy w.block z.toNat then s.stall r else k w

/-- ZZERO (R381). -/
def execZzero (p : Bool) (z : ZReg) (s : State) : Out :=
  s.tileForm z none true .tile fun w =>
    (s.modBlock w.block fun b => b.modTile z.toNat fun t => { t with words := List.replicate 1024 0 }).retire .plain p id

/-- The word of a slot that a lane of the `k`-th register of ZRD and ZWR names, for row `r` (R248). -/
def tileIndex (width r k l : Nat) : Nat :=
  if width = 64 then 32 * ((r + l / 32) % 32) + l % 32 else 32 * r + 16 * k + l

/-- The registers that a ZRD or ZWR covers: two at W = 16 (R248). -/
def tileRegs (width : Nat) : Nat := if width = 16 then 2 else 1

/-- The row of a ZRD or ZWR: bits [4:0] of a scalar (R380). -/
def Wave.tileRow (w : Wave) (r : SReg) : Nat := (w.s r).toNat % 32

/-- ZRD (R380): its result is written 8 core cycles later (R253). -/
def execZrd (p : Bool) (z : ZReg) (r : SReg) (v : VReg) (s : State) : Out :=
  s.tileForm z none true .tile fun w =>
    let t := (s.blockOf w).tile z.toNat
    s.retire .plain p fun w => w.laterAt (s.cycle (s.coreOf w) + 8) ((List.range (tileRegs w.width)).map fun k =>
      w.lanesOf (v.toNat + k) fun l => t.words.getD (tileIndex w.width (w.tileRow r) k l) 0)

/-- The words of a tile with the lanes of some registers written (R380). -/
def Wave.tileWords (w : Wave) (r v : Nat) (words : List Word) : List Word :=
  (List.range (tileRegs w.width)).foldl (fun ws k =>
    w.active.foldl (fun ws l => ws.set (tileIndex w.width r k l) (w.vn (v + k) l)) ws) words

/-- ZWR (R380). -/
def execZwr (p : Bool) (z : ZReg) (r : SReg) (v : VReg) (s : State) : Out :=
  s.tileForm z none true .tile fun w =>
    (s.modBlock w.block fun b => b.modTile z.toNat fun t => { t with words := w.tileWords (w.tileRow r) v.toNat t.words }).retire .plain p id

/-- The state with a slot's token moved. -/
def State.setToken (s : State) (w : Wave) (z : Nat) (matrix : Bool) : State :=
  s.modBlock w.block fun b => b.modTile z fun t => { t with matrix := matrix }

/-- ZGIVE (R378). -/
def execZgive (p : Bool) (z : ZReg) (s : State) : Out :=
  s.tileForm z none false .tile fun w => (s.setToken w z.toNat true).retire .plain p id

/-- A matrix operation of the block that writes a slot has not completed (R248). -/
def State.slotWritten (s : State) (w : Wave) (z : Nat) : Bool :=
  (s.array (s.coreOf w)).queue.any fun o => o.block == w.block && o.kind.slots.contains z

/-- ZTAKE (R378). -/
def execZtake (p : Bool) (z : ZReg) (s : State) : Out :=
  s.tileForm z none false .ztake fun w =>
    if s.slotWritten w z.toNat then s.stall .ztake else (s.setToken w z.toNat false).retire .plain p id

/-- The cause of the address of a ZLD or ZST (R379). -/
def tileAddrCause (b : Word64) : Option (BitVec 8 × Word64) :=
  if b.toNat / 2 ^ 52 ≠ 0 then some (Cause.prot, b) else if b.toNat % 128 ≠ 0 then some (Cause.misalign, b) else none

/-- ZLD and ZST at issue: the checks of R379 before the token, and the transfer in flight. -/
def State.transfer (s : State) (i : Instr) (p : Bool) (z : ZReg) (r : SReg) (isLoad : Bool) : Out :=
  s.onWave fun w =>
    let b := s.blockOf w
    let a := w.s64 r
    match orCause (b.slotCause z.toNat) (tileAddrCause a) with
    | some (c, x) => s.trap c x
    | none =>
      let cs := s.checkRange w (if isLoad then .load else .store) a.toNat 4096
      s.afterRange i w cs fun s as =>
        match b.tokenCause z.toNat false with
        | some (c, x) => s.trap c x
        | none =>
          if s.slotBusy w.block z.toNat then s.stall .tile
          else if !isLoad && s.keepPending s.issuing then s.stall .keep
          else
            let keep := !isLoad && as.any fun x => x.leaf.keep
            { s with xfers := s.xfers ++ [XferOp.mk s.nextOp s.issuing w.block z.toNat isLoad a.toNat (mapOf as) keep w.sf],
                     nextOp := s.nextOp + 1 }.retire .plain p id

/-- ZLD (R379). -/
def execZld (p : Bool) (z : ZReg) (r : SReg) (s : State) : Out := s.transfer (.zld p z r) p z r true

/-- ZST (R379). -/
def execZst (p : Bool) (z : ZReg) (r : SReg) (s : State) : Out := s.transfer (.zst p z r) p z r false

/-- The physical addresses of a transfer. -/
def XferOp.phys (x : XferOp) : List Nat := (List.range 4096).map fun k => mapAddr x.map ((x.addr + k) % 2 ^ 52)

/-- The words of 4,096 bytes (R248). -/
def wordsOfBytes (bs : List Byte) : List Word := (List.range 1024).map fun i => BitVec.ofNat 32 (leNat (fun k => bs.getD k 0) (4 * i) 4)

/-- The bytes of a tile (R248). -/
def bytesOfWords (ws : List Word) : List Byte := ws.flatMap fun x => (leBytes 0 x.toNat 4).map fun b => b.2

/-- A transfer moves its bytes and completes (R379). -/
def State.finishXfer (s : State) (x : XferOp) : State :=
  let b := s.block x.block
  let y : State × Stamp :=
    if x.isLoad then
      let r := s.engineRead (s.launch b.launch).func x.map x.phys
      (r.1.modBlock x.block fun b => b.modTile x.z fun t => { t with words := wordsOfBytes r.2.1 }, r.2.2)
    else s.engineWrite b.core (s.launch b.launch).func x.map x.sf (zipBytes x.phys (bytesOfWords (b.tile x.z).words))
  { y.1 with xfers := y.1.xfers.filter fun z => z.id != x.id }.modWave x.wave fun w => w.raise y.2

/-- A transfer's accesses can be performed now; the state after the recalls comes with the answer. -/
def State.xferReady (s : State) (x : XferOp) : State × Bool :=
  s.engineReady (s.block x.block).core (if x.isLoad then x.phys else []) (if x.isLoad then [] else x.phys)

/-- TILE_TRANSFER_COMPLETE (R379): a transfer whose accesses must wait stays in flight. -/
def execTileTransferComplete (op : Nat) (s : State) : Out :=
  match s.xfers.find? fun x => x.id == op with
  | none => s.done
  | some x =>
    let y := s.xferReady x
    if y.2 then (y.1.finishXfer x).done else y.1.done

end Sys2Proof.Machine
end

