-- ==== Sys2Proof/Machine/History.lean ====
section
/-! DEFINITION. History: horizon raises and their acknowledgements (R230 to R232), the log shares (R228, R229, R231), and the registration of
KEEP pages (R222, R382). -/

namespace Sys2Proof.Machine

/-! ### What raises rest on -/

/-- The error report of R11, R50, R100, R275, R278 and R384: a message to the PF (R289). -/
def State.report (s : State) : State := s.interrupt Config.pf 4

/-- The device presents the function: in recovery only the PF (R279). -/
def State.presents (s : State) (f : Nat) : Bool := !s.recovery || f == Config.pf

/-- The device accepts requests of its functions: in recovery it accepts a new image alone (R279). -/
def State.accepts (s : State) : Bool := !s.recovery

/-- What a function asks of the device, where the device accepts it (R279). -/
def State.whenAccepted (s : State) (k : Out) : Out := if s.accepts then k else s.done

/-- A register that only the PF writes: a write by a VF of its own is ignored and reported (R11). -/
def State.onlyPF (s : State) (byFunc func : Nat) (k : State → State) : Out :=
  if !s.accepts then s.done
  else if byFunc = Config.pf then (k s).done
  else if byFunc = func then s.report.done
  else s.done

/-- NOW: the stamp with the largest home count (R229). -/
def State.nowStamp (s : State) : Stamp := stampOf (s.towers.foldl (fun m t => max m t.count) 0) 0

/-- The lesser of two stamps. -/
def minStamp (a b : Stamp) : Stamp := if b.ult a then b else a

/-- The smallest stamp of the outstanding as-of loads of a wave; all ones for none. -/
def Wave.oldestAsof (w : Wave) : Stamp :=
  w.pending.foldl (fun m p => match p.tag with
    | .asof _ at_ => minStamp m at_
    | _ => m) (-1)

/-- A block's function. -/
def State.funcOfBlock (s : State) (b : Block) : Nat := (s.launch b.launch).func

/-- A block holds resources of its core: it runs, or is stopped and not yet freed (R206). -/
def Block.holds (b : Block) : Bool := b.status == .resident || b.status == .stopped

/-- The smallest stamp of the as-of loads in the record of a wave, answered before it was taken or not; all ones for none (R80, R232). -/
def Wave.savedAsof (w : Wave) : Stamp :=
  w.pending.foldl (fun m p => match p.load with
    | some l => minStamp m (l.asof.getD (-1))
    | none => m) (-1)

/-- SavedFloor: the smallest stamp of a saved as-of load of an evicted block of the function (R232). -/
def State.savedFloor (s : State) (f : Nat) : Stamp :=
  s.blocks.foldl (fun m b =>
    if b.status == .saved && s.funcOfBlock b == f then b.waves.foldl (fun m i => minStamp m (s.wave i).savedAsof) m else m) (-1)

/-- The cores that hold a block of the function. -/
def State.coresOf (s : State) (f : Nat) : List Nat :=
  (List.range s.cores.length).filter fun c => s.blocks.any fun b => b.core == c && b.holds && s.funcOfBlock b == f

/-- A core's HZcopy of a function set (R230). -/
def Core.setHz (c : Core) (f : Nat) (h : Stamp) : Core := { c with hz := (f, h) :: c.hz.filter fun x => x.1 != f }

/-- A core's HZcopy follows FHZ again (R230). -/
def Core.dropHz (c : Core) (f : Nat) : Core := { c with hz := c.hz.filter fun x => x.1 != f }

/-! ### Log shares (R228, R229, R231) -/

/-- The records of a function in a home's share. -/
def State.shareOf (s : State) (f t : Nat) : List Version := (s.tower t).log.filter fun v => v.func == f

/-- The smallest stamp of a home's records of a function; none without records. -/
def oldestRecord : List Version → Option Stamp
  | [] => none
  | v :: r => match oldestRecord r with
    | none => some v.stamp
    | some m => some (minStamp v.stamp m)

/-- A stamp put into a rising list. -/
def insertStamp (x : Stamp) : List Stamp → List Stamp
  | [] => [x]
  | y :: r => if x.ult y then x :: y :: r else y :: insertStamp x r

/-- Stamps in rising order. -/
def sortStamps (l : List Stamp) : List Stamp := l.foldr insertStamp []

/-- The smallest stamp whose raise frees at least 1/16 of the share (R231). -/
def State.advanceTarget (s : State) (f t : Nat) : Option Stamp :=
  let stamps := sortStamps ((s.shareOf f t).map fun v => v.stamp)
  let need := ((s.func f).hlogQuota / 4 * 4096 + 143) / 144
  match stamps[max need 1 - 1]? with
  | some x => some x
  | none => stamps.getLast?

/-- A wave waits for records of a share of a function's log: its word that stalled, or an access that has waited on its order (R180, R231). -/
def State.waveWaitsLog (s : State) (f t wi : Nat) : Bool :=
  let w := s.wave wi
  !w.ended && ((match w.stall with
    | .log lines => s.shortLines f t lines
    | _ => false) || w.holds.any fun h => ((s.holdLines wi h).map (s.shortLines f t)).getD false)

/-- A word or a tile store waits for several records of a share of a function's log (R231). Copies and flushes wait for one record at a time. -/
def State.logWaiting (s : State) (f t : Nat) : Bool :=
  ((List.range s.waves.length).any (s.waveWaitsLog f t)) ||
    s.xfers.any fun x => x.keep && !x.isLoad && s.shortLines f t (distinct (x.phys.map lineOf))

/-- A home's share of the function's log is full: it has no room for a record, or for those that one access needs (R231). -/
def State.shareShort (s : State) (f t : Nat) : Bool := !s.logRoom f t 1 || s.logWaiting f t

/-- HOLD or SavedFloor lies below every record of a share, so that no raise frees one (R231). -/
def State.shareStuck (s : State) (f t : Nat) : Bool := match oldestRecord (s.shareOf f t) with
  | none => false
  | some x => (minStamp (s.func f).hold (s.savedFloor f)).ult x

/-- A raise of a full share that HOLD or SavedFloor clamps so far that it has freed nothing sets STALL and interrupts (R231). -/
def State.noteStall (s : State) (f : Nat) (r : Raise) (freed : Bool) : State :=
  match r.tower with
  | none => s
  | some t => if !freed && s.shareStuck f t && s.shareShort f t then (s.modFunc f fun r => { r with hStall := true }).interrupt f 0 else s

/-- A wave's oldest outstanding raise is complete: its result may return (R89, R342). -/
def completeRaise : List Pending → List Pending
  | [] => []
  | p :: r => if p.tag = .raise then { p with tag := .ready } :: r else p :: completeRaise r

/-- A raise ends: the wave that asked for it goes on, and a full share of which it has freed nothing may have stalled (R230, R231, R342). -/
def State.endRaise (s : State) (f : Nat) (r : Raise) (freed : Bool) : State :=
  let s := match r.wave with
    | some wi => s.modWave wi fun w => { w with pending := completeRaise w.pending }
    | none => s
  s.noteStall f r freed

/-- The agent begins the first waiting raise: to no stamp above HZ it completes at once, else it is announced to every core that holds a
block of the function (R230). -/
def State.beginRaise (s : State) (f : Nat) : State :=
  let fn := s.func f
  match fn.raising, fn.raises with
  | none, r :: rest =>
    let h := minStamp (minStamp r.h fn.hold) (minStamp (s.savedFloor f) s.nowStamp)
    let s := s.modFunc f fun g => { g with raises := rest }
    if fn.hz.ult h then
      let cs := s.coresOf f
      let s := cs.foldl (fun s c => s.modCore c fun x => x.setHz f h) s
      s.modFunc f fun g => { g with raising := some { r with h := h }, acks := cs }
    else s.endRaise f r false
  | _, _ => s

/-- HORIZON_RAISE (R230): the PF asks for a raise, or the agent takes up the next. -/
def execHorizonRaise (func : Nat) (byPF : Option Stamp) (s : State) : Out :=
  match byPF with
  | some h => ((s.modFunc func fun g => { g with raises := g.raises ++ [⟨h, none, none⟩] }).beginRaise func).done
  | none => (s.beginRaise func).done

/-- A core has no outstanding as-of read of the function below a stamp: a load that waits, or a copy (R230, R233). -/
def State.asofQuiet (s : State) (f core : Nat) (h : Stamp) : Bool :=
  (s.blocks.all fun b =>
    !(b.core == core && b.holds && s.funcOfBlock b == f) || b.waves.all fun i => !(s.wave i).oldestAsof.ult h) &&
  s.copies.all fun c => !(c.kind == 4 && (s.block c.block).core == core && s.funcOfBlock (s.block c.block) == f && c.stamp.ult h)

/-- HORIZON_ANNOUNCE_ACK (R230): a core acknowledges once its as-of reads below the announced stamp have returned. -/
def execHorizonAnnounceAck (func core : Nat) (s : State) : Out :=
  match (s.func func).raising with
  | none => s.done
  | some r =>
    if s.asofQuiet func core r.h then (s.modFunc func fun g => { g with acks := g.acks.filter fun c => c != core }).done
    else s.done

/-- HZ lies above the guaranteed window: above the stamp with COUNT = NOW.COUNT - WINDOW (R231). -/
def State.pastWindow (s : State) (f : Nat) (h : Stamp) : Bool :=
  decide (s.nowStamp.toNat < h.toNat + 4 * (s.func f).hwmin)

/-- The records of a function at or below a stamp are freed (R228, R230). -/
def State.freeRecords (s : State) (f : Nat) (h : Stamp) : State :=
  { s with towers := s.towers.map fun t => { t with log := t.log.filter fun v => !(v.func == f && !h.ult v.stamp) } }

/-- Raising the horizon to a stamp frees a record of the share for which the raise was asked (R228, R231). -/
def State.raiseFrees (s : State) (f : Nat) (h : Stamp) (r : Raise) : Bool :=
  (r.tower.map fun t => (s.shareOf f t).any fun v => !h.ult v.stamp).getD false

/-- HORIZON_RAISE_COMPLETE (R230): every acknowledgement has arrived. HZ is set as far as HOLD and SavedFloor now allow, the cores take it,
the homes free records, and a raise beyond the window is reported (R231). -/
def execHorizonRaiseComplete (func : Nat) (s : State) : Out :=
  let fn := s.func func
  match fn.raising with
  | none => s.done
  | some r =>
    if !fn.acks.isEmpty then s.done
    else
      let h := maxStamp fn.hz (minStamp r.h (minStamp fn.hold (s.savedFloor func)))
      let breach := s.pastWindow func h
      let freed := s.raiseFrees func h r
      let s := s.modFunc func fun g => { g with hz := h, raising := none, hBreach := g.hBreach || breach }
      let s := { s with cores := s.cores.map fun c : Core => c.dropHz func }
      let s := if breach then s.interrupt func 0 else s
      (((s.freeRecords func h).endRaise func r freed).beginRaise func).done

/-- A raise for a tower's share waits or is under way. -/
def Func.asked (g : Func) (t : Nat) : Bool :=
  (g.raises.any fun r => r.tower == some t) || match g.raising with
    | some r => r.tower == some t
    | none => false

/-- HOLD or SavedFloor keeps every record of a share that has stalled (R231). -/
def State.stalledShare (s : State) (f t : Nat) : Bool := (s.func f).hStall && s.shareStuck f t

/-- A home asks for the raise that frees at least 1/16 of its share (R231). -/
def State.askRaise (s : State) (f t : Nat) : State :=
  match s.advanceTarget f t with
  | none => s
  | some h => (s.modFunc f fun g => { g with raises := g.raises ++ [⟨h, none, some t⟩] }).beginRaise f

/-- LOG_SHARE_FULL (R231): a home whose share is full asks for a raise; where none can free anything, it has stalled. -/
def execLogShareFull (func tower : Nat) (s : State) : Out :=
  if !s.shareShort func tower || (s.func func).asked tower || s.stalledShare func tower then s.done else (s.askRaise func tower).done

/-- Each home tries the function's waiting events again at once: it performs those that have room, and where its share is full it asks for a raise
(R231). -/
def State.retryShares (s : State) (f : Nat) : State :=
  (List.range s.towers.length).foldl (fun s t => if s.shareShort f t && !(s.func f).asked t then s.askRaise f t else s)
    (s.performWhere fun r => match s.keepOf r.line with
      | some k => k.func == f
      | none => false)

/-! ### Registration (R222, R382) -/

/-- A request for a page is taken up; a write while BUSY is 1 is ignored (R229). -/
def State.keepAsk (s : State) (func : Nat) (value : Word64) (end_ : Bool) : State :=
  if (s.func func).keepBusy then s
  else s.modFunc func fun g => { g with
    keepBusy := true, keepReq := ((value >>> 16).setWidth 36).toNat, keepOp := end_ }

/-- KEEP_REGISTER (R222): FKEEPREQ with OP = 0. -/
def execKeepRegister (func : Nat) (value : Word64) (s : State) : Out := s.whenAccepted (s.keepAsk func value false).done

/-- KEEP_END (R222): FKEEPREQ with OP = 1. -/
def execKeepEnd (func : Nat) (value : Word64) (s : State) : Out := s.whenAccepted (s.keepAsk func value true).done

/-- The answer of a request. -/
def State.keepAnswer (s : State) (func result : Nat) (ks : Stamp) : State :=
  s.modFunc func fun g => { g with keepBusy := false, keepResult := result, keepKs := ks }

/-- The page is registered at its home: KS is the stamp that an event of this cycle would receive (R222). -/
def State.register (s : State) (func page : Nat) : State :=
  let t := homeOf (page * 65536)
  let ks := stampOf (max (s.tower t).count 1) t
  (s.modTower t fun w => { w with keeps := ⟨page, func, ks, []⟩ :: w.keeps, count := max w.count 1 }).keepAnswer func 1 ks

/-- The page's registration ends, and its versions are freed (R222). -/
def State.unregister (s : State) (page : Nat) : State :=
  s.modTower (homeOf (page * 65536)) fun w => { w with
    keeps := w.keeps.filter fun k => k.page != page, log := w.log.filter fun v => v.line / 65536 != page }

/-- KEEP_REQUEST_COMPLETE (R222, R382): only the function's own pages; OP = 0 without a quota is refused, but on a page that is registered it
changes nothing whatever the quota (R229, log 28: DESIGN CHOICE). -/
def execKeepRequestComplete (func : Nat) (s : State) : Out :=
  let g := s.func func
  if !g.keepBusy then s.done
  else if !s.owns func (g.keepReq * 65536) 65536 then (s.keepAnswer func 3 g.keepKs).done
  else match g.keepOp, s.keepOf (g.keepReq * 65536) with
    | false, some k => (s.keepAnswer func 1 k.ks).done
    | false, none => if g.hlogQuota = 0 then (s.keepAnswer func 4 g.keepKs).done else (s.register func g.keepReq).done
    | true, some _ => ((s.unregister g.keepReq).keepAnswer func 2 g.keepKs).done
    | true, none => (s.keepAnswer func 2 g.keepKs).done

/-! ### The history registers -/

/-- FHOLD_WRITE (R229, R231): a write below HZ stores HZ, and the homes try again. -/
def execFholdWrite (func : Nat) (value : Word64) (s : State) : Out :=
  s.whenAccepted ((s.modFunc func fun g => { g with hold := maxStamp value g.hz }).retryShares func).done

/-- FHLOGQ_WRITE (R229, R231): the value rounded down to a multiple of 4, and the homes try again. -/
def execFhlogqWrite (byFunc func : Nat) (value : Word) (s : State) : Out :=
  s.onlyPF byFunc func fun s => (s.modFunc func fun g => { g with hlogQuota := value.toNat / 4 * 4 }).retryShares func

/-- The function has a registered page. -/
def State.hasKeeps (s : State) (f : Nat) : Bool := s.towers.any fun t => t.keeps.any fun k => k.func == f

/-- FHLOGB_WRITE (R231): ignored while the function has a registered page. -/
def execFhlogbWrite (byFunc func : Nat) (value : Word64) (s : State) : Out :=
  s.onlyPF byFunc func fun s =>
    if s.hasKeeps func then s else s.modFunc func fun g => { g with hlogBase := ((value >>> 16).setWidth 36).toNat }

end Sys2Proof.Machine
end

