-- ==== Sys2Proof/Machine/Distributor.lean ====
section
/-! DEFINITION. The work distributor: launch queues (R49, R50), descriptors and their checks (R51 to R54, R36, R59, R64, R384), released blocks
(R58, R60, R65, R69), ageing (R69, R71), and the end of a launch (R54, R61, R206). -/

namespace Sys2Proof.Machine

/-! ### Accesses of the work distributor through a function's page tables (R384) -/

/-- What a translation for the work distributor gives: a physical address and the key of its page, or the cause that an access would trap (R163,
R384). -/
def State.sysCheck (s : State) (f va : Nat) (write : Bool) : Except (BitVec 8) (Nat × Nat) :=
  match s.walk f va with
  | .ok page l =>
    if s.keyOk f l.key && s.peerOk f (page * 65536) && l.rd && (!write || (l.w && !s.verifiedPage page)) then
      .ok (page * 65536 + va % 65536, l.key)
    else .error Cause.prot
  | _ => .error Cause.page

/-- The physical address of a virtual address of the function, with the key of its page; none where it may not be used. -/
def State.sysAddr (s : State) (f va : Nat) (write : Bool) : Option (Nat × Nat) := (s.sysCheck f (va % 2 ^ 52) write).toOption

/-- A translation for a range must wait: it meets a page-table entry that is pinned (R187). -/
def State.walkWaits (s : State) (f va n : Nat) : Bool := (pageStarts (va % 2 ^ 52) n).any fun a => s.walk f (a % 2 ^ 52) == .wait

/-- A read of a range through the function's page tables must wait: its translation, or its bytes, meet a pin (R187). -/
def State.sysWaits (s : State) (f va n : Nat) : Bool :=
  s.walkWaits f va n || s.pinned ((List.range n).filterMap fun k => (s.sysAddr f (va + k) false).map fun x => x.1)

/-- Every byte of a range may be used: each page that it meets (R384). -/
def State.sysOk (s : State) (f va n : Nat) (write : Bool) : Bool :=
  (pageStarts (va % 2 ^ 52) n).all fun a => (s.sysAddr f a write).isSome

/-- A byte read at the home through the function's page tables; 0 where it may not be read. -/
def State.sysByte (s : State) (f va : Nat) : Byte :=
  match s.sysAddr f va false with
  | some (a, key) => s.peekBy key a
  | none => 0

/-- The physical bytes of a write through the function's page tables. -/
def State.sysBytes (s : State) (f va : Nat) (bs : List Byte) : List (Nat × Byte) :=
  (placeBytes va bs).filterMap fun x => (s.sysAddr f x.1 true).map fun a => (a.1, x.2)

/-- The pages of a write through the function's page tables. -/
def State.sysPages (s : State) (f va n : Nat) : List PageUse :=
  (pageStarts (va % 2 ^ 52) n).filterMap fun a => (s.sysAddr f a true).map fun x => ⟨a / 65536, x.1 / 65536, x.2⟩

/-- The lines of some bytes. -/
def byteLines (bs : List (Nat × Byte)) : List Nat := distinct (bs.map fun b => lineOf b.1)

/-- A write would wait at a home: its bytes are pinned, or a log is full (R187, R231). -/
def State.sysHeld (s : State) (bs : List (Nat × Byte)) : Bool := s.pinned (bs.map fun b => b.1) || s.logFull (byteLines bs)

/-- A write of the function at the homes, line by line: one store event each, under the keys of its pages (R163, R214). -/
def State.sysWrite (s : State) (f : Nat) (m : List PageUse) (bs : List (Nat × Byte)) (floor : Stamp) : State :=
  (State.engineEvents f m floor bs (byteLines bs) s).1

/-- A write of the function is sent to the homes, a request for each line, under the keys of its pages; each waits there for a pin or for a record
(R163, R187, R231). The numbers of the requests are handed on. -/
def State.sysSend (s : State) (f : Nat) (m : List PageUse) (bs : List (Nat × Byte)) (floor : Stamp) : State × List Nat :=
  let lines := byteLines bs
  (lines.foldl (fun t l => (t.send ⟨0, none, f, l, bs.filter fun b => lineOf b.1 == l, floor, keyIn m (l / 65536), .dflt, [], .store,
    .other⟩).flushLine l) s, (List.range lines.length).map fun k => s.nextReq + k)

/-- Some of a list of requests wait at their homes. -/
def State.waiting (s : State) (ids : List Nat) : Bool := s.reqs.any fun r => ids.contains r.id

/-- A byte list of a number, least significant first. -/
def natBytes (x n : Nat) : List Byte := (leBytes 0 x n).map fun b => b.2

/-- A byte list of some length. -/
def fixBytes (n : Nat) (l : List Byte) : List Byte := (l ++ List.replicate n 0).take n

/-- The bytes of some numbers of one size. -/
def wordsBytes (size : Nat) (xs : List Nat) : List Byte := xs.flatMap fun x => natBytes x size

/-! ### Completion records (R54) -/

/-- The bytes of a launch's completion record (R54). -/
def Launch.record (l : Launch) (seq : Nat) : List Byte :=
  natBytes (l.status.code.toNat + 256 * l.cause.toNat) 4 ++ natBytes 0 4 ++ natBytes seq 8 ++ natBytes l.pc 8 ++ natBytes l.block 8

/-- The bytes that the record of a launch writes. -/
def State.recordBytes (s : State) (li : Nat) : List (Nat × Byte) :=
  let l := s.launch li
  s.sysBytes l.func l.desc.crec (l.record li)

/-- The completion record of a launch waits at its home (R187, R231). -/
def State.recordHeld (s : State) (li : Nat) : Bool :=
  s.walkWaits (s.launch li).func (s.launch li).desc.crec 32 || s.sysHeld (s.recordBytes li)

/-- The completion record of a launch is written; a write that fails is dropped and reported (R54, R384). -/
def State.writeRecord (s : State) (li : Nat) : State :=
  let l := s.launch li
  if s.sysOk l.func l.desc.crec 32 true then
    s.sysWrite l.func (s.sysPages l.func l.desc.crec 32) (s.recordBytes li) (s.func l.func).floor
  else s.report

/-- The final record is written, and the launch is closed (R54). -/
def State.closeLaunch (s : State) (li : Nat) : State := (s.writeRecord li).modLaunch li fun l => { l with closed := true }

/-! ### Queues (R49, R50) -/

/-- A queue of a function. -/
def State.queue (s : State) (f q : Nat) : Queue := (s.func f).queues.getD q default

/-- The state with a queue changed. -/
def State.modQueue (s : State) (f q : Nat) (g : Queue → Queue) : State :=
  s.modFunc f fun r => { r with queues := r.queues.modify q g }

/-- DOORBELL (R50): TAIL modulo the number of slots; a queue that stopped at a slot is read again. -/
def execDoorbell (func queue : Nat) (value : Word) (s : State) : Out :=
  s.whenAccepted (s.modQueue func queue fun q => { q with tail := value.toNat % 65536 % 2 ^ q.log2, stopped := false }).done

/-- QSIZE_WRITE (R49): LOG2, at least 4, by the owning function or the PF. -/
def execQsizeWrite (byFunc func queue : Nat) (value : Word) (s : State) : Out :=
  if s.accepts && (byFunc == func || byFunc == Config.pf) then
    (s.modQueue func queue fun q => { q with log2 := max 4 (value.toNat % 16) }).done
  else s.done

/-- QCEIL_WRITE (R49, R71): by the PF alone; every launch of the queue above the new CEIL takes it. -/
def execQceilWrite (byFunc func queue : Nat) (value : Word) (s : State) : Out :=
  s.onlyPF byFunc func fun s =>
    let c := value.toNat % 8
    let s := s.modQueue func queue fun q => { q with ceil := c }
    { s with launches := s.launches.map fun l => if l.func = func ∧ l.queue = queue then l.relevel s.dieCycles (min l.lvl c) else l }

/-! ### Descriptors (R52, R53) -/

/-- Bits of a number. -/
def bitsOf (x lo n : Nat) : Nat := x / 2 ^ lo % 2 ^ n

/-- A two's-complement field of a number. -/
def sbitsOf (x lo n : Nat) : Int := (BitVec.ofNat n (bitsOf x lo n)).toInt

/-- The dependence vectors of the field at 0x48: z, y and x of five bits each (R52). -/
def depVectors (x : Nat) : Nat → List (Int × Int × Int)
  | 0 => []
  | n + 1 => (sbitsOf x 0 5, sbitsOf x 5 5, sbitsOf x 10 5) :: depVectors (x / 2 ^ 15) n

/-- W of a WIDTH code; 0 for the invalid code (R52). -/
def widthOf : Nat → Nat
  | 0 => 16
  | 1 => 32
  | 2 => 64
  | _ => 0

/-- The descriptor whose 64-bit words are given by offset (R52). -/
def parseDesc (q : Nat → Nat) : Desc where
  entry := q 0x00
  args := BitVec.ofNat 64 (q 0x08)
  trapVec := q 0x10
  groups := q 0x18
  cbmp := q 0x20
  crec := q 0x28
  scratch := bitsOf (q 0x30) 21 6
  tiles := bitsOf (q 0x30) 16 5
  width := widthOf (bitsOf (q 0x30) 14 2)
  nwaves := bitsOf (q 0x30) 8 6
  vregs := bitsOf (q 0x30) 0 8
  umap := (q 0x30).testBit 45
  ups := (q 0x30).testBit 44
  ndep := bitsOf (q 0x30) 41 3
  morder := bitsOf (q 0x30) 39 2
  prio := bitsOf (q 0x30) 36 3
  dbg := (q 0x30).testBit 35
  hown := (q 0x30).testBit 34
  sweep := (q 0x30).testBit 33
  cores := (q 0x30).testBit 32
  func := bitsOf (q 0x38) 0 8
  gridX := bitsOf (q 0x40) 0 16
  gridY := bitsOf (q 0x40) 16 16
  gridZ := bitsOf (q 0x38) 32 8
  mkx := bitsOf (q 0x40) 32 16
  mky := bitsOf (q 0x40) 48 16
  depv := depVectors (q 0x48) (min 4 (bitsOf (q 0x30) 41 3))
  rel := (q 0x50).testBit 63
  upSeq := bitsOf (q 0x50) 0 63
  ox := sbitsOf (q 0x58) 16 16
  oy := sbitsOf (q 0x58) 32 16
  txm1 := bitsOf (q 0x58) 8 4
  tym1 := bitsOf (q 0x58) 12 4
  sx := bitsOf (q 0x58) 0 4
  sy := bitsOf (q 0x58) 4 4
  reserved :=
    bitsOf (q 0x30) 27 5 != 0 || bitsOf (q 0x30) 46 18 != 0 || bitsOf (q 0x38) 8 24 != 0 || bitsOf (q 0x38) 40 24 != 0 ||
    bitsOf (q 0x48) 60 4 != 0 || bitsOf (q 0x58) 48 16 != 0 || q 0x60 != 0 || q 0x68 != 0 || q 0x70 != 0 || q 0x78 != 0 ||
    (!(q 0x30).testBit 44 && q 0x50 != 0) || q 0x48 / 2 ^ (15 * min 4 (bitsOf (q 0x30) 41 3)) != 0 ||
    (!(q 0x30).testBit 45 && q 0x58 != 0)

/-- The FUNC code of a function (R52). -/
def funcCode (f : Nat) : Nat := if f = Config.pf then 0xFF else f

/-- Blocks of a launch (R55). -/
def Desc.total (d : Desc) : Nat := d.gridX * d.gridY * d.gridZ

/-- Bytes of the completion bitmap (R55). -/
def Desc.bitmapBytes (d : Desc) : Nat := 8 * ((d.total + 63) / 64)

/-- Waves of one partition that a partition holds at most (R19). -/
def Desc.waveCap (d : Desc) : Nat := min Config.slotsPerPartition (Config.laneRegs / (d.width * d.vregs))

/-- `k` blocks of a launch fit on one empty core: their waves spread over the partitions as evenly as the starting partitions allow (R18, R19,
R64, R165). -/
def Desc.fitEmpty (d : Desc) (k : Nat) : Bool :=
  k ≤ Config.residentBlocks && k * d.scratch ≤ Config.scratchWays && k * d.tiles ≤ Config.tileSlots && (k * d.nwaves + 3) / 4 ≤ d.waveCap

/-- Blocks of a launch that fit on one empty core. -/
def Desc.perCore (d : Desc) : Nat := ((List.range 9).filter fun k => d.fitEmpty k).foldl max 0

/-- The cores of a function's partition (R64, R275). -/
def State.partition (s : State) (f : Nat) : List Nat :=
  (List.range Config.cores).filter fun c => ((s.func f).cores.getD (c / 64) 0).getLsbD (c % 64)

/-- The first two rows of R53 that need no other state. -/
def Desc.badFlags (d : Desc) (s : State) (f : Nat) : Bool :=
  d.reserved || d.morder == 3 || 4 < d.ndep || (0 < d.ndep && !d.sweep) || (d.cores && d.sweep) ||
  (d.morder == 0 && (d.mkx != 0 || d.mky != 0)) || (d.morder != 0 && (d.mkx == 0 || d.mky == 0)) ||
  d.func != funcCode f || (d.hown && !(s.func f).hownEn) || (d.umap && !d.ups)

/-- The conditions of REJECT_SHAPE (R32, R53). -/
def Desc.badShape (d : Desc) : Bool :=
  d.width == 0 || d.vregs < 8 || 128 < d.vregs || d.vregs % 8 != 0 || d.nwaves == 0 || 32 < d.nwaves ||
  Config.laneRegs < (d.nwaves + 3) / 4 * d.width * d.vregs || d.total == 0 || 16 < d.tiles || 32 < d.scratch ||
  d.entry % 4 != 0 || d.trapVec % 4 != 0 || d.crec % 32 != 0 || d.cbmp % 8 != 0 || (d.cbmp == 0 && d.sweep)

/-- A 32-bit word read through the function's page tables. -/
def State.sysWord (s : State) (f va : Nat) : Word := BitVec.ofNat 32 (leNat (s.sysByte f) va 4)

/-- A wave is a member of more than four of the groups (R36). -/
def overMember (ms : List Word) (i : Nat) : Bool := decide (4 < (ms.filter fun m => m.getLsbD i).length)

/-- The group table: the MEMBERS words, or none where the launch is rejected (R35, R36, R53). -/
def State.readGroups (s : State) (f : Nat) (d : Desc) : Option (List Word) :=
  if d.groups = 0 then some []
  else if !s.sysOk f d.groups 4 false then none
  else
    let w0 := (s.sysWord f d.groups).toNat
    if w0 = 0 ∨ 256 < w0 ∨ !s.sysOk f d.groups (4 * w0) false then none
    else
      let ms := (List.range (w0 - 1)).map fun g => s.sysWord f (d.groups + 4 * (g + 1))
      if (ms.any fun m => m == 0 || 2 ^ d.nwaves ≤ m.toNat) || (List.range d.nwaves).any (overMember ms) then none else some ms

/-- A dependence vector that REJECT_CYCLE refuses (R7, R53). -/
def badVector (v : Int × Int × Int) : Bool :=
  v.1 == -16 || v.2.1 == -16 || v.2.2 == -16 || 0 < v.2.2 || (v.2.2 == 0 && (0 < v.2.1 || (v.2.1 == 0 && 0 ≤ v.1)))

/-- The launch was accepted (R53, R54). -/
def Launch.accepted (l : Launch) : Bool :=
  match l.status with
  | .accepted | .done | .rejScan | .fault | .splitDepth | .upstreamFailed => true
  | .rejShape | .rejGroups | .rejCycle | .rejUpstream | .rejCores | .rejFlags | .rejAddr | .noRecord => false

/-- The descriptors read from a queue, earliest first. -/
def State.readFrom (s : State) (f q : Nat) : List Nat :=
  (List.range s.launches.length).filter fun i => (s.launch i).func == f && (s.launch i).queue == q

/-- The sequence number that a descriptor names as upstream; none where it names no launch (R59). The launch read next has number
`s.launches.length`. -/
def State.upstreamSeq (s : State) (f q : Nat) (d : Desc) : Option Nat :=
  if d.rel then
    let k := d.upSeq % 65536
    if k = 0 ∨ d.upSeq / 65536 ≠ 0 then none else (s.readFrom f q).reverse[k - 1]?
  else if d.upSeq < s.launches.length then some d.upSeq
  else none

/-- The upstream launch is one that R59 lets a launch name. -/
def State.upstreamOk (s : State) (f u : Nat) : Bool :=
  let l := s.launch u
  l.func == f && l.accepted && l.desc.cbmp != 0 &&
    decide (((List.range s.launches.length).filter fun i => u ≤ i && (s.launch i).func == f && (s.launch i).accepted).length ≤ 4096)

/-- The status that the checks of a descriptor give, with its group table and its upstream launch (R53). -/
def State.checkDesc (s : State) (f q : Nat) (d : Desc) : LaunchStatus × List Word × Option Nat :=
  if d.badFlags s f then (.rejFlags, [], none)
  else if d.badShape then (.rejShape, [], none)
  else match s.readGroups f d with
    | none => (.rejGroups, [], none)
    | some ms =>
      let up := if d.ups then s.upstreamSeq f q d else none
      let upOk := !d.ups || match up with
        | some u => s.upstreamOk f u
        | none => false
      if d.depv.any badVector then (.rejCycle, [], none)
      else if !upOk then (.rejUpstream, [], none)
      else if d.cbmp ≠ 0 ∧ !s.sysOk f d.cbmp d.bitmapBytes true then (.rejAddr, [], none)
      else if (s.partition f).isEmpty ∨ (d.cores ∧ (s.partition f).length * d.perCore < d.total) then (.rejCores, [], none)
      else (.accepted, ms, up)

/-- The launch that a descriptor makes, before it is checked. -/
def Launch.new (f q : Nat) (d : Desc) (st : LaunchStatus) (ms : List Word) (up : Option Nat) (lvl : Nat) : Launch where
  func := f
  queue := q
  desc := d
  members := ms
  status := st
  cause := 0
  pc := 0
  block := 0
  upstream := up
  lvl := lvl
  lvlWas := []
  age := 0
  board := []
  placed := []
  nextTile := 0
  takes := []
  clearing := []
  closed := st != .accepted

/-- The bytes of a launch's bitmap, all zero (R56). -/
def State.bitmapZero (s : State) (f : Nat) (d : Desc) : List (Nat × Byte) :=
  if d.cbmp = 0 then [] else s.sysBytes f d.cbmp (List.replicate d.bitmapBytes 0)

/-- Every store and flush that waits at a home is performed as far as it can go: the release of the work distributor at DV and SY (R57, R179). -/
def State.sysRelease (s : State) : State :=
  ((List.range Config.towers).foldl (fun s t => s.flushTower t) s).performWhere fun _ => true

/-- A descriptor read: it is numbered and checked, its record and bitmap are written, and HEAD advances (R50, R51, R53, R54, R56, R384). -/
def State.takeDesc (s : State) (f q : Nat) (d : Desc) : State :=
  let li := s.launches.length
  let next := fun (s : State) => s.modQueue f q fun r => { r with head := (r.head + 1) % 2 ^ r.log2 }
  let add := fun (s : State) (l : Launch) => { s with launches := s.launches ++ [l] }
  if !s.sysOk f d.crec 32 true then next (add s (Launch.new f q d .noRecord [] none 0)).report
  else
    let c := s.checkDesc f q d
    let l := Launch.new f q d c.1 c.2.1 c.2.2 (min d.prio (s.queue f q).ceil)
    let zeros := s.bitmapZero f d
    let pages := s.sysPages f d.cbmp d.bitmapBytes
    let s := (add s l).writeRecord li
    next (
      if c.1 = .accepted then
        let x := s.sysSend f pages zeros 0
        (x.1.modLaunch li fun l => { l with clearing := x.2 }).sysRelease
      else s)

/-- What the checks of a descriptor read, or its record, waits at a home (R187, R231). -/
def State.descHeld (s : State) (f : Nat) (d : Desc) : Bool :=
  s.walkWaits f d.crec 32 || s.sysHeld (s.sysBytes f d.crec (List.replicate 32 0)) ||
  (d.groups != 0 && (s.sysWaits f d.groups 4 || s.sysWaits f d.groups (4 * min 256 (s.sysWord f d.groups).toNat))) ||
  (d.cbmp != 0 && s.walkWaits f d.cbmp d.bitmapBytes)

/-- A write of the host to the function's memory waits at its home: the doorbell orders it before what the work distributor reads (R273). -/
def State.hostWaits (s : State) (f : Nat) : Bool := s.reqs.any fun r => r.kind == .host && r.func == f

/-- The bitmap of a launch is not all zeroed yet (R56, R231). -/
def State.clears (s : State) (l : Launch) : Bool := s.waiting l.clearing

/-- The work distributor reads a queue: it is not suspended, nor stopped at a slot, and it has a slot to read, after the host's earlier writes and once
the bitmaps of the function's earlier launches are zeroed (R50, R56, R273, R276). A device that is withheld or in recovery reads none (R26, R279). -/
def State.readsQueue (s : State) (f q : Nat) : Bool :=
  let r := s.queue f q
  q < 8 && r.head != r.tail && !r.stopped && !(s.func f).susp && !s.degraded && !s.recovery && !s.hostWaits f &&
    s.launches.all fun l => l.func != f || !s.clears l

/-- DESCRIPTOR_READ (R53): the slot at HEAD; one that cannot be read stops the queue and is reported (R50). -/
def execDescriptorRead (func queue : Nat) (s : State) : Out :=
  if !s.readsQueue func queue then s.done
  else
    let slot := (s.queue func queue).base * 128 + 128 * (s.queue func queue).head
    if s.sysWaits func slot 128 then s.done
    else if !s.sysOk func slot 128 false then ((s.modQueue func queue fun q => { q with stopped := true }).report).done
    else
      let d := parseDesc fun off => leNat (s.sysByte func) (slot + off) 8
      if s.descHeld func d then s.done else (s.takeDesc func queue d).done

/-! ### Released blocks (R58, R60, R65, R69) -/

/-- The coordinates of a linear index (R55). -/
def Desc.coords (d : Desc) (i : Nat) : Int × Int × Int := (i % d.gridX, i / d.gridX % d.gridY, i / (d.gridX * d.gridY))

/-- The coordinates lie inside the grid. -/
def Desc.inGrid (d : Desc) (c : Int × Int × Int) : Bool :=
  0 ≤ c.1 && c.1 < d.gridX && 0 ≤ c.2.1 && c.2.1 < d.gridY && 0 ≤ c.2.2 && c.2.2 < d.gridZ

/-- The linear index of coordinates inside the grid (R55). -/
def Desc.linear (d : Desc) (c : Int × Int × Int) : Nat := (c.1 + d.gridX * (c.2.1 + d.gridY * c.2.2)).toNat

/-- The upstream coordinates that a block waits for (R60). -/
def Desc.mapped (d : Desc) (c : Int × Int × Int) : List (Int × Int × Int) :=
  if d.umap then
    (List.range (d.txm1 + 1)).flatMap fun (i : Nat) => (List.range (d.tym1 + 1)).map fun (j : Nat) =>
      ((d.sx : Int) * c.1 + d.ox + i, (d.sy : Int) * c.2.1 + d.oy + j, c.2.2)
  else [c]

/-- Every mapped upstream bit of a block is set; bits outside the upstream grid are ignored (R60). -/
def State.upstreamSet (s : State) (l : Launch) (i : Nat) : Bool :=
  match l.upstream with
  | none => true
  | some u =>
    let up := s.launch u
    (l.desc.mapped (l.desc.coords i)).all fun c => !up.desc.inGrid c || up.board.contains (up.desc.linear c)

/-- Every predecessor of a block is on the retirement board; those outside the grid are ignored (R58). -/
def Launch.predecessorsSet (l : Launch) (i : Nat) : Bool :=
  let c := l.desc.coords i
  l.desc.depv.all fun v =>
    let p := (c.1 + v.1, c.2.1 + v.2.1, c.2.2 + v.2.2)
    !l.desc.inGrid p || l.board.contains (l.desc.linear p)

/-- The upstream launch has ended with a status other than DONE (R61). -/
def State.upstreamFailed (s : State) (l : Launch) : Bool :=
  match l.upstream with
  | none => false
  | some u => (s.launch u).status != .accepted && (s.launch u).status != .done

/-- A block is released: its launch may place it (R58, R60, R65, R69). -/
def State.isReleased (s : State) (l : Launch) (i : Nat) : Bool :=
  if l.desc.cores then (List.range l.desc.total).all fun j => s.upstreamSet l j
  else s.upstreamSet l i && l.predecessorsSet i

/-- A block put among others in the order of their linear indices. -/
def State.insertBlock (s : State) (bi : Nat) : List Nat → List Nat
  | [] => [bi]
  | b :: r => if (s.block bi).index < (s.block b).index then bi :: b :: r else b :: State.insertBlock s bi r

/-- Saved blocks of a launch, by rising linear index (R76). -/
def State.savedOf (s : State) (li : Nat) : List Nat :=
  ((List.range s.blocks.length).filter fun b => (s.block b).launch == li && (s.block b).status == .saved).foldr s.insertBlock []

/-- Blocks of a launch that hold resources of a core, by number. -/
def State.heldOf (s : State) (li : Nat) : List Nat :=
  (List.range s.blocks.length).filter fun b => (s.block b).launch == li && (s.block b).holds

/-- The launch has a released block that is not resident (R69). -/
def State.hasWaiting (s : State) (li : Nat) : Bool :=
  let l := s.launch li
  l.live && (!(s.savedOf li).isEmpty ||
    (!s.upstreamFailed l && (List.range l.desc.total).any fun i => !l.placed.contains i && s.isReleased l i))

/-- The launch may place block `i`: its bitmap is zeroed, no saved block of it waits, every released block of smaller index has been placed, and its
upstream has not failed (R56, R58, R61, R82). -/
def State.mayPlace (s : State) (li i : Nat) : Bool :=
  let l := s.launch li
  l.live && !s.clears l && !s.upstreamFailed l && i < l.desc.total && !l.placed.contains i && s.isReleased l i && (s.savedOf li).isEmpty &&
    (List.range i).all fun j => l.placed.contains j || !s.isReleased l j

/-! ### Ageing (R69) and the passing of time -/

/-- AGEING_EXPIRY (R69): the level rises by one, up to CEIL; an AGE of 0 turns ageing off. -/
def execAgeingExpiry (launch : Nat) (s : State) : Out :=
  let l := s.launch launch
  let age := (s.func l.func).fage.toNat
  if l.live && age != 0 && age ≤ l.age then
    (s.modLaunch launch fun l => { l.relevel s.dieCycles (max l.lvl (min (l.lvl + 1) (s.queue l.func l.queue).ceil)) with age := 0 }).done
  else s.done

/-- Core cycles that pass on a die in some base-die cycles. -/
def State.cyclesIn (s : State) (n die : Nat) : Nat :=
  let d := s.dies.getD die default
  (d.acc + n * d.rate) / 32 - d.acc / 32

/-- Counter event 0x01: core cycles in which a function has a block resident (R284). -/
def State.countResident (s : State) (n f : Nat) : State :=
  match s.residentOf f with
  | [] => s
  | b :: _ => s.count f 1 (s.cyclesIn n (dieOf (s.block b).core))

/-- The ageing count of a launch after some core cycles. -/
def Launch.aged (l : Launch) (n : Nat) : Launch := { l with age := l.age + n }

/-- Base-die cycles pass, with the ageing counts and the counters of cycles (R69, R284). -/
def State.pass (s : State) (n : Nat) : State :=
  let c := s.cyclesIn n 0
  let aged := (List.range s.launches.length).map fun i => (s.launch i).aged (if s.hasWaiting i then c else 0)
  let s := { s with launches := aged }
  let fs := (List.range s.funcs.length).filter fun f => (s.func f).cntSel.any fun x => x != 0
  (fs.foldl (fun s f => s.countResident n f) s).elapse n

/-! ### The end of a launch (R54, R61, R206) -/

/-- A stopped block's units have come to rest: its copies and tile transfers have completed (R206, step 3). -/
def State.atRest (s : State) (bi : Nat) : Bool :=
  !(s.copies.any fun c => c.block == bi) && !s.xfers.any fun x => x.block == bi

/-- Every store of the block has been performed at its home: no request of its waves, and no flush, waits (R57). -/
def State.storesDone (s : State) (bi : Nat) : Bool :=
  s.reqs.all fun r => !flushOf (s.funcOfBlock (s.block bi)) r && match r.wave with
    | none => true
    | some w => !(s.block bi).waves.contains w

/-- The array is released by a block: its queue and its place as holder (R206, R241). -/
def Array'.dropBlock (a : Array') (bi : Nat) : Array' :=
  { a with holder := if a.holder = some bi then none else a.holder, queue := a.queue.filter fun o => o.block != bi }

/-- A stopped block is freed: its matrix and rank operations are discarded, and its waves hold no reservation (R206, R207). -/
def State.freeBlock (s : State) (bi : Nat) : State :=
  let b := s.block bi
  let s := b.waves.foldl State.loseResvs s
  let s := s.modCore b.core fun c => { c with array := c.array.dropBlock bi, rankq := c.rankq.filter fun r => r.block != bi }
  s.modBlock bi fun b => { b with status := .discarded, victim := none, save := none }

/-- The blocks of an ended launch whose write-combining lines have not drained, or whose pins have not ended (R206, step 2). -/
def State.undrained (s : State) (li : Nat) : List Nat :=
  (s.heldOf li).filter fun bi => (s.block bi).status == .stopped && (s.block bi).waves.any fun wi =>
    ((s.core (s.block bi).core).parts.any fun p => p.wc.any fun l => l.wave == wi) ||
      (s.core (s.block bi).core).pins.any fun p => p.users.contains wi

/-- Step 2 of R206 for a stopped block. -/
def State.settleBlock (s : State) (bi : Nat) : State := (s.block bi).waves.foldl (fun s wi => ((s.drainAll wi).endPinsOf wi).loseResvs wi) s

/-- A launch that has ended has blocks or records to finish: it has ended by a fault, and its blocks have come to rest, or its upstream failed and
no block of it is resident or saved (R61, R206). -/
def State.mustClose (s : State) (li : Nat) : Bool :=
  let l := s.launch li
  !l.closed && ((!l.live && (s.heldOf li).all fun b => s.atRest b && !(l.takes.any fun t => (s.wave t.wave).block == b)) ||
    (l.live && s.upstreamFailed l && (s.heldOf li).isEmpty && (s.savedOf li).isEmpty))

/-- The stores of the launch's blocks have been performed (R206). -/
def State.launchStored (s : State) (li : Nat) : Bool := (s.heldOf li).all s.storesDone

/-- FAULT_FINAL_RECORD (R206): the lines of the stopped blocks drain and their pins end; when they have come to rest and their stores are performed
they are freed, and the final record is written; so too of a launch whose upstream failed (R61). -/
def execFaultFinalRecord (launch : Nat) (s : State) : Out :=
  if launch < s.launches.length && !(s.undrained launch).isEmpty then ((s.undrained launch).foldl State.settleBlock s).done
  else if launch < s.launches.length && s.mustClose launch then
    let s := if (s.launch launch).live then s.modLaunch launch fun l => { l with status := .upstreamFailed } else s
    let t := s.sysRelease
    if !t.launchStored launch || t.recordHeld launch then s.done
    else (((t.heldOf launch).foldl State.freeBlock t).closeLaunch launch).done
  else s.done

/-- WAIT_OVERDUE (R73): a wave whose count has reached 896 is overdue. The counts themselves make it so (`State.overdue`): nothing else
changes. -/
def execWaitOverdue (_wave : Nat) (s : State) : Out := s.done

end Sys2Proof.Machine
end

