-- ==== Sys2Proof/Machine/Issue.lean ====
section
/-! DEFINITION. Fetching a word (R72, R101), the vector datapath (R22), which waves are eligible (R72), the issue choice (R73), and what
a word that issued leaves, its replay count among it (R288). -/

namespace Sys2Proof.Machine

/-- The vector-datapath words of R22 (majors 0x0F to 0x1D): some true where the word is an F64 word, some false for the others. -/
def vectorWord : Instr → Option Bool
  | .vcmp _ _ _ _ _ t => some (t == .f64)
  | .vadd .. | .vsub .. | .vmul .. | .vmulh .. | .vmulhu .. | .vmad .. | .vand .. | .vor .. | .vxor .. | .vshl .. | .vshr .. | .vsra ..
  | .vmin .. | .vmax .. | .vumin .. | .vumax .. | .vaddS .. | .vsubS .. | .vmulS .. | .vmulhS .. | .vmulhuS .. | .vmadS .. | .vandS ..
  | .vorS .. | .vxorS .. | .vshlS .. | .vshrS .. | .vsraS .. | .vminS .. | .vmaxS .. | .vuminS .. | .vumaxS .. | .vadd64 .. | .vsub64 ..
  | .vmulw .. | .vabs .. | .vnot .. | .vmov .. | .vpopc .. | .vclz .. | .vbrev .. | .vbfe .. | .vbfi .. | .vaddi .. | .vandi .. | .vori ..
  | .vxori .. | .vshli .. | .vshri .. | .vsrai .. | .vli .. | .vsel .. => some false
  | .vfadd _ k .. | .vfsub _ k .. | .vfmul _ k .. | .vfma _ k .. | .vfmin _ k .. | .vfmax _ k .. | .vfabs _ k .. | .vfneg _ k ..
  | .vfcps _ k .. | .vfdiv _ k .. | .vfrnd _ k .. => some (k == .f64)
  | .vfaddS _ _ _ _ t | .vfsubS _ _ _ _ t | .vfmulS _ _ _ _ t | .vfmaS _ _ _ _ t | .vfminS _ _ _ _ t | .vfmaxS _ _ _ _ t =>
    some (t == .f64)
  | .vrcp _ _ _ t | .vrsq _ _ _ t | .vsqrt _ _ _ t | .vexp2 _ _ _ t | .vlog2 _ _ _ t | .vsin _ _ _ t | .vcos _ _ _ t
  | .vtanh _ _ _ t => some (t == .f64)
  | .vcvt _ _ _ t u _ _ => some (t == .f64 || u == .f64)
  | .vpack4 .. | .vunpk4 .. | .vshfl .. | .vbcast .. | .vreadl .. | .vwritel .. | .vred .. | .vscan .. | .vlane .. => some false
  | _ => none

/-- Core cycles for which a word holds the vector datapath (R22, R30). -/
def vectorCycles (f64 : Bool) (width : Nat) : Nat := (if f64 then 2 else 1) * (if width = 64 then 2 else 1)

/-- The translation of the address of a wave's next word. -/
def State.fetchWalk (s : State) (w : Wave) : Walk :=
  match findTlb (s.core (s.coreOf w)).tlb (s.funcOf w) (w.pc.toNat / 65536) with
  | some e => .ok e.page e.leaf
  | none => s.walkVia (s.coreOf w) (s.funcOf w) w.pc.toNat

/-- The physical address of a wave's next word where its fetch succeeds: a walk that succeeds, the key, X and a verified page (R101). -/
def State.fetchAddr (s : State) (w : Wave) : Option Nat :=
  match s.fetchWalk w with
  | .ok page leaf =>
    if s.keyOk (s.funcOf w) leaf.key && leaf.x && s.verifiedPage page then some (page * 65536 + w.pc.toNat % 65536) else none
  | _ => none

/-- The key of the page of a wave's next word (R163). -/
def State.fetchKey (s : State) (w : Wave) : Nat :=
  match s.fetchWalk w with
  | .ok _ leaf => leaf.key
  | _ => Config.pf

/-- The fetched word that waits at the wave's PC (R72). -/
def Wave.fetched (w : Wave) : Option Word :=
  match w.ibuf with
  | some (a, x) => if a = w.pc then some x else none
  | none => none

/-- The bytes of the word that waits at the wave's PC; none where it is not fetched. -/
def Wave.wordAt (w : Wave) : Option (List Byte) :=
  w.fetched.map fun (x : Word) => [x.setWidth 8, (x >>> 8).setWidth 8, (x >>> 16).setWidth 8, (x >>> 24).setWidth 8]

/-- The wave can issue but for its fetch and the vector datapath (R72): it is resident and not taken, its current fragment is LIVE, no
switch waits, it is not held, suspended, trapping or stopped, and its word did not stall in this cycle. -/
def State.ready (s : State) (w : Wave) : Bool :=
  !w.ended && (s.blockOf w).status == .resident && !w.taken && w.frag.state == .live && !(w.held && !w.pending.isEmpty) &&
    !w.switchDue && w.fuseDue.isNone && w.susp.isNone && w.trapPending.isNone && !s.stoppedWave w && w.stallAt ≤ s.cycle (s.coreOf w)

/-- The wave awaits the fetch of its next word (R72, R101). -/
def State.awaitsFetch (s : State) (w : Wave) : Bool := s.ready w && w.fetched.isNone

/-- What a fetched word is: an instruction, or none. -/
inductive NextWord where
  | illegal
  | word (i : Instr)
  deriving DecidableEq, Repr

/-- A wave's next word, where it is fetched. -/
def Wave.nextWord (w : Wave) : Option NextWord :=
  match w.wordAt with
  | none => none
  | some bs => match decodeBytes bs with
    | .ok (i, _) => some (.word i)
    | .error _ => some .illegal

/-- The vector datapath of the wave's partition is busy (R22). -/
def State.datapathBusy (s : State) (w : Wave) : Bool :=
  s.cycle (s.coreOf w) < ((s.core (s.coreOf w)).parts.getD w.part default).dpFree

/-- A wave of the issue choice: its number, its next word, and whether only the busy datapath holds it back. -/
structure Cand where
  wave : Nat
  next : NextWord
  blocked : Bool
  deriving DecidableEq, Repr

/-- The word needs the vector datapath (R22). -/
def NextWord.vector : NextWord → Bool
  | .word i => (vectorWord i).isSome
  | .illegal => false

/-- The waves of the issue choice, by number: those whose next word is fetched and that nothing but a busy datapath holds back (R72). -/
def State.cands (s : State) : List Cand :=
  (List.range s.waves.length).filterMap fun i =>
    let w := s.wave i
    if s.ready w then w.nextWord.map fun n => ⟨i, n, n.vector && s.datapathBusy w⟩ else none

/-- The level of a launch that acts on a core in its present cycle: a change acts from the next one on (R71). -/
def State.levelOn (s : State) (l : Launch) (core : Nat) : Nat :=
  match l.lvlWas[dieOf core]? with
  | some x => if s.cycle core ≤ x.1 then x.2 else l.lvl
  | none => l.lvl

/-- The current level of a wave (R71). -/
def State.level (s : State) (i : Nat) : Nat := s.levelOn (s.launchOf (s.wave i)) (s.coreOf (s.wave i))

/-- A partition of the device by number: its place in the ascending order of cores and of a core's partitions. -/
def State.partKey (s : State) (i : Nat) : Nat := 4 * s.coreOf (s.wave i) + (s.wave i).part

/-- The wave is overdue (R73). -/
def State.overdue (s : State) (i : Nat) : Bool := 896 ≤ (s.wave i).waitCount

/-- Of two waves, the first comes first by wait count, then by wave slot (R73). -/
def State.longer (s : State) (i j : Nat) : Bool :=
  let a := s.wave i
  let b := s.wave j
  b.waitCount < a.waitCount || (a.waitCount == b.waitCount && a.slot < b.slot)

/-- Of two waves, the first comes first by level, then as issued least recently, then by wave slot (R73). -/
def State.sooner (s : State) (i j : Nat) : Bool :=
  let a := s.wave i
  let b := s.wave j
  s.level j < s.level i || (s.level i == s.level j &&
    (a.lastIssue < b.lastIssue || (a.lastIssue == b.lastIssue && a.slot < b.slot)))

/-- The best of a list by an order that says which of two comes first. -/
def bestOf (before : Nat → Nat → Bool) : List Nat → Option Nat
  | [] => none
  | i :: r => match bestOf before r with
    | none => some i
    | some j => if before j i then some j else some i

/-- The eligible waves of a partition's candidates; a wave that has just yielded is left out where another is eligible (R73, R376). -/
def State.eligible (s : State) (cs : List Cand) : List Cand :=
  let free := cs.filter fun c => !c.blocked
  free.filter fun c => !(s.wave c.wave).skipCycle || free.length ≤ 1

/-- The wave that one partition issues from: the overdue rule first, then the highest level, issued least recently (R73). -/
def State.choosePart (s : State) (cs : List Cand) : Option Nat :=
  let late := (cs.filter fun c => s.overdue c.wave).map fun c => c.wave
  let pick := fun l : List Cand => bestOf s.sooner (l.map fun c => c.wave)
  match bestOf s.longer late with
  | none => pick (s.eligible cs)
  | some i => if (s.eligible cs).any fun c => c.wave == i then some i else pick ((s.eligible cs).filter fun c => !c.next.vector)

/-- Each partition's candidates are those of its first candidate; the rest follow. `n` bounds the partitions. -/
def State.byPart (s : State) : Nat → List Cand → List (List Cand)
  | 0, _ => []
  | _, [] => []
  | n + 1, c :: r =>
    let same := r.filter fun d => s.partKey c.wave == s.partKey d.wave
    let other := r.filter fun d => s.partKey c.wave != s.partKey d.wave
    (c :: same) :: State.byPart s n other

/-- The partition has its issue choice of this core cycle still to make (R73). -/
def State.turnOpen (s : State) (core part : Nat) : Bool := ((s.core core).parts.getD part default).turnAt ≤ s.cycle core

/-- The wave on the issue port: the choice of the first partition that has one still to make in this core cycle, in ascending order of cores
and partitions (R73, R74, R377, log 2: DESIGN CHOICE). -/
def State.chooseIssue (s : State) : Option Cand :=
  let cs := s.cands.filter fun c => s.turnOpen (s.coreOf (s.wave c.wave)) (s.wave c.wave).part
  let picks := (s.byPart cs.length cs).filterMap s.choosePart
  match bestOf (fun i j => s.partKey i < s.partKey j) picks with
  | none => none
  | some i => cs.find? fun c => c.wave == i

/-- The candidates of a partition. -/
def State.candsOf (s : State) (core part : Nat) : List Cand := s.cands.filter fun c => s.partKey c.wave == 4 * core + part

/-- A wave's wait count after a core cycle of its partition: it grows for a candidate not issued and restarts for the others (R73). The cycle
after YIELD's wait has passed (R376). -/
def Wave.afterCycle (w : Wave) (waiting issued : Bool) : Wave :=
  { w with waitCount := if waiting && !issued then w.waitCount + 1 else 0
           skipCycle := w.skipCycle && (issued || (w.held && !w.pending.isEmpty)) }

/-- The waves of a partition after one of its core cycles, in which `cs` were its candidates. -/
def State.countWaits (s : State) (core part : Nat) (cs : List Cand) (issued : Option Nat) : State :=
  { s with waves := (List.range s.waves.length).map fun i =>
      let w := s.wave i
      if s.partKey i = 4 * core + part then w.afterCycle (cs.any fun c => c.wave == i) (issued == some i) else w }

/-- The word that the wave has just been given stalled at issue (R72). -/
def Wave.stalled (w : Wave) : Bool := w.stall != .none

/-- A word that stalled has not issued: it waits for the next core cycle, and its partition's choice of this cycle stands open (R72, log 5:
DEDUCED). -/
def State.retryLater (s : State) (i : Nat) : State :=
  s.modWave i fun w => { w with stallAt := s.cycle (s.coreOf w) + 1, waitCount := 0 }

/-- What a word that issued leaves: the order of issue, an empty fetch buffer, the datapath it holds, and the count of words (R22, R72, R73, R284). -/
def State.noteIssue (s : State) (i : Nat) (word : Instr) : State :=
  let w := s.wave i
  let s := { (s.modWave i fun w => { w with lastIssue := s.issues + 1, ibuf := none }) with issues := s.issues + 1 }
  let s := match vectorWord word with
    | none => s
    | some f => s.modCore (s.coreOf w) fun c => { c with
        parts := c.parts.modify w.part fun p => { p with dpFree := s.cycle (s.coreOf w) + vectorCycles f w.width } }
  s.count (s.funcOf w) 2 1

/-! ### Replay (R288) -/

/-- The word is a synchronising operation: its form, or an access whose order is not relaxed (R288). -/
def syncWord (i : Instr) (ordered : Bool) : Bool :=
  match i with
  | .bar .. | .arrive .. | .waitb .. | .waita .. | .waitbit .. | .take .. | .atom .. | .lr .. | .sc .. | .fence .. | .exit => true
  | .ld .. | .st .. | .sld .. | .sst .. | .lds .. | .sts .. | .stc .. | .atoms .. => ordered
  | _ => false

/-- The order of a wave's pending HINT.ORD is not relaxed. -/
def Wave.ordered (w : Wave) : Bool :=
  match w.hints.ord with
  | some (o, _) => o != .rlx
  | none => false

/-- A synchronising operation of a launch with DBG set records the wave's count of retired words, or compares it: the first mismatch is
kept and reported with the word's address `pc` (R288, R289, log 21: DESIGN CHOICE). -/
def State.replay (s : State) (wi : Nat) (pc : VAddr) : State :=
  let w := s.wave wi
  let f := s.funcOf w
  let g := s.func f
  let a := g.replayBuf + 8 * g.replayIdx
  let next := fun (s : State) => s.modFunc f fun g => { g with replayIdx := g.replayIdx + 1 }
  if !(s.launchOf w).desc.dbg || (g.replay != 1 && g.replay != 2) || !s.owns f a 8 then s
  else if g.replay = 1 then next (s.devicePoke Config.pf (leBytes a w.retired 8))
  else
    let want := leNat s.peek a 8
    if want = w.retired ∨ !g.replayMiss.isEmpty then next s
    else
      (next (s.modFunc f fun g => { g with
        replayMiss := [(s.blockOf w).launch, (s.blockOf w).index, w.index, pc.toNat, want, w.retired] })).interrupt f 3

/-- A wave's word that has issued and was a synchronising operation is recorded or compared; `old` is the wave before it (R288). -/
def State.replayed (s : State) (wi : Nat) (i : Instr) (old : Wave) : State :=
  if syncWord i old.ordered && (s.wave wi).retired != old.retired then s.replay wi old.pc else s

end Sys2Proof.Machine
end

