-- ==== Sys2Proof/Machine/Rank.lean ====
section
/-! DEFINITION. The ranking network and the rank engine: RANK (R258 to R262), LDPAL (R263), RKREC (R268), and their completion in the engine's
order (R262, R264). -/

namespace Sys2Proof.Machine

/-- The registers of RANK (R258). -/
def nregOf : NReg → Nat
  | .n1 => 1
  | .n2 => 2
  | .n4 => 4
  | .n8 => 8

/-- The value of an element (R137, R258). -/
def rankValue (t : RType) (x : Word) : FVal :=
  match t with
  | .f32 => Fmt.f32.decode x.toNat
  | .f16 => Fmt.f16.decode (x.toNat % 65536)
  | .bf16 => Fmt.bf16.decode (x.toNat % 65536)
  | .i32 => FVal.ofInt x.toInt

/-- An element comes before another: a larger value first, of equal values the lower index (R259). -/
def RankElem.beats (a b : RankElem) : Bool :=
  match (rankValue a.type a.bits).cmp (rankValue b.type b.bits) with
  | some .gt => true
  | some .eq => a.index ≤ b.index
  | _ => false

/-- A list in rank order with an element put in, after those that come before it (R259). -/
def rankInsert (x : RankElem) : List RankElem → List RankElem
  | [] => [x]
  | y :: r => if y.beats x then y :: rankInsert x r else x :: y :: r

/-- The held state merged with candidates and truncated (R258). -/
def rankMerge (held cands : List RankElem) (c : Nat) : List RankElem := ((cands.foldl (fun h x => rankInsert x h) held).take c)

/-- An element passes the gate: it is no NaN and, gated, greater than GATE, which holds FP32 bits whatever the type ranked; the comparison
is of real values, and a NaN in GATE excludes none (R258, R341, c13 of 05). -/
def passesGate (gated : Bool) (gate : Word) (t : RType) (x : Word) : Bool :=
  let v := rankValue t x
  match v with
  | .nan => false
  | _ => !gated || match v.cmp (Fmt.f32.decode gate.toNat) with
    | some .lt | some .eq => false
    | _ => true

/-- The candidates of a RANK (R258). -/
def Wave.rankCands (w : Wave) (va n : Nat) (t : RType) (gated : Bool) (base : Nat) : List RankElem :=
  (List.range n).flatMap fun o => w.active.filterMap fun l =>
    let x := w.vn (va + o) l
    if passesGate gated w.gate t x then some ⟨t, base + o * w.width + l, match t with
      | .f16 | .bf16 => x &&& 0xFFFF
      | .f32 | .i32 => x⟩
    else none

/-- An operation enters the rank engine, counted on K (R262). -/
def State.rankIssue (s : State) (p : Bool) (kind : RankKind) (f : Wave → Wave) : Out :=
  s.onWave fun w =>
    let op : RankOp := ⟨s.nextOp, s.issuing, w.block, kind⟩
    { s with nextOp := s.nextOp + 1 }.modCore (s.coreOf w) (fun c => { c with rankq := c.rankq ++ [op] }) |>.retire .plain p fun w =>
      f (w.begin .k op.id)

/-- RANK (R258, R332). -/
def execRank (p : Bool) (va : VReg) (n : NReg) (t : RType) (sd : SReg) (c : BitVec 6) (cont gated : Bool) (s : State) : Out :=
  s.onWave fun w =>
    let base := (w.s (sd + 1)).toNat
    let a := (w.s sd).toNat
    let e := w.width * nregOf n
    if 256 < e ∨ 4096 < base + e then s.trap Cause.width 0
    else match (if cont then none else operandCause a 128 128 (s.scratch w).size) with
      | some (x, y) => s.trap x y
      | none => s.withCounter .k fun s =>
        s.rankIssue p (.rank (w.rankCands va.toNat (nregOf n) t gated base) (c.toNat + 1) cont a) id

/-- LDPAL (R263, R321). -/
def execLdpal (p : Bool) (l : PalReg) (a : SReg) (s : State) : Out :=
  s.onWave fun w =>
    match operandCause (w.s a).toNat 256 128 (s.scratch w).size with
    | some (x, y) => s.trap x y
    | none => s.withCounter .k fun s => s.rankIssue p (.ldpal l.toNat (w.s a).toNat) id

/-- RKREC (R268): its destination is pending until its operation completes. -/
def execRkrec (p : Bool) (l : PalReg) (a : SReg) (v : VReg) (t : PType) (s : State) : Out :=
  s.onWave fun w =>
    let x := (w.s a).toNat % 2 ^ 20
    let base := (w.s a).toNat / 2 ^ 20
    let r := 256 / w.width
    if v.toNat % r ≠ 0 then s.trap Cause.width 0
    else match operandCause x 128 128 (s.scratch w).size with
      | some (y, z) => s.trap y z
      | none => s.withCounter .k fun s =>
        s.rankIssue p (.rkrec l.toNat x base v.toNat t w.exec) fun u =>
          u.pend ⟨.rank s.nextOp, (List.range r).map fun o => u.lanesOf (v.toNat + o) fun _ => 0, 0, none, false, 0, 0⟩

/-- The bytes of the code of some elements (R261). -/
def codeBytes (a : Nat) (es : List RankElem) : List (Nat × Byte) :=
  (List.range 64).flatMap fun r => leBytes (a + 2 * r) (match es[r]? with
    | some e => e.index
    | none => 0x8000) 2

/-- The value that RKREC writes for an index (R268). -/
def rkrecValue (t : PType) (pal : List Word) (code : List Nat) (i : Nat) : Word :=
  match code.idxOf? i with
  | none => 0
  | some r =>
    let y := pal.getD r 0
    match t with
    | .f32 => y
    | .f16 => BitVec.ofNat 32 (Fmt.f16.round .rne 0 (Fmt.f32.decode y.toNat))
    | .bf16 => BitVec.ofNat 32 (Fmt.bf16.round .rne 0 (Fmt.f32.decode y.toNat))

/-- A pending RKREC of an operation is ready with its writes (R268). -/
def Pending.rankReady (p : Pending) (id : Nat) (ws : List RegWrite) : Pending :=
  if p.tag = .rank id then { p with tag := .ready, writes := ws ++ p.writes.drop ws.length } else p

/-- What a completed rank operation leaves (R258, R263, R268). -/
def State.rankEffect (s : State) (o : RankOp) : State :=
  let b := s.block o.block
  match o.kind with
  | .rank cands c cont a =>
    let held := rankMerge (s.wave o.wave).rank cands c
    let s := s.modWave o.wave fun w => { w with rank := if cont then held else [] }
    if cont then s else s.putScratch o.block (codeBytes a held)
  | .ldpal p a =>
    s.modBlock o.block fun b => { b with pals := b.pals.set p ((List.range 64).map fun r => BitVec.ofNat 32 (b.scratch.nat (a + 4 * r) 4)) }
  | .rkrec p a base v t exec =>
    let w := s.wave o.wave
    let code := codeEntries b.scratch.get a
    let ws := (List.range (256 / w.width)).map fun k =>
      RegWrite.v (v + k) exec (w.perLane fun l => rkrecValue t (b.pals.getD p []) code (base + k * w.width + l))
    s.modWave o.wave fun w => { w with pending := w.pending.map fun x => x.rankReady o.id ws }

/-- A palette load waits for earlier products that name its palette (R264). -/
def State.rankWaits (s : State) (core : Nat) (o : RankOp) : Bool :=
  match o.kind with
  | .ldpal p _ => (s.array core).queue.any fun m => m.block == o.block && m.id < o.id && match m.kind with
      | .rmma _ q .. => q == p
      | _ => false
  | _ => false

/-- RANK_OP_COMPLETE (R262): the oldest operation of the engine completes. -/
def execRankOpComplete (core : Nat) (s : State) : Out :=
  match (s.core core).rankq with
  | [] => s.done
  | o :: r =>
    if s.rankWaits core o then s.done
    else
      let t := (s.rankEffect o).modCore core fun c => { c with rankq := r }
      (t.modWave o.wave fun w => w.opDone .k o.id).done

end Sys2Proof.Machine
end

