-- ==== Sys2Proof/Machine/Returns.lean ====
section
/-! DEFINITION. The events of a wave: long-class results (R91, R92), as-of reads (R224), translation checks (R96), fetches (R72, R101), the
delivery of a trap (R97, R198), the end of a wave (R28, R170, R188, R293), and taking a wave off its core (R79). -/

namespace Sys2Proof.Machine

/-! ### Taking a wave off its core (R79) -/

/-- A pending result is a load that is performed again at restore: its memory is homed in another tower, or it waits as of a stamp (R79, R320). -/
def Pending.remoteLoad (p : Pending) : Bool := p.load.isSome && p.remote

/-- A fragment waits in a form in which a wave is taken: every wait but that of WAITC on a class other than D (R79, R375). A second BAR or ARRIVE that
waits for the phase counts as a wait in BAR (log 31: DESIGN CHOICE). -/
def WaitFor.takes : WaitFor → Bool
  | .waitc cls _ => cls == .d
  | _ => true

/-- The wave stands at a blocking point at which it is taken, or is stalled at issue as R254 gives. -/
def Wave.atTaking (w : Wave) : Bool :=
  (w.atBlock && w.frags.all fun f => match f.wait with
    | some c => f.state != .wait || c.takes
    | none => true) ||
  (w.pending.isEmpty && (w.stall == .ztake || w.stall == .gang || w.stall == .array || w.stall == .latch))

/-- A trap has been detected and the first word of its handler has not issued: the wave is not taken (R204). -/
def Wave.trapping (w : Wave) : Bool := w.trapPending.isSome || w.entering

/-- The wave stands at a park marker: its last word had P = 1, its results are back, and its current fragment does not wait (R79, R375). -/
def Wave.atMarker (w : Wave) : Bool := w.marker && w.pending.isEmpty && w.frag.state == .live

/-- The wave is held after a word with P = 1, and every result that is out is a remote load (R79). -/
def Wave.heldRemote (w : Wave) : Bool := w.held && w.marker && !w.pending.isEmpty && w.pending.all Pending.remoteLoad

/-- The wave of a victim block is at a moment at which it is taken (R79). A raise that it has asked for may be outstanding at a blocking point
(R342); an access of it that waits on its order begins first (R180, log 17: DESIGN CHOICE). -/
def Wave.takeable (w : Wave) : Bool :=
  w.ended || (!w.trapping && w.susp.isNone && !w.awaiting &&
    ((w.atTaking && w.pending.all fun p => p.tag == .raise) || w.heldRemote || (w.sliceDone && w.atMarker)))

/-- The waves of a victim block that are at such a moment are taken (R79). -/
def State.takeWaves (s : State) (bi : Nat) : State :=
  match (s.block bi).victim with
  | none => s
  | some _ => (s.block bi).waves.foldl (fun s wi =>
      if !(s.wave wi).taken && !s.stoppedWave (s.wave wi) && (s.wave wi).takeable then
        (s.endPinsOf wi).loseResvs wi |>.modWave wi fun w => { w with taken := true }
      else s) s

/-- As `takeWaves`, for the block of a wave. -/
def State.takeNow (s : State) (wi : Nat) : State := s.takeWaves (s.wave wi).block

/-! ### Long-class results (R91, R92) -/

/-- What the wave does when its last result has returned: it is no longer held, and a fusion or switch that is due takes place (R43, R92). -/
def Wave.released (w : Wave) : Wave := if w.pending.isEmpty then Wave.settle { w with held := false } else w

/-- The `k`-th outstanding result is no longer outstanding, nor among those that an order awaits (R91, R183). -/
def Wave.dropPending (w : Wave) (k : Nat) : Wave :=
  { w with pending := w.pending.eraseIdx k, holds := w.holds.map fun h => if k < h.pend then { h with pend := h.pend - 1 } else h }

/-- A result is written, and SF rises to its stamp (R91, R217). -/
def Wave.takeResult (w : Wave) (k : Nat) (p : Pending) : Wave :=
  Wave.released ((p.writes.foldl Wave.applyWrite (w.dropPending k)).raise p.sf)

/-- The result is one that is written in a given core cycle, which has come (R253). -/
def Pending.timedBy (p : Pending) (now : Nat) : Bool :=
  match p.tag with
  | .timed c => c ≤ now
  | _ => false

/-- The wave's units run: its block is resident (R206, R285), and the wave has not been taken. -/
def State.runs (s : State) (wi : Nat) : Bool := (s.blockOf (s.wave wi)).status == .resident && !(s.wave wi).taken

/-- LONG_RESULT_RETURN (R92): the `k`-th outstanding result of a wave returns where nothing holds it back. -/
def execLongResultReturn (wi k : Nat) (s : State) : Out :=
  match (s.wave wi).pending[k]? with
  | none => s.done
  | some p =>
    if s.runs wi && (p.tag == .ready || p.timedBy (s.cycle (s.coreOf (s.wave wi)))) then
      ((((s.modWave wi fun w => w.takeResult k p).recheck (s.wave wi).block).blockPins wi).takeNow wi).done
    else s.done

/-- An outstanding as-of load with its value (R224, R225). -/
def State.asofPending (s : State) (w : Wave) (p : Pending) : Pending :=
  match p.tag with
  | .asof l at_ =>
    let x := s.asofLanes at_ l
    let v := match l.dest with
      | .v r => r
      | .s r => r
    -- the lanes of the load are those of its destination's writes
    let ws := (List.range (MSize.regs l.size)).map fun k =>
      RegWrite.v (v + k) (maskOf (l.lanes.map fun y => y.1)) (w.perLane fun i =>
        MSize.reg l.size (((x.1.find? fun y => y.1 == i).map fun y => y.2).getD 0) k)
    let core := s.coreOf w
    { p with
      tag := .ready, writes := ws ++ p.writes.drop ws.length, sf := x.2
      remote := l.lanes.any fun y => homeOf y.2 != towerOf core || peerOf y.2 != 0 }
  | _ => p

/-- An outstanding as-of load can be answered (R224). -/
def State.asofDue (s : State) (p : Pending) : Bool :=
  match p.tag with
  | .asof l at_ => s.asofReady at_ l.bytes
  | _ => false

/-- The homes recall the dirty bytes of the lines of an outstanding as-of load (R173). -/
def State.asofBegin (s : State) (w : Wave) (p : Pending) : State :=
  match p.tag with
  | .asof l _ => s.asofRecall (s.funcOf w) l.lines
  | _ => s

/-- HOME_ASOF_READ (R224): the homes answer once their counts have passed the stamp's. -/
def execHomeAsofRead (wi k : Nat) (s : State) : Out :=
  match (s.wave wi).pending[k]? with
  | none => s.done
  | some p =>
    if s.runs wi && s.asofDue p then
      let s := s.asofBegin (s.wave wi) p
      (s.modWave wi fun w => { w with pending := w.pending.set k (s.asofPending w p) }).done
    else s.done

/-! ### Translation checks (R96) -/

/-- A suspended word goes on with its checks: the meaning of the word runs again, and its translations now walk (R96, R161). -/
def resume (i : Instr) (s : State) : Out :=
  match i with
  | .ld p v b o z c => execLd p v b o z c s
  | .st p v b o z c => execSt p v b o z c s
  | .sld p d b o z => execSld p d b o z s
  | .sst p d b o z => execSst p d b o z s
  | .ldas p v b o z q => execLdas p v b o z q s
  | .stc p v b o z q => execStc p v b o z q s
  | .atom p v b o a => execAtom p v b o a s
  | .lr p v b o z => execLr p v b o z s
  | .sc p v b o z => execSc p v b o z s
  | .waita p a v c sp => execWaita p a v c sp s
  | .waitbit p b x => execWaitbit p b x s
  | .cpyG2s p d => execCpyG2s p d s
  | .cpyS2g p d => execCpyS2g p d s
  | .cpyG2g p d => execCpyG2g p d s
  | .cpyg p d => execCpyg p d s
  | .cpyas p d => execCpyas p d s
  | .zld p z r => execZld p z r s
  | .zst p z r => execZst p z r s
  | _ => s.done

/-- TRANSLATION_CHECK_COMPLETE (R96). -/
def execTranslationCheckComplete (wi : Nat) (s : State) : Out :=
  match (s.wave wi).susp with
  | none => s.done
  | some i =>
    if s.runs wi && !s.stoppedWave (s.wave wi) then
      match resume i { s with issuing := wi } with
      | .next t => ((t.replayed wi i (s.wave wi)).takeNow wi).done
      | .fault r => .fault r
      | .refused r => .refused r
    else s.done

/-! ### Fetches (R72, R101) -/

/-- INSTRUCTION_FETCH_COMPLETE (R72): the wave's next word is fetched; its translation fills the caches (R164). -/
def execInstructionFetchComplete (wi : Nat) (s : State) : Out :=
  let w := s.wave wi
  if !s.awaitsFetch w then s.done
  else match s.fetchAddr w with
    | none => s.done
    | some a =>
      let s := match s.walkVia (s.coreOf w) (s.funcOf w) w.pc.toNat with
        | .ok page leaf => s.fillTlb (s.coreOf w) (s.funcOf w) (w.pc.toNat / 65536) page leaf
        | _ => s
      (s.modWave wi fun w => { w with ibuf := some (w.pc, BitVec.ofNat 32 (leNat (s.peekBy (s.fetchKey w)) a 4)) }).done

/-- INSTRUCTION_FETCH_FAIL (R101): a wave whose fetch fails ends its launch with REJECT_SCAN. -/
def execInstructionFetchFail (wi : Nat) (s : State) : Out :=
  let w := s.wave wi
  if s.awaitsFetch w && s.fetchWalk w != .wait && (s.fetchAddr w).isNone then
    (s.endLaunch (s.blockOf w).launch .rejScan 0 w.pc.toNat (s.blockOf w).index).done
  else s.done

/-! ### Traps (R97, R198) -/

/-- TRAP_DELIVERY (R198): the trap of a wave is delivered once its long-class results have returned. -/
def execTrapDelivery (wi : Nat) (s : State) : Out :=
  let w := s.wave wi
  match w.trapPending with
  | none => s.done
  | some t => if s.runs wi && w.pending.isEmpty then (s.deliver wi t).done else s.done

/-! ### The end of a wave (R28) -/

/-- The wave has no lanes, no outstanding long-class result, and all four counters at zero (R28). -/
def Wave.finished (w : Wave) : Bool :=
  w.noLanes && !w.awaiting && w.pending.isEmpty && w.outC.isEmpty && w.outM.isEmpty && w.outK.isEmpty && w.outD.isEmpty

/-- WAVE_END (R28): its write-combining lines drain, its pins end, its reservations are lost, and no barrier waits for it (R170, R188, R293,
R325). -/
def execWaveEnd (wi : Nat) (s : State) : Out :=
  let w := s.wave wi
  if wi < s.waves.length && s.runs wi && !w.ended && w.finished then
    let t := ((s.drainAll wi).endPinsOf wi).loseResvs wi
    let t := t.modWave wi fun w => { w with ended := true, endAt := s.cycle (s.coreOf w) }
    ((t.recheck w.block).takeWaves w.block).done
  else s.done

end Sys2Proof.Machine
end

