-- ==== Sys2Proof/Machine/Place.lean ====
section
/-! DEFINITION. Placing blocks (R32, R33, R65, R166, R176, R220), restoring saved blocks (R80, R82, R211, R255), and retiring blocks (R57). -/

namespace Sys2Proof.Machine

/-! ### Resources of a core (R18, R19, R29, R165) -/

/-- Blocks that hold resources of a core, by number. -/
def State.onCore (s : State) (core : Nat) : List Nat :=
  (List.range s.blocks.length).filter fun b => (s.block b).core == core && (s.block b).holds

/-- Waves that hold a slot and registers of a partition: those of its blocks that have not ended (R29). -/
def State.wavesIn (s : State) (core part : Nat) : List Nat :=
  ((s.onCore core).flatMap fun b => (s.block b).waves).filter fun i => (s.wave i).part == part && !(s.wave i).ended

/-- The waves of some indices that a starting partition puts on a partition (R32). -/
def wavesOn (idx : List Nat) (p0 part : Nat) : Nat := (idx.filter fun i => (p0 + i) % 4 == part).length

/-- The partition can take further waves of a launch (R19). -/
def State.partFits (s : State) (d : Desc) (core part n : Nat) : Bool :=
  let ws := s.wavesIn core part
  ws.length + n ≤ Config.slotsPerPartition &&
    (ws.map fun i => (s.wave i).width * (s.wave i).vregs.length).sum + n * d.width * d.vregs ≤ Config.laneRegs

/-- A block of a launch, with waves of some indices, fits on a core from a starting partition (R18, R19, R32, R165). -/
def State.fits (s : State) (d : Desc) (idx : List Nat) (core p0 : Nat) : Bool :=
  let bs := s.onCore core
  bs.length < Config.residentBlocks && (bs.map fun b => (s.block b).ways.length).sum + d.scratch ≤ Config.scratchWays &&
    (bs.map fun b => (s.block b).tileSlots.length).sum + d.tiles ≤ Config.tileSlots &&
    (List.range Config.partitions).all fun q => s.partFits d core q (wavesOn idx p0 q)

/-- The lowest numbers below a bound that are not in use. -/
def freeOf (bound n : Nat) (used : List Nat) : List Nat := ((List.range bound).filter fun x => !used.contains x).take n

/-- The ways, tile slots and palette set that a block takes on a core: the lowest that are free (R52, R165). -/
structure Grant where
  ways : List Nat
  tileSlots : List Nat
  pal : Nat
  /-- Wave slots, and units of lane-registers, by index. -/
  slots : List Nat
  units : List (List Nat)
  deriving DecidableEq, Repr, Inhabited

/-- The wave slot of an index: of the free slots of its partition, the one after those of smaller indices (R19). -/
def State.slotFor (s : State) (idx : List Nat) (core p0 i : Nat) : Nat :=
  let q := (p0 + i) % 4
  let before := wavesOn (idx.filter fun j => j < i) p0 q
  (freeOf Config.slotsPerPartition Config.slotsPerPartition ((s.wavesIn core q).map fun w => (s.wave w).slot)).getD before 0

/-- The units of lane-registers of an index: of the free units of its partition, those after the units of smaller indices (R31, log 3: DESIGN
CHOICE). -/
def State.unitsFor (s : State) (d : Desc) (idx : List Nat) (core p0 i : Nat) : List Nat :=
  let q := (p0 + i) % 4
  let n := d.width * d.vregs / 128
  let before := wavesOn (idx.filter fun j => j < i) p0 q
  ((freeOf Config.regUnits Config.regUnits ((s.wavesIn core q).flatMap fun w => (s.wave w).units)).drop (before * n)).take n

/-- What a block of a launch takes. -/
def State.grant (s : State) (d : Desc) (idx : List Nat) (core p0 : Nat) : Grant :=
  let bs := s.onCore core
  { ways := freeOf Config.ways d.scratch (bs.flatMap fun b => (s.block b).ways)
    tileSlots := freeOf Config.tileSlots d.tiles (bs.flatMap fun b => (s.block b).tileSlots)
    pal := (freeOf Config.residentBlocks 1 (bs.map fun b => (s.block b).palSlot)).headD 0
    slots := (List.range d.nwaves).map fun i => s.slotFor idx core p0 i
    units := (List.range d.nwaves).map fun i => s.unitsFor d idx core p0 i }

/-- A unit last belonged to another launch, so that it is zeroed before it is taken (R176). -/
def scrubbed (owner : Option Nat) (li : Nat) : Bool :=
  match owner with
  | some o => o != li
  | none => false

/-- Units marked with the launch that holds them. -/
def markOwner (l : List (Option Nat)) (us : List Nat) (li : Nat) : List (Option Nat) := us.foldl (fun l u => l.set u (some li)) l

/-- The partition after waves of a launch take units of lane-registers (R176). -/
def Part.takeUnits (p : Part) (us : List Nat) (li : Nat) : Part :=
  { p with regOwner := us.map (fun u => (u, li)) ++ p.regOwner.filter fun x => !us.contains x.1 }

/-- The units of lane-registers that a block takes of a partition. -/
def Grant.unitsOn (g : Grant) (idx : List Nat) (p0 q : Nat) : List Nat :=
  (idx.filter fun i => (p0 + i) % 4 == q).flatMap fun i => g.units.getD i []

/-- The core after a block takes what it was granted: GEN counts up, and the L1 lines leave with the ways (R166, R169, R176). -/
def Core.take (c : Core) (li p0 : Nat) (g : Grant) (idx : List Nat) : Core :=
  let d := c.nextGen
  { d with
    l1 := []
    wayOwner := markOwner c.wayOwner g.ways li
    tileOwner := markOwner c.tileOwner g.tileSlots li
    palOwner := markOwner c.palOwner [g.pal] li
    slotOwner := markOwner c.slotOwner (idx.map fun i => (p0 + i) % 4 * Config.slotsPerPartition + g.slots.getD i 0) li
    parts := (List.range c.parts.length).map fun q => (c.parts.getD q default).takeUnits (g.unitsOn idx p0 q) li }

/-- While a raise of the function is announced, a core on which a block comes to stand takes the announced horizon and must acknowledge it
(R230). -/
def State.joinRaise (s : State) (f core : Nat) : State :=
  match (s.func f).raising with
  | none => s
  | some r =>
    (s.modCore core fun c => c.setHz f r.h).modFunc f fun g => { g with acks := if g.acks.contains core then g.acks else g.acks ++ [core] }

/-- A wave of the block has been taken, or, of a block of a CORES launch, some wave or block of the launch has left: the eviction runs to its end
(R77, R78). -/
def State.leaving (s : State) (bi : Nat) : Bool :=
  let li := (s.block bi).launch
  let bs := if (s.launch li).desc.cores then s.heldOf li else [bi]
  (bs.any fun b => (s.block b).waves.any fun w => (s.wave w).taken) || ((s.launch li).desc.cores && !(s.savedOf li).isEmpty)

/-- The choice of a block as victim is cancelled, and its slice timers stop (R78). -/
def State.cancel (s : State) (bi : Nat) : State :=
  (s.block bi).waves.foldl (fun s wi => s.modWave wi fun w => { w with sliceDone := false })
    (s.modBlock bi fun b => { b with victim := none, save := none })

/-- The victim choices made for a waiting block are cancelled where no wave has been taken (R78). -/
def State.cancelFor (s : State) (li i : Nat) : State :=
  ((List.range s.blocks.length).filter fun bi =>
    (s.block bi).victim.isSome && (s.block bi).victimFor == (li, i) && !s.leaving bi).foldl State.cancel s

/-- The core may be used now: it is of the function's partition, placements on its die are not withheld, and the device places blocks
(R26, R64, R75, R276, R279, R290). -/
def State.coreOpen (s : State) (f core : Nat) : Bool :=
  (s.partition f).contains core && !(s.dies.getD (dieOf core) default).withheld && !(s.func f).susp && !s.noPlace

/-! ### A block's first state (R33, R90) -/

/-- `n` undefined words from a seed. -/
def undefWords (seed n : Nat) : List Word := (List.range n).map fun k => Config.undefWord (seed + k)

/-- A wave at its first instruction (R33, R34, R220). -/
def Wave.start (l : Launch) (bi i part slot : Nat) (units : List Nat) (sf : Stamp) (sregs : List Word) (vregs : List (List Word)) : Wave where
  block := bi
  index := i
  part := part
  slot := slot
  width := l.desc.width
  ended := false
  sregs := ((sregs.set 0 0).set 2 (l.desc.args.setWidth 32)).set 3 ((l.desc.args >>> 32).setWidth 32)
  vregs := vregs
  mregs := BitVec.ofNat 64 (2 ^ l.desc.width - 1) :: List.replicate 7 0
  scc := false
  pc := BitVec.ofNat 52 l.desc.entry
  cur := 0
  frags := { Frag.none with state := .live, mask := BitVec.ofNat 64 (2 ^ l.desc.width - 1) } :: List.replicate 7 Frag.none
  hints := Hints.none
  sf := sf
  outC := []
  outM := []
  outK := []
  outD := []
  recent := []
  rndMode := 0
  quantum := 32
  hzStaged := 0
  gate := 0
  wakeTo := 0
  cause := 0
  trapPc := 0
  trapMask := 0
  trapAddr := 0
  srSeed := 1
  clockLatch := none
  savExec := 0
  inTrap := false
  skipPc := 0
  srState := (List.range l.desc.width).map fun k => srSeedOf 1 k
  rank := []
  pending := []
  held := false
  susp := none
  trapPending := none
  entering := false
  qcount := 0
  qActive := 32
  defer := .none
  switchDue := false
  fuseDue := none
  gang := none
  keepOut := []
  holds := []
  readPc := 0
  units := units
  waitCount := 0
  lastIssue := 0
  skipCycle := false
  taken := false
  marker := false
  sliceDone := false
  sliceFrom := 0
  stall := .none
  stallAt := 0
  ibuf := none
  retired := 0
  pinLost := 0
  endAt := 0

/-- A unit of lane-registers of a partition is scrubbed for a launch (R176). -/
def Part.cleanUnit (p : Part) (u li : Nat) : Bool := scrubbed ((p.regOwner.find? fun x => x.1 == u).map fun x => x.2) li

/-- A vector register of a new wave: the words of scrubbed lane-registers are zero, the others undefined (R33, R176). -/
def Part.newVreg (p : Part) (li width seed : Nat) (units : List Nat) (r : Nat) : List Word :=
  (List.range width).map fun l =>
    if p.cleanUnit (units.getD ((r * width + l) / 128) 0) li then 0 else Config.undefWord (seed + r * width + l)

/-- A wave of a new block: what stands in scrubbed units is zero, and everything else that R33 does not name is undefined (R33, R176, log 3: DESIGN
CHOICE). -/
def State.newWave (s : State) (li bi core p0 : Nat) (g : Grant) (sf : Stamp) (i : Nat) : Wave :=
  let l := s.launch li
  let q := (p0 + i) % 4
  let slot := g.slots.getD i 0
  let seed := s.free + i * (64 + l.desc.vregs * l.desc.width)
  let clean := scrubbed ((s.core core).slotOwner.getD (q * Config.slotsPerPartition + slot) none) li
  let units := g.units.getD i []
  Wave.start l bi i q slot units sf (if clean then List.replicate 64 0 else undefWords seed 64)
    ((List.range l.desc.vregs).map fun r => ((s.core core).parts.getD q default).newVreg li l.desc.width (seed + 64) units r)

/-- Undefined words that a new block draws. -/
def Desc.draws (d : Desc) : Nat := d.nwaves * (64 + d.vregs * d.width) + d.tiles * 1024 + d.scratch * 16384

/-- A new block (R90): scrubbed units are zero, others undefined; tokens stand on the vector side and palettes hold zero. -/
def State.newBlock (s : State) (li i core p0 : Nat) (g : Grant) : Block :=
  let l := s.launch li
  let c := s.core core
  let seed := s.free + l.desc.nwaves * (64 + l.desc.vregs * l.desc.width)
  { launch := li
    index := i
    core := core
    p0 := p0
    status := .resident
    waves := (List.range l.desc.nwaves).map fun k => s.waves.length + k
    scratch := ⟨l.desc.scratch * 16384,
      g.ways.map fun w => if scrubbed (c.wayOwner.getD w none) li then .zero else .undef (seed + l.desc.tiles * 1024), []⟩
    tiles := (List.range l.desc.tiles).map fun z =>
      ⟨if scrubbed (c.tileOwner.getD (g.tileSlots.getD z 0) none) li then List.replicate 1024 0 else undefWords (seed + 1024 * z) 1024, false⟩
    pals := List.replicate 8 (List.replicate 64 0)
    phases := List.replicate l.groups false
    marks := []
    latch := []
    bsf := 0
    victim := none
    victimFor := (0, 0)
    moved := .dv
    placed := s.placements
    ways := g.ways
    tileSlots := g.tileSlots
    palSlot := g.pal
    save := none
    invalid := false
    image := none
    queue := [] }

/-- Block `i` of a launch is placed on a core: its units are taken and scrubbed, the core acquires at DV, and its waves begin together with
SF = max(FLOOR, Q) (R29, R57, R176, R220). -/
def State.placeBlock (s : State) (li i core p0 : Nat) : State :=
  let l := s.launch li
  let idx := List.range l.desc.nwaves
  let g := s.grant l.desc idx core p0
  let sf := maxStamp (s.func l.func).floor s.countQuery
  let b := s.newBlock li i core p0 g
  let ws := idx.map fun k => s.newWave li s.blocks.length core p0 g sf k
  let s := { (s.modCore core fun c => c.take li p0 g idx) with
    blocks := s.blocks ++ [b], waves := s.waves ++ ws, placements := s.placements + 1, free := s.free + l.desc.draws }
  let s := s.modLaunch li fun l => { l with placed := l.placed ++ [i], age := 0 }
  ((s.joinRaise l.func core).acquireAt core .dv).cancelFor li i

/-- BLOCK_PLACEMENT (R32, R58): a released block on a core on which it fits. -/
def execBlockPlacement (launch block core p0 : Nat) (s : State) : Out :=
  let l := s.launch launch
  if s.mayPlace launch block && !l.desc.cores && p0 < 4 && s.coreOpen l.func core && s.fits l.desc (List.range l.desc.nwaves) core p0 then
    (s.placeBlock launch block core p0).done
  else s.done

/-! ### Restoring a saved block (R80, R82, R255) -/

/-- The scope at which a block is evicted and restored: TW where the function's partition lies in one tower, else DV (R81, R82). The block's old core
does not enter, though FCORE may have removed it from the partition (log 31: DESIGN CHOICE). -/
def State.moveScope (s : State) (f : Nat) : Scope :=
  match s.partition f with
  | [] => .dv
  | c :: r => if r.all fun d => towerOf d == towerOf c then .tw else .dv

/-- The indices of a block's waves that have not ended. -/
def State.liveIdx (s : State) (bi : Nat) : List Nat :=
  ((s.block bi).waves.filter fun w => !(s.wave w).ended).map fun w => (s.wave w).index

/-- The saved block may be restored on a core: it fits, and the array is free where it held one (R82, R255). -/
def State.canRestore (s : State) (bi core p0 : Nat) : Bool :=
  let b := s.block bi
  let l := s.launch b.launch
  b.status == .saved && l.live && p0 < 4 && s.coreOpen l.func core && s.fits l.desc (s.liveIdx bi) core p0 &&
    (b.image.isNone || (s.core core).array.holder.isNone)

/-- The register writes of a load that is performed again. -/
def LoadRec.writes (r : LoadRec) (w : Wave) (vals : List (Nat × Nat)) : List RegWrite :=
  let val := fun l => ((vals.find? fun x => x.1 == l).map fun x => x.2).getD 0
  match r.dest with
  | .v d => (List.range (MSize.regs r.size)).map fun k =>
      .v (d + k) (maskOf (r.lanes.map fun x => x.1)) (w.perLane fun l => MSize.reg r.size (val l) k)
  | .s d => (List.range (MSize.regs r.size)).map fun k => .s (d + k) (MSize.reg r.size (val 0) k)

/-- A recorded load can be performed: none of its bytes is pinned (R187). -/
def State.loadFree (s : State) (p : Pending) : Bool :=
  match p.load with
  | none => true
  | some r => r.asof.isSome || !s.pinned r.bytes

/-- A recorded load performed again: at the physical addresses that it was issued with, beyond the L1 and without a second acquire of its order; an
as-of load keeps its stamp, and with it its value (R80, R320, log 31: DESIGN CHOICE). -/
def State.reload (s : State) (wi k : Nat) (p : Pending) : State :=
  match p.load with
  | none => s
  | some r =>
    if r.asof.isSome then s
    else
      let w := s.wave wi
      let as := r.lanes.map fun x => (⟨x.1, 0, x.2, { (default : Leaf) with key := r.key x.2 }⟩ : Acc)
      let x := State.readLines wi (MSize.bytes r.size) (fun a => if peerOf a.pa ≠ 0 then .home .dflt else .bypass) as r.lines s
      let vals := r.lanes.map fun l => (l.1, x.1.readValue wi x.2 l.2 (MSize.bytes r.size))
      x.1.modWave wi fun w' => { w' with pending := w'.pending.set k { p with
        writes := r.writes w vals ++ p.writes.drop (MSize.regs r.size), sf := x.2.stamp } }

/-- The recorded loads of a wave performed again, in order (R80). -/
def State.reloads (s : State) (wi : Nat) : State :=
  (List.range (s.wave wi).pending.length).foldl (fun s k => match (s.wave wi).pending[k]? with
    | some p => s.reload wi k p
    | none => s) s

/-- A wave as it stands on the core on which it is restored. -/
def Wave.seat (w : Wave) (p0 : Nat) (g : Grant) : Wave :=
  { w with part := (p0 + w.index) % 4, slot := g.slots.getD w.index 0, units := g.units.getD w.index [], taken := false, sliceDone := false, ibuf := none
           waitCount := 0, skipCycle := false, stall := .none, stallAt := 0 }

/-- The array of a core with a block's image and queue reloaded in 256 core cycles: the frozen operations go on from where they were, and the
queue in its order (R158, R211, R255). -/
def Core.reloadArray (c : Core) (bi : Nat) (img : Plane × Plane) (q : List MatOp) (now : Nat) : Core :=
  { c with array := ⟨some bi, img.1, img.2, q.map fun o => { o with beginAt := now + 256 }, now + 256⟩ }

/-- A saved block is restored on a core: its units are taken, the core acquires, its context is reloaded with its array, and its recorded
loads are performed again and the conditions of its waits tested (R80, R82, R211, R239, R255). -/
def State.restoreBlock (s : State) (bi core p0 : Nat) : State :=
  let b := s.block bi
  let l := s.launch b.launch
  let idx := s.liveIdx bi
  let g := s.grant l.desc idx core p0
  let s := { (s.modCore core fun c => c.take b.launch p0 g idx) with placements := s.placements + 1 }
  let s := s.modBlock bi fun b => { b with
    status := .resident, core := core, p0 := p0, ways := g.ways, tileSlots := g.tileSlots, palSlot := g.pal, save := none
    victim := none, placed := s.placements - 1, image := none, queue := [] }
  let s := match b.image with
    | none => s
    | some img => s.modCore core fun c => c.reloadArray bi img b.queue (s.cycle core)
  let s := b.waves.foldl (fun s wi => s.modWave wi fun w => w.seat p0 g) s
  let s := (s.joinRaise l.func core).acquireAt core b.moved
  let s := b.waves.foldl (fun s wi => (s.reloads wi).retest wi) s
  (s.modLaunch b.launch fun l => { l with age := 0 }).cancelFor b.launch b.index

/-- A saved record that software has written ends the launch with FAULT and SAVEINVAL, 0xFD (R197, R211). -/
def State.restoreOr (s : State) (bi core p0 : Nat) : State :=
  if (s.block bi).invalid then s.endLaunch (s.block bi).launch .fault 0xFD 0 (s.block bi).index else s.restoreBlock bi core p0

/-- Every recorded load of a block can be performed. -/
def State.loadsFree (s : State) (bi : Nat) : Bool := (s.block bi).waves.all fun wi => (s.wave wi).pending.all s.loadFree

/-- BLOCK_RESTORE (R82): an evicted block of a launch that is not CORES; a CORES launch is restored as a whole (R65). -/
def execBlockRestore (block core p0 : Nat) (s : State) : Out :=
  if s.canRestore block core p0 && !(s.launch (s.block block).launch).desc.cores && s.loadsFree block then (s.restoreOr block core p0).done
  else s.done

/-! ### Placing a CORES launch (R65) -/

/-- The blocks of a CORES launch placed one after another; none where one of them does not fit. -/
def State.placeAll (li : Nat) : List (Nat × Nat × Nat) → State → Option State
  | [], s => some s
  | (i, c, p0) :: r, s =>
    let l := s.launch li
    if p0 < 4 && s.coreOpen l.func c && s.fits l.desc (List.range l.desc.nwaves) c p0 then State.placeAll li r (s.placeBlock li i c p0)
    else none

/-- The saved blocks of a CORES launch restored one after another; none where one of them does not fit. -/
def State.restoreAll : List (Nat × Nat × Nat) → State → Option State
  | [], s => some s
  | (bi, c, p0) :: r, s =>
    if s.canRestore bi c p0 && s.loadsFree bi then State.restoreAll r (s.restoreBlock bi c p0) else none

/-- CORES_PLACEMENT (R65, R82): every block of the launch is reserved and started at once, or none; a launch that was evicted is restored
as a whole, when every block of it has left. `places` gives each block's core and starting partition, by rising linear index. -/
def execCoresPlacement (launch : Nat) (places : List (Nat × Nat)) (s : State) : Out :=
  let l := s.launch launch
  let saved := s.savedOf launch
  if !l.live || !l.desc.cores || (s.func l.func).susp then s.done
  else if !saved.isEmpty then
    if !(s.heldOf launch).isEmpty then s.done
    else if saved.any fun b => (s.block b).invalid then
      (s.endLaunch launch .fault 0xFD 0 (((saved.find? fun b => (s.block b).invalid).map fun b => (s.block b).index).getD 0)).done
    else if saved.length = places.length then
      match State.restoreAll (saved.zip places) s with
      | some t => (t.cancelFor launch 0).done
      | none => s.done
    else s.done
  else if l.placed.isEmpty && !s.clears l && !s.upstreamFailed l && s.isReleased l 0 && places.length == l.desc.total then
    match State.placeAll launch ((List.range l.desc.total).zip places) s with
    | some t => t.done
    | none => s.done
  else s.done

/-! ### Retirement (R57, R220, R384) -/

/-- The retirement stamp of a block: the largest SF of its waves (R220). -/
def State.retireStamp (s : State) (bi : Nat) : Stamp := (s.block bi).waves.foldl (fun m i => maxStamp m (s.wave i).sf) 0

/-- The block's units are given back, its array with them; a victim choice of it ends (R29, R78, R241). -/
def State.vacate (s : State) (bi : Nat) : State :=
  (s.modCore (s.block bi).core fun c => { c with array := c.array.dropBlock bi }).modBlock bi fun b => { b with
    status := .retired, victim := none, save := none }

/-- The address of a block's word of the completion bitmap (R55). -/
def Desc.bitmapWord (d : Desc) (i : Nat) : Nat := d.cbmp + 8 * (i / 64)

/-- The bit of a block is set in the bitmap by an atomic OR at its home, with the retirement stamp as floor; where it fails the launch ends
with FAULT (R57, R220, R384). -/
def State.orBitmap (s : State) (li i : Nat) (floor : Stamp) : State :=
  let l := s.launch li
  if l.desc.cbmp = 0 then s
  else match s.sysCheck l.func (l.desc.bitmapWord i % 2 ^ 52) true with
    | .error c => s.endLaunch li .fault c 0 i
    | .ok (a, key) =>
      let s := s.recall (lineOf a)
      let x := leNat (s.peekBy key) a 8 ||| 2 ^ (i % 64)
      (s.homeStore ⟨0, none, l.func, lineOf a, leBytes a x 8, floor, key, .dflt, [], .store, .other⟩ none).1

/-- The OR of a block would wait at its home (R187, R231). -/
def State.orHeld (s : State) (li i : Nat) : Bool :=
  let l := s.launch li
  l.desc.cbmp != 0 && (s.walkWaits l.func (l.desc.bitmapWord i) 8 ||
    match s.sysCheck l.func (l.desc.bitmapWord i % 2 ^ 52) true with
    | .error _ => false
    | .ok (a, _) => s.sysHeld (leBytes a 0 8))

/-- The launch after a retirement: with the last block it ends DONE; where its upstream has failed, UPSTREAM_FAILED once no block of it is
left (R54, R61). -/
def State.finishLaunch (s : State) (li : Nat) : State :=
  let l := s.launch li
  let end_ := fun (st : LaunchStatus) => (s.modLaunch li fun l => { l with status := st }).closeLaunch li
  if !l.live then s
  else if s.upstreamFailed l then (if (s.heldOf li).isEmpty && (s.savedOf li).isEmpty then end_ .upstreamFailed else s)
  else if l.board.length = l.desc.total then end_ .done
  else s

/-- BLOCK_RETIREMENT (R57): every wave has ended, and no tile transfer is outstanding (R248, R379). The block's writes are released at DV, its board
bit and its bitmap bit are set, FLOOR rises, its units are given back, and the last retirement ends the launch. -/
def execBlockRetirement (block : Nat) (s : State) : Out :=
  let b := s.block block
  let li := b.launch
  if block < s.blocks.length && b.status == .resident && s.atRest block && b.waves.all fun w => (s.wave w).ended then
    let t := s.sysRelease
    if !t.storesDone block || t.orHeld li b.index || t.recordHeld li then s.done
    else
      let st := t.retireStamp block
      let t := (t.vacate block).modFunc (t.launch li).func fun f => { f with floor := maxStamp f.floor st }
      let t := t.modLaunch li fun l => { l with board := l.board ++ [b.index] }
      ((t.orBitmap li b.index st).finishLaunch li).done
  else s.done

end Sys2Proof.Machine
end

