-- ==== Sys2Proof/Machine/Evict.lean ====
section
/-! DEFINITION. Pre-emption: the choice of victims (R76 to R78, R208), slice timers (R79), and the eviction of a block with its record in the
save area (R81, R209, R210, R255, R269). -/

namespace Sys2Proof.Machine

/-! ### Room in the save area (R208, R209) -/

/-- Units of 4 KiB of a number of bytes. -/
def pages4k (n : Nat) : Nat := (n + 4095) / 4096

/-- Units of the wave records of a block (R209). -/
def waveUnits (d : Desc) : Nat := pages4k (d.nwaves * (4096 + d.width * d.vregs * 4))

/-- The block holds the array of its core (R241). -/
def State.holdsArray (s : State) (bi : Nat) : Bool := (s.core (s.block bi).core).array.holder == some bi

/-- Units of a block's record: header, wave records, scratchpad, tiles, and the image where the block holds the array (R209). -/
def State.recordUnits (s : State) (bi : Nat) : Nat :=
  let d := (s.launch (s.block bi).launch).desc
  2 + waveUnits d + d.scratch * 4 + d.tiles + if s.holdsArray bi then 32 else 0

/-- Records kept or reserved in a function's area, but for one block. -/
def State.savesOf (s : State) (f but : Nat) : List (Nat × Nat) :=
  (List.range s.blocks.length).filterMap fun i => if i ≠ but ∧ s.funcOfBlock (s.block i) = f then (s.block i).save else none

/-- Two ranges of units are apart. -/
def apart (a n : Nat) (x : Nat × Nat) : Bool := a + n ≤ x.1 || x.1 + x.2 ≤ a

/-- The place of a record of some size in a function's area: the lowest that is free (R208). -/
def State.saveSlot (s : State) (f bi n : Nat) : Option Nat :=
  let used := s.savesOf f bi
  let starts := 0 :: used.map fun x => x.1 + x.2
  let fit := starts.filter fun a => a + n ≤ (s.func f).saveSize * 16 && used.all fun x => apart a n x
  fit.foldl (fun m a => match m with
    | none => some a
    | some b => some (min a b)) none

/-- The slice timer of a wave starts in a core cycle (R79). -/
def Wave.startSlice (w : Wave) (now : Nat) : Wave := { w with sliceFrom := now }

/-- The SLICE cycles of a wave have passed; the timers of a stopped partition stand still (R79, R285). -/
def State.sliceOver (s : State) (w : Wave) : Bool :=
  w.sliceFrom + (s.func (s.funcOf w)).fslice ≤ s.cycle (s.coreOf w) && !s.stoppedWave w

/-- A block chosen as victim: the slice timers of its waves start, and its record is reserved; none where it does not fit (R76, R79, R208). -/
def State.chooseVictim (s : State) (forWhom : Nat × Nat) (bi : Nat) : Option State :=
  let b := s.block bi
  let n := s.recordUnits bi
  (s.saveSlot (s.funcOfBlock b) bi n).map fun a =>
    b.waves.foldl (fun s wi => s.modWave wi fun w => w.startSlice (s.cycle b.core)) ((s.cancel bi).modBlock bi fun b => { b with
      victim := some (s.cycle b.core), victimFor := forWhom, save := some (a, n) })

/-- Several blocks chosen together: every one of them, or none (R77, R208). -/
def State.reserveAll (forWhom : Nat × Nat) : List Nat → State → Option State
  | [], s => some s
  | b :: r, s => match s.chooseVictim forWhom b with
    | none => none
    | some t => State.reserveAll forWhom r t

/-! ### What a core would hold (R18, R19) -/

/-- What the blocks of a core take of it. -/
structure Occ where
  blocks : Nat
  ways : Nat
  tiles : Nat
  slots : List Nat
  regs : List Nat
  deriving DecidableEq, Repr

/-- What a core holds without some blocks. -/
def State.occ (s : State) (core : Nat) (out : List Nat) : Occ :=
  let bs := (s.onCore core).filter fun b => !out.contains b
  let ws := fun q => (s.wavesIn core q).filter fun w => !out.contains (s.wave w).block
  { blocks := bs.length
    ways := (bs.map fun b => (s.block b).ways.length).sum
    tiles := (bs.map fun b => (s.block b).tileSlots.length).sum
    slots := (List.range 4).map fun q => (ws q).length
    regs := (List.range 4).map fun q => ((ws q).map fun w => (s.wave w).width * (s.wave w).vregs.length).sum }

/-- The core with a block of a launch more, from a starting partition; none where it does not fit. -/
def Occ.add (o : Occ) (d : Desc) (idx : List Nat) (p0 : Nat) : Option Occ :=
  let slots := (List.range 4).map fun q => o.slots.getD q 0 + wavesOn idx p0 q
  let regs := (List.range 4).map fun q => o.regs.getD q 0 + wavesOn idx p0 q * d.width * d.vregs
  let n : Occ := ⟨o.blocks + 1, o.ways + d.scratch, o.tiles + d.tiles, slots, regs⟩
  if n.blocks ≤ Config.residentBlocks ∧ n.ways ≤ Config.scratchWays ∧ n.tiles ≤ Config.tileSlots ∧
      slots.all (· ≤ Config.slotsPerPartition) ∧ regs.all (· ≤ Config.laneRegs) then some n
  else none

/-- The most blocks of a launch, up to `n`, that fit beside what a core holds. -/
def Occ.room (d : Desc) (idx : List Nat) : Nat → Occ → Nat
  | 0, _ => 0
  | n + 1, o => (List.range 4).foldl (fun m p0 => match o.add d idx p0 with
    | none => m
    | some q => max m (1 + Occ.room d idx n q)) 0

/-- Starting partitions from which some blocks of a launch, given by the indices of their waves, fit together beside what a core holds (R32). -/
def Occ.spread (d : Desc) : List (List Nat) → Occ → Option (List Nat)
  | [], _ => some []
  | idx :: r, o => (List.range 4).findSome? fun p0 => match o.add d idx p0 with
    | none => none
    | some q => (Occ.spread d r q).map fun l => p0 :: l

/-- What a block asks of a core beside its launch's resources: the waves that have not ended, and the array for its image (R82, R255). -/
structure Need where
  idx : List Nat
  image : Bool
  deriving DecidableEq, Repr, Inhabited

/-- The array of a core is free once some blocks have left. -/
def State.arrayFree (s : State) (core : Nat) (out : List Nat) : Bool :=
  match (s.core core).array.holder with
  | none => true
  | some b => out.contains b

/-- Some blocks of a launch fit together on a core once others have left it. -/
def State.fitTogether (s : State) (d : Desc) (core : Nat) (out : List Nat) (ns : List Need) : Bool :=
  ns.length ≤ Config.residentBlocks && (ns.filter fun n => n.image).length ≤ (if s.arrayFree core out then 1 else 0) &&
    ((s.occ core out).spread d (ns.map fun n => n.idx)).isSome

/-- Of the blocks that have no place yet, those that a core takes beside the ones it has, and the rest. -/
def State.fill (s : State) (d : Desc) (core : Nat) (out : List Nat) :
    List (Nat × Need) → List (Nat × Need) → List (Nat × Need) × List (Nat × Need)
  | [], t => (t, [])
  | b :: r, t =>
    if s.fitTogether d core out ((t ++ [b]).map fun x => x.2) then State.fill s d core out r (t ++ [b])
    else
      let x := State.fill s d core out r t
      (x.1, b :: x.2)

/-- The open cores of a function (R64). -/
def State.openCores (s : State) (f : Nat) : List Nat := (s.partition f).filter fun c => s.coreOpen f c

/-- The blocks of a launch that a placement as a whole covers: the saved ones, or every block of a launch that has not begun (R65, R82). -/
def State.needsOf (s : State) (li : Nat) : List Need :=
  let l := s.launch li
  match s.savedOf li with
  | [] => List.replicate l.desc.total ⟨List.range l.desc.nwaves, false⟩
  | bs => bs.map fun b => ⟨s.liveIdx b, (s.block b).image.isSome⟩

/-- Cores and starting partitions for all those blocks at once, core by core, when some blocks have left; none where the search finds no room
(R65, log 15: DESIGN CHOICE). -/
def State.planOn (s : State) (li : Nat) (out : List Nat) : Option (List (Nat × Nat)) :=
  let l := s.launch li
  let ns := s.needsOf li
  let all : List (Nat × Need) := (List.range ns.length).map fun k => (k, ns.getD k default)
  let x := (s.openCores l.func).foldl (fun (acc : List (Nat × Nat × Nat) × List (Nat × Need)) c =>
    let y := s.fill l.desc c out acc.2 []
    let p0s := ((s.occ c out).spread l.desc (y.1.map fun b => b.2.idx)).getD []
    (acc.1 ++ (y.1.zip p0s).map fun z => (z.1.1, c, z.2), y.2)) ([], all)
  if x.2.isEmpty then some ((List.range ns.length).map fun k => ((x.1.find? fun z => z.1 == k).map fun z => z.2).getD (0, 0)) else none

/-! ### Candidates (R76, R77) -/

/-- A candidate on a core: the blocks that leave with it, its level, and the order of its latest placement. -/
structure VictimUnit where
  blocks : List Nat
  level : Nat
  placed : Nat
  deriving DecidableEq, Repr

/-- A block may be chosen: it is resident, not chosen yet, and its launch stands below the level (R76). -/
def State.below (s : State) (lvl bi : Nat) : Bool :=
  (s.block bi).status == .resident && (s.block bi).victim.isNone && (s.launch (s.block bi).launch).lvl < lvl

/-- The candidate that a block stands for: itself, or every resident block of its CORES launch (R77). -/
def State.unitOf (s : State) (bi : Nat) : VictimUnit :=
  let b := s.block bi
  let l := s.launch b.launch
  ⟨if l.desc.cores then (s.heldOf b.launch).filter fun c => (s.block c).status == .resident else [bi], l.lvl, b.placed⟩

/-- The first of two candidates is taken first: the lower level, then the most recent placement (R76). -/
def VictimUnit.before (a b : VictimUnit) : Bool := a.level < b.level || (a.level == b.level && b.placed ≤ a.placed)

/-- A candidate put into its order. -/
def insertUnit (u : VictimUnit) : List VictimUnit → List VictimUnit
  | [] => [u]
  | v :: r => if u.before v then u :: v :: r else v :: insertUnit u r

/-- The candidates on a core, in the order in which they are taken; CORES launches only where `whole` (R76, R77). -/
def State.unitsOn (s : State) (lvl core : Nat) (whole : Bool) : List VictimUnit :=
  (((s.onCore core).filter fun b => s.below lvl b && (whole || !(s.launch (s.block b).launch).desc.cores)).map s.unitOf).foldr insertUnit []

/-- The victims that a core needs: candidates in order, those left out whose records do not fit, until the waiting block fits (R76, R208). The answer
holds the highest level of a victim and their count, in which a CORES launch is one victim (R77). -/
def State.needOn (s : State) (forWhom : Nat × Nat) (d : Desc) (n : Need) (core : Nat) :
    List VictimUnit → List Nat → Nat × Nat → State → Option (State × Nat × Nat)
  | us, out, cost, t =>
    if s.fitTogether d core out [n] then some (t, cost)
    else match us with
      | [] => none
      | u :: r =>
        if u.blocks.any out.contains then State.needOn s forWhom d n core r out cost t
        else match State.reserveAll forWhom u.blocks t with
          | none => State.needOn s forWhom d n core r out cost t
          | some t' => State.needOn s forWhom d n core r (out ++ u.blocks) (max cost.1 u.level, cost.2 + 1) t'

/-- The better of two choices: the lower maximum level, then fewer victims; the earlier core on a tie (R76). -/
def betterChoice (a b : Option (State × Nat × Nat)) : Option (State × Nat × Nat) :=
  match a, b with
  | none, x => x
  | x, none => x
  | some x, some y => if y.2.1 < x.2.1 ∨ (y.2.1 = x.2.1 ∧ y.2.2 < x.2.2) then some y else some x

/-- The choice for one waiting block over the open cores of its function (R76). -/
def State.chooseVictims (s : State) (li i : Nat) (n : Need) (whole : Bool) : Option State :=
  let l := s.launch li
  (((s.openCores l.func).map fun c => s.needOn (li, i) l.desc n c (s.unitsOn l.lvl c whole) [] (0, 0) s).foldl betterChoice none).map fun x => x.1

/-- A choice under construction for a CORES launch: blocks that find room, the blocks that leave, the count of victims, in which a CORES launch is
one (R77), and the state with their records reserved. -/
structure Gather where
  room : Nat
  out : List Nat
  count : Nat
  state : State
  deriving Repr

/-- The blocks of a CORES launch that find room on a core once some blocks have left. -/
def State.roomOn (s : State) (li core : Nat) (out : List Nat) : Nat :=
  let d := (s.launch li).desc
  let r := Occ.room d (List.range d.nwaves) 8 (s.occ core out)
  if (s.needsOf li).all fun n => n.image then (if s.arrayFree core out then min 1 r else 0) else r

/-- The choices that a core offers, those with more of its candidates first: of choices with equally many victims the one on lower cores comes first
(R76). A CORES launch counts once, wherever its blocks stand (R77). -/
def State.offers (s : State) (li core : Nat) : List VictimUnit → Gather → List Gather
  | [], g => [{ g with room := g.room + s.roomOn li core g.out }]
  | u :: r, g =>
    let here : Gather := { g with room := g.room + s.roomOn li core g.out }
    if u.blocks.all g.out.contains then State.offers s li core r g
    else match State.reserveAll (li, 0) u.blocks g.state with
      | none => State.offers s li core r g ++ [here]
      | some t => State.offers s li core r ⟨g.room, g.out ++ u.blocks, g.count + 1, t⟩ ++ [here]

/-- Of the choices with some room, the one with the fewest victims; the earlier on a tie. -/
def keepBest (n : Nat) : List Gather → List Gather → List Gather
  | [], kept => kept
  | g :: r, kept =>
    let g := { g with room := min g.room n }
    if kept.any fun k => g.room ≤ k.room && k.count ≤ g.count then keepBest n r kept
    else keepBest n r (kept.filter (fun k => !(k.room ≤ g.room && g.count < k.count)) ++ [g])

/-- The choice for a CORES launch with candidates of at most a level: the fewest victims that let every block find room (R76). -/
def State.gather (s : State) (li n lvl : Nat) (whole : Bool) : Option Gather :=
  let l := s.launch li
  let done := (s.openCores l.func).foldl (fun gs c =>
    keepBest n (gs.flatMap fun g => s.offers li c ((s.unitsOn l.lvl c whole).filter fun u => u.level ≤ lvl) g) []) [⟨0, [], 0, s⟩]
  done.foldl (fun m g => if (s.planOn li g.out).isNone then m else match m with
    | none => some g
    | some b => if g.count < b.count then some g else some b) none

/-- The choice for a CORES launch: the lowest maximum level that serves (R76). -/
def State.chooseCores (s : State) (li : Nat) (whole : Bool) : Option State :=
  let l := s.launch li
  ((List.range l.lvl).findSome? fun lvl => s.gather li (s.needsOf li).length lvl whole).map fun g => g.state

/-- A released or saved block of a launch that waits, with what it asks of a core: it fits on no open core of its function (R76, R82). -/
def State.waitsFor (s : State) (li i : Nat) : Option Need :=
  let l := s.launch li
  let need : Option Need := match (s.savedOf li).find? fun b => (s.block b).index == i with
    | some b => some ⟨s.liveIdx b, (s.block b).image.isSome⟩
    | none => if s.mayPlace li i then some ⟨List.range l.desc.nwaves, false⟩ else none
  need.filter fun n => l.live && (s.openCores l.func).all fun c => !s.fitTogether l.desc c [] [n]

/-- The blocks of a CORES launch wait to be placed or restored as a whole: none of it is resident (R65, R82). -/
def State.coresReady (s : State) (li : Nat) : Bool :=
  let l := s.launch li
  l.live && if (s.savedOf li).isEmpty then l.placed.isEmpty && !s.clears l && !s.upstreamFailed l && s.isReleased l 0 else (s.heldOf li).isEmpty

/-- The waves of every victim block that stand at a moment of R79 are taken. -/
def State.takeAll (s : State) : State := (List.range s.blocks.length).foldl State.takeWaves s

/-- A choice has been made for the waiting block and is not finished (R78). -/
def State.choosing (s : State) (li i : Nat) : Bool := s.blocks.any fun b => b.victim.isSome && b.victimFor == (li, i)

/-- The choice of victims for a launch: for its first waiting block that has none, or for every block of a CORES launch (named by index 0). Victims
of CORES launches are taken only where no other choice frees the space (R76, R77). -/
def State.choiceOf (s : State) (li : Nat) : Option (Nat × State) :=
  let l := s.launch li
  if !l.live || l.lvl = 0 then none
  else if l.desc.cores then
    if s.choosing li 0 || !s.coresReady li || (s.planOn li []).isSome then none
    else (s.chooseCores li false <|> s.chooseCores li true).map fun t => (0, t)
  else match (List.range l.desc.total).find? fun i => (s.waitsFor li i).isSome && !s.choosing li i with
    | none => none
    | some i => match s.waitsFor li i with
      | none => none
      | some n => (s.chooseVictims li i n false <|> s.chooseVictims li i n true).map fun t => (i, t)

/-- Launches in the order in which waiting blocks are served: by level, then by number (R76). -/
def State.served (s : State) : List Nat :=
  ((List.range 8).reverse).flatMap fun lvl =>
    (List.range s.launches.length).filter fun li => (s.launch li).lvl == lvl && (s.launch li).live

/-- The next choice of victims, in the order of service: the launch, the block, and the state with its victims (R76). -/
def State.nextChoice (s : State) : Option (Nat × Nat × State) := s.served.findSome? fun li => (s.choiceOf li).map fun x => (li, x.1, x.2)

/-- VICTIM_CHOICE (R76, R77): the next waiting block in the order of service, or every block of a waiting CORES launch, gets its victims; those
that stand at a moment of R79 are taken. -/
def execVictimChoice (launch block : Nat) (s : State) : Out :=
  match s.nextChoice with
  | none => s.done
  | some (li, i, t) => if li = launch ∧ i = block then t.takeAll.done else s.done

/-- SLICE_EXPIRY (R79): SLICE cycles after the choice, the wave is taken at its next park marker, or at once where it stands at one. -/
def execSliceExpiry (wave : Nat) (s : State) : Out :=
  let w := s.wave wave
  if wave < s.waves.length && (s.blockOf w).victim.isSome && s.sliceOver w then
    ((s.modWave wave fun w => { w with sliceDone := true }).takeWaves w.block).done
  else s.done

/-! ### The record (R209, R210, R255, R269) -/

/-- The pending hint words of a wave, by kind (R95, R210). -/
def Hints.words (h : Hints) : List Word :=
  let imm := h.imm.bind fun x => encode (.hintImm x)
  let ord := h.ord.bind fun x => encode (.hintOrd x.1 x.2)
  let dep := h.dep.bind fun x => encode (.hintDep x.1 x.2.isSome (x.2.getD 0))
  let rnd := h.rnd.bind fun x => encode (.hintRnd x)
  let off := h.off.bind fun x => encode (.hintOff x)
  [imm, ord, dep, rnd, off].filterMap id

/-- The 24 bytes of a split-table entry (R39). -/
def Frag.bytes (f : Frag) : List Byte :=
  wordsBytes 8 [f.mask.toNat, f.pc.toNat, f.rejoin.toNat + f.link * 2 ^ 52 + if f.scc then 2 ^ 55 else 0]

/-- The 8 bytes of an entry of the rank held state (R269). -/
def RankElem.bytes (e : RankElem) : List Byte :=
  natBytes (e.bits.toNat + e.index % 4096 * 2 ^ 32 + (RType.code e.type).toNat * 2 ^ 44 + 2 ^ 63) 8

/-- The control registers of a wave as its record holds them: c9 to c21, c23, the staged half of c11 and the latched half of the clock
(R89, R210, R311). -/
def State.controls (s : State) (w : Wave) : List Nat :=
  ((List.range 13).map fun k => (s.sample w (BitVec.ofNat 6 (9 + k))).toNat) ++
    [w.srSeed.toNat, w.hzStaged.toNat, (w.clockLatch.getD 0).toNat]

/-- The flags of a wave's record at 0x14C (R210). -/
def Wave.recordFlags (w : Wave) : Nat :=
  (if w.scc then 1 else 0) + (if w.inTrap then 2 else 0) + w.rank.length * 4 + if w.clockLatch.isSome then 512 else 0

/-- Entry states as STATES holds them (R210). -/
def statesNat : List Frag → Nat
  | [] => 0
  | f :: r => f.state.code.toNat + 16 * statesNat r

/-- The word of the code at a virtual address of the function; 0 where none is mapped. -/
def State.codeWord (s : State) (f : Nat) (va : VAddr) : Nat :=
  match s.walk f va.toNat with
  | .ok page l => leNat (s.peekBy l.key) (page * 65536 + va.toNat % 65536) 4
  | _ => 0

/-- The entry whose wait WAKE holds: the current one, or the lowest that waits (R210, log 20: DESIGN CHOICE). -/
def Wave.wakeEntry (w : Wave) : Option Nat :=
  if w.frag.state = .wait then some w.cur else (List.range 8).find? fun e => (w.fragAt e).state == .wait

/-- What a wait compares its word with, and the address of the word: the value of WAITA, the bit of WAITBIT (R372, R374). -/
def WaitFor.operands : WaitFor → Nat × Nat
  | .waita _ v _ a _ _ => (v.toNat, a)
  | .waitbit a bit _ _ => (bit, a)
  | _ => (0, 0)

/-- WAKE (R210, R372, R374): the waiting word, with its condition; the value or bit number; the awaited address, with the entry above it; the word's
own address; and the cycles waited (log 20: DESIGN CHOICE). -/
def State.wakeBytes (s : State) (w : Wave) : List Byte :=
  match w.wakeEntry with
  | none => []
  | some e =>
    let f := w.fragAt e
    let pc := match f.wait with
      | some (.rearm ..) => f.pc
      | _ => f.pc - 4
    let x := (f.wait.map WaitFor.operands).getD (0, 0)
    wordsBytes 4 [s.codeWord (s.funcOf w) pc, x.1] ++ wordsBytes 8 [x.2 + e * 2 ^ 60, pc.toNat, f.waited]

/-- A destination as the records number registers: v0 to v127, then s0 to s63 from 128 up (log 20: DESIGN CHOICE). -/
def Dest.number : Dest → Nat
  | .v r => r
  | .s r => 128 + r

/-- RLOADS (R80, R210): for each address of a recorded load, the address, the lanes that load from it, and its register and size (log 20: DESIGN
CHOICE). -/
def LoadRec.saved (r : LoadRec) : List Byte :=
  (distinct (r.lanes.map fun x => x.2)).flatMap fun a =>
    wordsBytes 8 [a, (maskOf ((r.lanes.filter fun x => x.2 == a).map fun x => x.1)).toNat, r.dest.number + 256 * MSize.bytes r.size]

/-- The recorded loads of a wave. -/
def Wave.loadBytes (w : Wave) : List Byte := w.pending.flatMap fun p =>
  match p.load with
  | some r => if p.remote then r.saved else []
  | none => []

/-- The outstanding long-class results of a wave: a register number and a lane mask each (R285, log 20: DESIGN CHOICE). -/
def Wave.resultBytes (w : Wave) : List Byte := w.pending.flatMap fun p => p.writes.flatMap fun x =>
  match x with
  | .s r _ => wordsBytes 8 [128 + r, 1]
  | .v r m _ => wordsBytes 8 [r, m.toNat]

/-- The fixed part of a wave's record as R210 lays it out; `tail` fills 0xC00 to 0xFFF, and `slots` stands at 0x2E0 (log 20: DESIGN CHOICE). -/
def State.fixedBytes (s : State) (wi : Nat) (slots tail : List Byte) : List Byte :=
  let w := (s.wave wi).stow
  let hs := w.hints.words
  fixBytes 0x100 (wordsBytes 4 (w.sregs.map fun x => x.toNat)) ++ fixBytes 0x40 (wordsBytes 8 (w.mregs.map fun x => x.toNat)) ++
  natBytes w.sf.toNat 8 ++
  wordsBytes 4 [w.outC.length + w.outM.length * 2 ^ 6 + w.outK.length * 2 ^ 12 + w.outD.length * 2 ^ 18, w.recordFlags, statesNat w.frags,
    w.cur] ++
  natBytes w.savExec.toNat 8 ++ fixBytes 0xC0 (w.frags.flatMap Frag.bytes) ++ fixBytes 0x40 (wordsBytes 4 (s.controls w)) ++
  fixBytes 0x1C (wordsBytes 4 (hs.map fun x => x.toNat)) ++ natBytes hs.length 4 ++ fixBytes 0x20 (s.wakeBytes w) ++
  fixBytes 0x40 (wordsBytes 8 (w.frags.map fun f => f.xmask.toNat)) ++ fixBytes 0x20 slots ++
  fixBytes 0x100 (wordsBytes 4 (w.srState.map fun x => x.toNat)) ++ fixBytes 0x200 (w.rank.flatMap RankElem.bytes) ++
  fixBytes 0x600 w.loadBytes ++ fixBytes 0x400 tail

/-- The wave's record from an address up (R210). The vector registers follow at 0x1000. -/
def State.waveBytes (s : State) (wi : Nat) (slots tail : List Byte) (a : Nat) : List (Nat × Byte) :=
  placeBytes a (s.fixedBytes wi slots tail ++ wordsBytes 4 ((s.wave wi).vregs.flatten.map fun x => x.toNat))

/-- The array operation that is frozen at the cells: the one that streams, else the load (R255, log 20: DESIGN CHOICE). -/
def Array'.frozen (a : Array') : Option MatOp :=
  (a.queue.find? fun o => o.begun && o.kind.streams) <|> a.queue.find? fun o => o.begun

/-- PROG and PSUM of a cell: the rows or bytes done of the frozen operation, and its sum for row r and column n (R255, log 20: DESIGN CHOICE). -/
def cellProgress (o : Option MatOp) (r n : Nat) : List Byte :=
  match o with
  | none => []
  | some o =>
    let done := if o.kind.streams then o.sums.length else 256 * o.ran
    natBytes (done % 2 ^ 24) 3 ++ natBytes ((o.sums.getD r []).getD n 0) 8

/-- The bytes of a cell of the array image (R255). -/
def cellBytes (a r n : Nat) (arr : Array') : List (Nat × Byte) :=
  let act := arr.active
  let shd := arr.shadow
  placeBytes a (((List.range 32).map fun k => colByte act.weight n (32 * r + k)) ++
    ((List.range 32).map fun k => colByte shd.weight n (32 * r + k)) ++
    ((List.range 16).map fun k => colByte act.mdata n (16 * r + k)) ++ ((List.range 16).map fun k => colByte shd.mdata n (16 * r + k)) ++
    ((List.range 2).map fun k => colByte act.scale n (2 * r + k)) ++ ((List.range 2).map fun k => colByte shd.scale n (2 * r + k)) ++
    natBytes (if r = 0 ∧ n = 0 then (if act.sparse then 1 else 0) + if shd.sparse then 2 else 0 else 0) 1 ++
    fixBytes 27 (cellProgress arr.frozen r n))

/-- The array image of a core (R255). -/
def imageBytes (a : Nat) (arr : Array') : List (Nat × Byte) :=
  (List.range 1024).flatMap fun k => cellBytes (a + 128 * k) (k / 32) (k % 32) arr

/-- The matrix operations of a block, on the array or saved with it. -/
def State.matOps (s : State) (bi : Nat) : List MatOp :=
  (s.block bi).queue ++ (s.core (s.block bi).core).array.queue.filter fun o => o.block == bi

/-- SLOTS.ARMED of a wave: the slots that incomplete operations of its gang set (R87, R250). -/
def State.armed (s : State) (wi : Nat) : BitVec 8 :=
  let w := s.wave wi
  (s.matOps w.block).foldl (fun x o => match o.setSlot with
    | some d => if o.gang == w.gang && (w.gang.isSome || o.lead == wi) then x ||| (1 <<< d.toNat) else x
    | none => x) 0

/-- A matrix word with its hint as the header holds them (log 20: DESIGN CHOICE). -/
def depWord (d : BitVec 8 × Option (BitVec 3)) : Nat := ((encode (.hintDep d.1 d.2.isSome (d.2.getD 0))).getD 0).toNat

/-- An operation of the queue that has not begun: its word, its hint, and the addresses that its registers gave (R209, R255, log 20: DESIGN
CHOICE). -/
def MatOp.bytes (o : MatOp) : List Byte :=
  let x : Option Word × Nat × Nat := match o.kind with
    | .ldstat k t m b c => (encode (.ldstat false 0 k t m 0), b, c)
    | .swaps => (encode (.swaps false), 0, 0)
    | .mma z m k t acc sp a => (encode (.mma false (BitVec.ofNat 4 z) (m, k) t 0 acc sp), a, 0)
    | .rmma z p t rows acc a kb => (encode (.rmma false (BitVec.ofNat 4 z) 0 (BitVec.ofNat 3 p) t (BitVec.ofNat 5 (rows - 1)) acc), a, kb)
  wordsBytes 4 [(x.1.getD 0).toNat, depWord (o.waitMask, o.setSlot), x.2.1, x.2.2]

/-- An entry of the rendezvous latch: its group and wave, its word and its hint (R252, log 20: DESIGN CHOICE). -/
def State.latchBytes (s : State) (e : LatchEntry) : List Byte :=
  wordsBytes 4 [e.group + 256 * (s.wave e.wave).index, ((encode e.word).getD 0).toNat, depWord (e.dep.getD (0, none))]

/-- The arrivals of a wave: for each group that it belongs to, ascending, the entries that have arrived (R36, R209, log 20: DESIGN CHOICE). -/
def State.arrivalBytes (s : State) (bi i : Nat) : List Byte :=
  let b := s.block bi
  let l := s.launch b.launch
  let gs := (List.range l.groups).filter fun g => l.isMember g i
  fixBytes 8 (gs.map fun g => (List.range 8).foldl (fun x e => if b.marks.contains (g, i, e) then x ||| (1 <<< e) else x) 0)

/-- The bits of a list of truth values, the first lowest. -/
def bitsNat : List Bool → Nat
  | [] => 0
  | b :: r => (if b then 1 else 0) + 2 * bitsNat r

/-- The header of a block's record (R209): every item that the table lists, at places of the model's own; of the matrix queue as many operations as it
has room for (log 20: DESIGN CHOICE). -/
def State.headerBytes (s : State) (bi : Nat) : List Byte :=
  let b := s.block bi
  let d := (s.launch b.launch).desc
  let q := (s.matOps bi).filter fun o => !o.begun
  wordsBytes 8 [b.launch, b.index] ++
  wordsBytes 4 [d.width, d.vregs, d.nwaves, d.scratch, d.tiles, if s.holdsArray bi then 1 else 0] ++
  natBytes b.bsf.toNat 8 ++ natBytes (bitsNat b.phases) 32 ++
  wordsBytes 4 [bitsNat (b.tiles.map fun t => t.matrix), b.latch.length, q.length] ++ fixBytes 36 [] ++
  fixBytes 64 (b.waves.flatMap fun wi => natBytes (match (s.wave wi).gang with
    | some g => g + 1
    | none => 0) 2) ++
  fixBytes 32 (b.waves.map s.armed) ++ fixBytes 32 [] ++
  fixBytes 256 ((List.range d.nwaves).flatMap fun i => s.arrivalBytes bi i) ++
  fixBytes 1536 (b.latch.flatMap s.latchBytes) ++
  fixBytes 2048 (b.pals.flatMap fun p => wordsBytes 4 (p.map fun x => x.toNat)) ++ fixBytes 4096 (q.flatMap MatOp.bytes)

/-- The record of a block in the save area (R209). -/
def State.recordBytesOf (s : State) (bi base : Nat) : List (Nat × Byte) :=
  let b := s.block bi
  let d := (s.launch b.launch).desc
  let waves := base + 8192
  let scratch := waves + waveUnits d * 4096
  let tiles := scratch + d.scratch * 16384
  let image := tiles + d.tiles * 4096
  placeBytes base (s.headerBytes bi) ++
  (b.waves.flatMap fun wi => s.waveBytes wi [] [] (waves + (s.wave wi).index * (4096 + d.width * d.vregs * 4))) ++
  placeBytes scratch ((List.range b.scratch.size).map b.scratch.get) ++
  ((List.range d.tiles).flatMap fun z => placeBytes (tiles + 4096 * z) (wordsBytes 4 ((b.tile z).words.map fun x => x.toNat))) ++
  if s.holdsArray bi then imageBytes image (s.core b.core).array else []

/-! ### Eviction (R81) -/

/-- Step 1 of R81 is done: no copy, tile transfer, rank or TAKE operation of the block is outstanding (R68). -/
def State.engineQuiet (s : State) (bi : Nat) : Bool :=
  let b := s.block bi
  s.atRest bi && !((s.core b.core).rankq.any fun r => r.block == bi) && !(s.launch b.launch).takes.any fun t => (s.wave t.wave).block == bi

/-- A SWAPS of the block has begun and not completed: it completes before the array is frozen (R352). -/
def State.swapping (s : State) (bi : Nat) : Bool :=
  (s.core (s.block bi).core).array.queue.any fun o => o.block == bi && o.begun && o.kind.isSwaps

/-- Every wave of the block has been taken, some of them has not ended, none is stopped, and its engines are quiet (R78, R81, R285, R352). -/
def State.evictable (s : State) (bi : Nat) : Bool :=
  let b := s.block bi
  bi < s.blocks.length && b.status == .resident && b.victim.isSome && (b.waves.any fun w => !(s.wave w).ended) &&
    b.waves.all (fun w => (s.wave w).taken && !s.stoppedWave (s.wave w)) && s.engineQuiet bi && !s.swapping bi

/-- The release of step 3 of R81, wave by wave. -/
def State.evictRelease (s : State) (bi : Nat) (sc : Scope) : State := (s.block bi).waves.foldl (fun s wi => s.release wi sc) s

/-- The release is complete: no store of the block waits at a home, nor at DV a flush (R81, R218). -/
def State.evictReleased (s : State) (bi : Nat) (sc : Scope) : Bool :=
  ((s.block bi).waves.all fun w => !s.keepPending w) &&
    (s.reqs.all fun r => match r.wave with
      | some w => !(s.block bi).waves.contains w
      | none => true) && (sc != .dv || s.storesDone bi)

/-- The complete release raises the block floor, and the orders that its waves await are done with it (R183, R219). -/
def State.evictPublish (s : State) (bi : Nat) (sc : Scope) : State :=
  (s.block bi).waves.foldl (fun s wi => (s.published wi sc).settleHolds wi) s

/-- The operations of a block in a queue frozen, those that have begun: each accumulates onto what the ones before it leave in the tiles (R158, R255).
-/
def freezeQueue (now bi : Nat) (pl : Plane) : List MatOp → Block → List MatOp
  | [], _ => []
  | o :: r, b =>
    if o.block = bi then
      let f := o.freeze now b pl
      f :: freezeQueue now bi pl r (if f.begun then b.applyMat pl f else b)
    else o :: freezeQueue now bi pl r b

/-- The operations of a block on its array that have begun are frozen (R158, R255). -/
def State.freezeArray (s : State) (bi : Nat) : State :=
  let b := s.block bi
  s.modArray b.core fun a => { a with queue := freezeQueue (s.cycle b.core) bi a.active a.queue b }

/-- The block leaves its core: its frozen operations, planes and queue go with it where it held the array (R255), and its context is saved. -/
def State.leave (s : State) (bi off n : Nat) (sc : Scope) : State :=
  let b := s.block bi
  let s := s.freezeArray bi
  let arr := (s.core b.core).array
  let held := s.holdsArray bi
  let s := s.devicePoke (s.funcOfBlock b) (s.recordBytesOf bi ((s.func (s.funcOfBlock b)).saveBase * 65536 + off * 4096))
  let s := s.modCore b.core fun c => { c with array := c.array.dropBlock bi }
  (s.modBlock bi fun b => { b with
    status := .saved, victim := none, save := some (off, n), invalid := false, moved := sc
    image := if held then some (arr.active, arr.shadow) else none, queue := arr.queue.filter fun o => o.block == bi }).count
      (s.funcOfBlock b) 0x0D 1

/-- EVICTION (R81): step 1 has finished; the array is frozen, the block's lines drain and it releases, its context is written, and its units
are free. -/
def execEviction (block : Nat) (s : State) : Out :=
  if !s.evictable block then s.done
  else
    let f := s.funcOfBlock (s.block block)
    let sc := s.moveScope f
    let t := s.evictRelease block sc
    let n := s.recordUnits block
    match s.saveSlot f block n with
    | none => s.done
    | some off => if t.evictReleased block sc then ((t.evictPublish block sc).leave block off n sc).done else s.done

end Sys2Proof.Machine
end

