-- ==== Sys2Proof/Machine/Debug.lean ====
section
/-! DEFINITION. Stops, dumps and breakpoints (R201, R285, R286, R299), and sampling and stall histograms (R287). -/

namespace Sys2Proof.Machine

/-! ### Stops (R285) -/

/-- The resident waves of a partition: they hold a slot, and have not ended. -/
def State.partWaves (s : State) (core part : Nat) : List Nat := (s.wavesIn core part).filter fun i => (s.blockOf (s.wave i)).status == .resident

/-- The 4 KiB units of a wave's dump (R210, R285). -/
def Wave.dumpBytes (w : Wave) : Nat := pages4k (4096 + w.width * w.vregs.length * 4) * 4096

/-- The records of stopped waves, each with its dependency slots, one after another from the function's dump address, as far as they lie in its memory
(R87, R285, log 20: DESIGN CHOICE). -/
def State.dump (s : State) (f : Nat) : List Nat → Nat → State
  | [], _ => s
  | wi :: r, a =>
    let n := (s.wave wi).dumpBytes
    if s.owns f a n then State.dump (s.devicePoke Config.pf (s.waveBytes wi [s.armed wi] (s.wave wi).resultBytes a)) f r (a + n) else s

/-- A partition stops: every wave of it freezes, its pins end, its reservations are lost, its records are written, and the function is told
(R188, R207, R285, R289). -/
def State.stopPart (s : State) (f core part : Nat) : State :=
  if ((s.core core).parts.getD part default).stopped then s
  else
    let ws := s.partWaves core part
    let s := ws.foldl (fun s wi => (s.endPinsOf wi).loseResvs wi) s
    let s := s.modPart core part fun p => { p with stopped := true, stopAt := s.cycle core }
    (State.dump (s.modFunc f fun g => { g with dbgStopped := true }) f ws ((s.func f).dbgBuf * 4096)).interrupt f 2

/-- FDBG as it holds CORE, PART and BKEN (R285). -/
def fdbgField (x : Word) : Word := x &&& 0xFFC4

/-- The core and the partition that a value of FDBG names (R285). -/
def fdbgTarget (x : Word) : Nat × Nat := ((x.toNat / 256) % 256, x.toNat / 64 % 4)

/-- A function may stop a core: one of its own partition; the PF any core (R285). -/
def State.mayStop (s : State) (f core : Nat) : Bool := core < Config.cores && (f == Config.pf || (s.partition f).contains core)

/-- DEBUG_STOP (R279, R285): a write of FDBG with STOP. -/
def execDebugStop (func : Nat) (value : Word) (s : State) : Out :=
  let t := fdbgTarget value
  s.whenAccepted (
    let s := s.modFunc func fun g => { g with fdbg := fdbgField value }
    if s.mayStop func t.1 then (s.stopPart func t.1 t.2).done else s.done)

/-- The slice timer of a wave stood still since a core cycle, or since its start where that is later (R285). -/
def Wave.delaySlice (w : Wave) (since now : Nat) : Wave := { w with sliceFrom := w.sliceFrom + (now - max w.sliceFrom since) }

/-- The slice timers of the waves of a partition stood still since a core cycle (R285). -/
def State.delayTimers (s : State) (core part since : Nat) : State :=
  (s.partWaves core part).foldl (fun s i => s.modWave i fun w => w.delaySlice since (s.cycle core)) s

/-- DEBUG_RESUME (R279, R285): a write of FDBG with RESUME. -/
def execDebugResume (func : Nat) (value : Word) (s : State) : Out :=
  let t := fdbgTarget value
  s.whenAccepted (
    let s := s.modFunc func fun g => { g with fdbg := fdbgField value }
    let p := (s.core t.1).parts.getD t.2 default
    if s.mayStop func t.1 && p.stopped then
      let s := s.delayTimers t.1 t.2 p.stopAt
      ((s.modPart t.1 t.2 fun p => { p with stopped := false }).modFunc func fun g => { g with dbgStopped := false }).takeAll.done
    else s.done)

/-- A word ends, the next one follows it, and the same fragment stays current (R201). -/
def Wave.pass (w : Wave) (p : Bool) : Wave := { ({ w with pc := w.pc + 4 }.mark .plain p) with switchDue := w.switchDue }

/-- BRK (R201, R299): in a launch with DBG set whose function enables breakpoint stops, the partition stops, and the wave goes on after the
word when it resumes; else it traps with the immediate in TRAPADDR. -/
def execBrk (p : Bool) (n : BitVec 9) (s : State) : Out :=
  s.onWave fun w =>
    let f := s.funcOf w
    if (s.launchOf w).desc.dbg && (s.func f).fdbg.getLsbD 2 then
      ((s.modWave s.issuing fun w => w.pass p).stopPart f (s.coreOf w) w.part).done
    else s.trap Cause.brk (n.setWidth 64)

/-! ### Writing registers of a stopped wave (R286) -/

/-- The register write that a debugger asks for; none for a mask or control register, which no long-class result writes. -/
def dbgWrite (w : Wave) (reg : DbgReg) (lanes : Word64) (x : Word) : Option RegWrite :=
  match reg with
  | .s i => some (.s i.toNat x)
  | .v i => some (.v i.toNat (lanes &&& w.lanes) (w.perLane fun _ => x))
  | .m _ | .c _ => none

/-- Two writes name one register. -/
def RegWrite.sameReg : RegWrite → RegWrite → Bool
  | .s a _, .s b _ => a == b
  | .v a _ _, .v b _ _ => a == b
  | _, _ => false

/-- A pending result that writes the debugger's register takes the debugger's write after its own (R286). -/
def Pending.follow (p : Pending) (x : RegWrite) : Pending := if p.writes.any fun y => y.sameReg x then { p with writes := p.writes ++ [x] } else p

/-- A 64-bit value with its low half replaced. -/
def withLow (x : Word64) (y : Word) : Word64 := (x >>> 32 <<< 32) ||| y.setWidth 64

/-- A 64-bit value with its high half replaced. -/
def withHigh (x : Word64) (y : Word) : Word64 := (x.setWidth 32).setWidth 64 ||| (y.setWidth 64 <<< 32)

/-- A control register that a debugger writes: those that the wave holds, stored as SETC stores them (R33, R86, R88). The generators of the lanes stay
as they are when SRSEED is written (log 38: DESIGN CHOICE). -/
def Wave.setControl (w : Wave) (c : CReg) (x : Word) : Wave :=
  match c.toNat with
  | 9 => { w with rndMode := modeOf x }
  | 10 => { w with quantum := clampQuantum x.toNat }
  | 13 => { w with gate := x }
  | 14 => { w with wakeTo := x }
  | 15 => { w with cause := x.setWidth 8 }
  | 16 => { w with trapPc := (withLow (w.trapPc.setWidth 64) x).setWidth 52 }
  | 17 => { w with trapPc := (withHigh (w.trapPc.setWidth 64) x).setWidth 52 }
  | 18 => { w with trapMask := withLow w.trapMask x }
  | 19 => { w with trapMask := withHigh w.trapMask x }
  | 20 => { w with trapAddr := withLow w.trapAddr x }
  | 21 => { w with trapAddr := withHigh w.trapAddr x }
  | 23 => { w with srSeed := x }
  | _ => w

/-- The debugger's write made on the wave: after a pending write of the register where there is one (R286). Of a mask register each lane of the lane
mask takes the bit of the value with its number modulo 32 (log 38: DESIGN CHOICE). -/
def Wave.debugWrite (w : Wave) (reg : DbgReg) (lanes : Word64) (x : Word) : Wave :=
  match dbgWrite w reg lanes x with
  | some y =>
    if w.pending.any fun p => p.writes.any fun z => z.sameReg y then { w with pending := w.pending.map fun p => p.follow y }
    else w.applyWrite y
  | none => match reg with
    | .m i => w.setM i ((w.m i &&& ~~~ lanes) ||| ((x ++ x) &&& lanes))
    | .c c => w.setControl c x
    | .s _ | .v _ => w

/-- DEBUG_REGISTER_WRITE (R279, R286): a register of a stopped wave of the function's own; the PF's debugger writes any. -/
def execDebugRegisterWrite (func wave : Nat) (reg : DbgReg) (lanes : Word64) (value : Word) (s : State) : Out :=
  let w := s.wave wave
  if s.accepts && wave < s.waves.length && s.stoppedWave w && (func == Config.pf || s.funcOf w == func) then
    (s.modWave wave fun w => w.debugWrite reg lanes value).done
  else s.done

/-! ### Sampling (R287) -/

/-- The wave that a sample of a partition for a function names: of its waves there the one that issued last, an ended one among them for 64 core cycles
(R287, log 21: DESIGN CHOICE). -/
def State.sampled (s : State) (core part f : Nat) : Option Nat :=
  let ws := (List.range s.waves.length).filter fun i =>
    let w := s.wave i
    s.coreOf w == core && w.part == part && s.funcOf w == f &&
      ((!w.ended && (s.blockOf w).status == .resident) || (w.ended && s.cycle core ≤ w.endAt + 64))
  bestOf (fun i j => (s.wave j).lastIssue < (s.wave i).lastIssue) ws

/-- The flag of a sample: EXITED 2, FETCH 1 where the wave awaits fetch, else RUN 0 (R287, log 21: DESIGN CHOICE). -/
def State.sampleFlag (s : State) (i : Nat) : Nat :=
  let w := s.wave i
  if w.ended then 2 else if s.awaitsFetch w then 1 else 0

/-- The core cycle of a partition's last sample for a function. -/
def Part.sampleOf (p : Part) (f : Nat) : Nat := ((p.sampledAt.find? fun x => x.1 == f).map fun x => x.2).getD 0

/-- The cycle of a partition's sample for a function is noted. -/
def State.noteSample (s : State) (core part f : Nat) : State :=
  s.modPart core part fun p => { p with sampledAt := (f, s.cycle core) :: p.sampledAt.filter fun x => x.1 != f }

/-- The wave of a partition that a sample of a function now due names (R287). -/
def State.sampleDue (s : State) (core part f : Nat) : Option Nat :=
  let n := (s.func f).samp
  if n ≠ 0 ∧ ((s.core core).parts.getD part default).sampleOf f + n ≤ s.cycle core then s.sampled core part f else none

/-- A partition's sample for a function goes into the function's ring. The 16 bytes hold the core, the partition, the slot and the flag, and then the PC
(log 21: DESIGN CHOICE). -/
def State.sampleFor (core part : Nat) (s : State) (f : Nat) : State :=
  match s.sampleDue core part f with
  | none => s
  | some i =>
    let w := s.wave i
    let g := s.func f
    let a := g.sampBuf + 16 * (g.sampIdx % Config.sampleRing)
    let x := core + part * 2 ^ 8 + w.slot * 2 ^ 10 + s.sampleFlag i * 2 ^ 14
    let t := if s.owns f a 16 then
        (s.devicePoke Config.pf (leBytes a x 8 ++ leBytes (a + 8) w.pc.toNat 8)).modFunc f fun g => { g with sampIdx := g.sampIdx + 1 }
      else s
    t.noteSample core part f

/-- SAMPLE_TICK (R287): the partition writes a sample for each function that has one due. -/
def execSampleTick (core part : Nat) (s : State) : Out := ((List.range s.funcs.length).foldl (State.sampleFor core part) s).done

/-- The stall reason of a wave that is not eligible (R287). A word that waits for an answer of a home counts as a long-class result, one that waits
for a tile transfer as an engine (log 21: DESIGN CHOICE). -/
def State.reasonOf (s : State) (i : Nat) : Nat :=
  let w := s.wave i
  if s.stoppedWave w then 6
  else if w.susp.isSome then 2
  else if w.held || w.switchDue || w.fuseDue.isSome || w.trapPending.isSome then 0
  else if w.frag.state != .live then 1
  else match w.stall with
    | .counter | .array | .ztake | .latch | .gang | .tile => 5
    | .keep | .retry | .log _ => 0
    | .none => if w.fetched.isNone then 3 else 4

/-- The partition's oldest resident wave: the one placed earliest (R287). -/
def State.oldestWave (s : State) (core part : Nat) : Option Nat :=
  bestOf (fun i j => (s.blockOf (s.wave i)).placed < (s.blockOf (s.wave j)).placed) (s.partWaves core part)

/-- A histogram with nothing counted. -/
def Hist.zero (f : Nat) : Hist := ⟨f, List.replicate 17 0, List.replicate 7 0⟩

/-- A cycle with some eligible waves, or with none and a stall reason, enters a histogram (R287). -/
def Hist.add (h : Hist) (eligible reason : Nat) : Hist :=
  { h with
    bins := h.bins.modify (min eligible 16) fun x => (x + 1) % 2 ^ 48
    reasons := if eligible = 0 then h.reasons.modify reason fun x => x + 1 else h.reasons }

/-- A partition's core cycle enters the histogram of the function whose wave is the oldest there (R287). -/
def State.histTurn (s : State) (core part eligible : Nat) : State :=
  match s.oldestWave core part with
  | none => s
  | some o =>
    let f := s.funcOf (s.wave o)
    let r := s.reasonOf o
    s.modPart core part fun p => { p with
      hists := if p.hists.any fun h => h.func == f then p.hists.map fun h => if h.func = f then h.add eligible r else h
        else p.hists ++ [(Hist.zero f).add eligible r] }

/-- The partitions that have a resident wave, as 4 times the core plus the partition. -/
def State.busyParts (s : State) : List Nat :=
  distinct (((List.range s.waves.length).filter fun i => !(s.wave i).ended && (s.blockOf (s.wave i)).status == .resident).map s.partKey)

/-- A partition's core cycle is over, with its issue choice made or without one: wait counts, histogram, and its next choice in the next
cycle (R73, R287). The counts of a stopped partition stand still (R285). -/
def State.endTurn (s : State) (core part : Nat) (cs : List Cand) (issued : Option Nat) : State :=
  let s := if ((s.core core).parts.getD part default).stopped then s else s.countWaits core part cs issued
  s.modPart core part fun p => { p with turnAt := s.cycle core + 1 }

/-- A partition that issues nothing ends its core cycle. -/
def State.idleTurn (s : State) (core part : Nat) : State :=
  let cs := s.candsOf core part
  (s.histTurn core part (cs.filter fun c => !c.blocked).length).endTurn core part cs none

/-- The partitions of some that still have their choice of this core cycle end it without one. -/
def State.idleTurns (s : State) (ks : List Nat) : State :=
  ks.foldl (fun s k => if s.turnOpen (k / 4) (k % 4) then s.idleTurn (k / 4) (k % 4) else s) s

end Sys2Proof.Machine
end

