-- ==== Sys2Proof/Machine/Homes.lean ====
section
/-! DEFINITION. The events of the memory path: store events at the homes (R214), drains and leases (R169, R170, R174, R188), and the
exchange of the home counts (R213). -/

namespace Sys2Proof.Machine

/-- No request before the `k`-th waits on its line (R170, R173). -/
def State.firstOnLine (s : State) (k : Nat) (line : Nat) : Bool := !(s.reqs.take k).any fun r => r.line == line

/-- HOME_STORE_EVENT (R214): the `k`-th waiting request is performed where no pin, full log or earlier request of its line holds it back
(R173, R187, R231). -/
def execHomeStoreEvent (k : Nat) (s : State) : Out :=
  match s.reqs[k]? with
  | none => s.done
  | some r => if s.blocked r || !s.firstOnLine k r.line then s.done else (s.perform r).done

/-- WC_DRAIN_TIMEOUT (R170): a write-combining line drains within 256 core cycles of its first write, and may drain at any time before. -/
def execWcDrainTimeout (core part k : Nat) (s : State) : Out :=
  match ((s.core core).parts.getD part default).wc[k]? with
  | none => s.done
  | some l => (s.drainLine core part l).done

/-- REMOTE_CLEAN_EXPIRY (R174): the clean words of a line become invalid 8,192 base-die cycles after its fill. -/
def execRemoteCleanExpiry (tower line : Nat) (s : State) : Out :=
  (s.modTower tower fun t => { t with remote := t.remote.map fun r =>
    if r.line = line ∧ r.filled + Config.remoteLease ≤ s.tick then { r with words := noWords } else r }).done

/-- REMOTE_DIRTY_FLUSH (R174): the dirty bytes of a line are flushed, at their age or before an eviction. -/
def execRemoteDirtyFlush (tower line : Nat) (s : State) : Out := (s.flushRemote tower line).done

/-- PIN_LEASE_EXPIRY (R188): a pin ends PINLEASE core cycles after it was taken. -/
def execPinLeaseExpiry (core line : Nat) (s : State) : Out :=
  match (s.core core).pins.find? fun p => p.line == line with
  | none => s.done
  | some p => if p.taken + p.lease ≤ s.cycle core then (s.endPin core p true).done else s.done

/-- L1_LEASE_EXPIRY (R169): a line no longer hits 4,096 core cycles after its fill. -/
def execL1LeaseExpiry (core line : Nat) (s : State) : Out :=
  let now := s.cycle core
  (s.modCore core fun c => { c with l1 := c.l1.filter fun l => !(l.line == line && l.filled + Config.l1Lease ≤ now) }).done

/-- The largest home count. -/
def State.topCount (s : State) : Nat := s.towers.foldl (fun m t => max m t.count) 0

/-- CLOCK_EXCHANGE (R213): every 256 base-die cycles each home sends its count to the other homes and to its tower's cores, and a home
takes a larger count than its own. -/
def execClockExchange (s : State) : Out :=
  if s.lastExchange + Config.exchange ≤ s.tick then
    State.done { s with
      cores := (List.range s.cores.length).map fun i => { s.core i with now := (s.tower (towerOf i)).count }
      towers := s.towers.map fun t => { t with count := max t.count s.topCount }
      lastExchange := s.tick }
  else s.done

end Sys2Proof.Machine
end

