-- ==== Sys2Proof/Machine/Scanner.lean ====
section
/-! DEFINITION. The code-page scanner: the registers that words use (R91, R93), the hints that they accept (R94, R95), the check of a page (R98),
and verification and release (R99, R100, R382). -/

namespace Sys2Proof.Machine

/-! ### Registers that a word uses (R91, R93) -/

/-- A scalar or vector register by number. -/
inductive RegName where
  | s (n : Nat)
  | v (n : Nat)
  deriving DecidableEq, Repr

/-- `k` scalar registers from one on. -/
def sRegs (k : Nat) (r : SReg) : List RegName := (List.range k).map fun i => .s (r.toNat + i)

/-- `k` vector registers from one on. -/
def vRegs (k : Nat) (r : VReg) : List RegName := (List.range k).map fun i => .v (r.toNat + i)

/-- Registers of an operand: a pair where it is wide (R5). -/
def wideN (b : Bool) : Nat := if b then 2 else 1

/-- Registers that an atomic reads from its operand on (R294). -/
def atomReads : AtomOp → Nat
  | .cas | .add64 | .swap64 | .fadd64 => 2
  | .cas64 => 4
  | .add | .min | .max | .umin | .umax | .and | .or | .xor | .swap | .fadd32 | .fmin32 | .fmax32 => 1

/-- Registers that an atomic writes (R91, R294). -/
def atomWrites : AtomOp → Nat
  | .add64 | .swap64 | .cas64 | .fadd64 => 2
  | .add | .min | .max | .umin | .umax | .and | .or | .xor | .swap | .cas | .fadd32 | .fmin32 | .fmax32 => 1

/-- Registers of an access size (R91, R112). -/
def sizeN : MSize → Nat
  | .b64 => 2
  | .b128 => 4
  | .b8 | .b16 | .b32 | .s8 | .s16 => 1

/-- The scalar pair of stamps of a q field (R225). -/
def stampRegs (q : BitVec 2) : List RegName := (List.range 2).map fun i => .s (48 + 2 * q.toNat + i)

/-- The vector registers that an RKREC writes at the widest, up to v127 (R91). -/
def rkrecRegs (v : VReg) : List RegName := (vRegs 16 v).filter fun r => match r with
  | .v n => n < 128
  | .s _ => false

/-- The destination of a long-class word; s0 is none (R91). -/
def longDest (i : Instr) : List RegName :=
  let all := match i with
    | .ld _ v _ _ z _ | .lds _ v _ _ z _ | .ldas _ v _ _ z _ => vRegs (sizeN z) v
    | .sld _ d _ _ z => sRegs (wideN (z == WSize.b64)) d
    | .lr _ v _ _ z => vRegs (wideN (z == WSize.b64)) v
    | .sc _ v _ _ _ => vRegs 1 v
    | .atom _ v _ _ a | .atoms _ v _ _ a => vRegs (atomWrites a) v
    | .vrcp _ d _ t | .vrsq _ d _ t | .vsqrt _ d _ t | .vexp2 _ d _ t | .vlog2 _ d _ t | .vsin _ d _ t | .vcos _ d _ t
    | .vtanh _ d _ t => vRegs (wideN (t == SfuType.f64)) d
    | .vfdiv _ k d _ _ => vRegs (wideN (k == FMaj.f64)) d
    | .vshfl _ d _ _ | .vbcast _ d _ _ | .vwritel _ d _ _ | .vred _ d _ _ | .vscan _ d _ _ => vRegs 1 d
    | .vreadl _ s _ _ => sRegs 1 s
    | .zrd _ _ _ v => vRegs 2 v
    | .stc _ _ _ _ _ q => stampRegs q
    | .getc _ s _ => sRegs 1 s
    | .rkrec _ _ _ v _ => rkrecRegs v
    | _ => []
  all.filter fun r => r != .s 0

/-- Every register that a word reads or writes, named or implied (R93). -/
def regsOf (i : Instr) : List RegName :=
  match i with
  | .getc _ s _ | .setc _ s _ => sRegs 1 s
  | .stamp _ s => sRegs 2 s
  | .rett m => if m = .resume then sRegs 2 62 else []
  | .call _ => sRegs 2 60
  | .tramp _ => sRegs 2 58
  | .jmpi s => sRegs 2 s
  | .calli s => sRegs 2 s ++ sRegs 2 60
  | .ret => sRegs 2 60
  | .sadd _ d a b | .ssub _ d a b | .smul _ d a b | .smulh _ d a b | .smulhu _ d a b | .sand _ d a b | .sor _ d a b | .sxor _ d a b
  | .sandn _ d a b | .sshl _ d a b | .sshr _ d a b | .ssra _ d a b | .smin _ d a b | .smax _ d a b | .sumin _ d a b | .sumax _ d a b
  | .ssel _ d a b => sRegs 1 d ++ sRegs 1 a ++ sRegs 1 b
  | .sadd64 _ d a b | .ssub64 _ d a b => sRegs 2 d ++ sRegs 2 a ++ sRegs 2 b
  | .smov _ d a | .spopc _ d a | .sclz _ d a => sRegs 1 d ++ sRegs 1 a
  | .scmp _ a b _ => sRegs 1 a ++ sRegs 1 b
  | .scmp64 _ a b _ => sRegs 2 a ++ sRegs 2 b
  | .saddi _ d a _ | .sandi _ d a _ | .sori _ d a _ | .sxori _ d a _ | .sshli _ d a _ | .sshri _ d a _ | .ssrai _ d a _ =>
    sRegs 1 d ++ sRegs 1 a
  | .sli _ d _ | .slui _ d _ => sRegs 1 d
  | .mpop _ _ s | .mff1 _ _ s => sRegs 1 s
  | .msave _ _ s | .mload _ _ s => sRegs 2 s
  | .vcmp _ _ a b _ t => vRegs (wideN (t == VType.f64 || t == VType.i64)) a ++ vRegs (wideN (t == VType.f64 || t == VType.i64)) b
  | .vadd _ d a b | .vsub _ d a b | .vmul _ d a b | .vmulh _ d a b | .vmulhu _ d a b | .vmad _ d a b | .vand _ d a b | .vor _ d a b
  | .vxor _ d a b | .vshl _ d a b | .vshr _ d a b | .vsra _ d a b | .vmin _ d a b | .vmax _ d a b | .vumin _ d a b | .vumax _ d a b
  | .vbfe _ d a b | .vbfi _ d a b | .vsel _ d a b _ | .vshfl _ d a b => vRegs 1 d ++ vRegs 1 a ++ vRegs 1 b
  | .vaddS _ d a s | .vsubS _ d a s | .vmulS _ d a s | .vmulhS _ d a s | .vmulhuS _ d a s | .vmadS _ d a s | .vandS _ d a s
  | .vorS _ d a s | .vxorS _ d a s | .vshlS _ d a s | .vshrS _ d a s | .vsraS _ d a s | .vminS _ d a s | .vmaxS _ d a s
  | .vuminS _ d a s | .vumaxS _ d a s => vRegs 1 d ++ vRegs 1 a ++ sRegs 1 s
  | .vadd64 _ d a b | .vsub64 _ d a b => vRegs 2 d ++ vRegs 2 a ++ vRegs 2 b
  | .vmulw _ d a b => vRegs 2 d ++ vRegs 1 a ++ vRegs 1 b
  | .vabs _ d a | .vnot _ d a | .vmov _ d a | .vpopc _ d a | .vclz _ d a | .vbrev _ d a | .vpack4 _ d a _ | .vunpk4 _ d a _
  | .vbcast _ d a _ | .vred _ d a _ | .vscan _ d a _ | .vaddi _ d a _ | .vandi _ d a _ | .vori _ d a _ | .vxori _ d a _
  | .vshli _ d a _ | .vshri _ d a _ | .vsrai _ d a _ => vRegs 1 d ++ vRegs 1 a
  | .vli _ d _ | .vlane _ d => vRegs 1 d
  | .vfadd _ k d a b | .vfsub _ k d a b | .vfmul _ k d a b | .vfma _ k d a b | .vfmin _ k d a b | .vfmax _ k d a b | .vfcps _ k d a b
  | .vfdiv _ k d a b => vRegs (wideN (k == FMaj.f64)) d ++ vRegs (wideN (k == FMaj.f64)) a ++ vRegs (wideN (k == FMaj.f64)) b
  | .vfabs _ k d a | .vfneg _ k d a | .vfrnd _ k d a => vRegs (wideN (k == FMaj.f64)) d ++ vRegs (wideN (k == FMaj.f64)) a
  | .vfaddS _ d a s t | .vfsubS _ d a s t | .vfmulS _ d a s t | .vfmaS _ d a s t | .vfminS _ d a s t | .vfmaxS _ d a s t =>
    vRegs (wideN (t == FType.f64)) d ++ vRegs (wideN (t == FType.f64)) a ++ sRegs (wideN (t == FType.f64)) s
  | .vrcp _ d a t | .vrsq _ d a t | .vsqrt _ d a t | .vexp2 _ d a t | .vlog2 _ d a t | .vsin _ d a t | .vcos _ d a t | .vtanh _ d a t =>
    vRegs (wideN (t == SfuType.f64)) d ++ vRegs (wideN (t == SfuType.f64)) a
  | .vcvt _ d a t u _ _ => vRegs (wideN t.wide) d ++ vRegs (wideN u.wide) a
  | .vreadl _ s a _ => sRegs 1 s ++ vRegs 1 a
  | .vwritel _ d s _ => vRegs 1 d ++ sRegs 1 s
  | .ld _ v s o z _ | .st _ v s o z _ | .lds _ v s o z _ | .sts _ v s o z _ => vRegs (sizeN z) v ++ sRegs 2 s ++ vRegs 1 o
  | .sld _ d s _ z | .sst _ d s _ z => sRegs (wideN (z == WSize.b64)) d ++ sRegs 2 s
  | .ldas _ v s o z q | .stc _ v s o z q => vRegs (sizeN z) v ++ sRegs 2 s ++ vRegs 1 o ++ stampRegs q
  | .atom _ v s o a | .atoms _ v s o a => vRegs (atomReads a) v ++ sRegs 2 s ++ vRegs 1 o
  | .lr _ v s o z | .sc _ v s o z => vRegs (wideN (z == WSize.b64)) v ++ sRegs 2 s ++ vRegs 1 o
  | .pref _ s o _ _ => sRegs 2 s ++ vRegs 1 o
  | .waita _ a v _ sp => sRegs (wideN (sp == Space.global)) a ++ sRegs 1 v
  | .waitbit _ b i => sRegs 2 b ++ sRegs 2 i
  | .cpyG2s _ d | .cpyS2g _ d | .cpyG2g _ d | .cpyg _ d => sRegs 8 d
  -- the scanner does not know which of the stamp pairs D7 names (log 41: DEDUCED)
  | .cpyas _ d => sRegs 8 d ++ sRegs 8 48
  | .take _ a => sRegs 1 a
  | .mma _ _ _ _ a _ _ => sRegs 1 a
  | .ldstat _ a _ _ m s => sRegs 1 a ++ if m then sRegs 1 s else []
  | .rmma _ _ a _ _ _ _ => sRegs 2 a
  | .zld _ _ s | .zst _ _ s => sRegs 2 s
  | .zrd _ _ s v | .zwr _ _ s v => sRegs 1 s ++ vRegs 2 v
  | .rank _ a n _ d _ _ _ => vRegs (2 ^ n.code.toNat) a ++ sRegs 2 d
  | .ldpal _ _ a => sRegs 1 a
  | .rkrec _ _ a v _ => sRegs 1 a ++ rkrecRegs v
  | _ => []

/-! ### Hints (R94, R95) -/

/-- The kind of a hint word; none of another word (R94). -/
def hintKind : Instr → Option Nat
  | .hintImm _ => some 0
  | .hintOrd _ _ => some 1
  | .hintDep _ _ _ => some 2
  | .hintRnd _ => some 3
  | .hintOff _ => some 4
  | _ => none

/-- The word takes an immediate that HINT.IMM extends: SALUI and VINTI (R85, R94). -/
def takesImm : Instr → Bool
  | .saddi .. | .sandi .. | .sori .. | .sxori .. | .sshli .. | .sshri .. | .ssrai .. | .vaddi .. | .vandi .. | .vori .. | .vxori ..
  | .vshli .. | .vshri .. | .vsrai .. | .vli .. => true
  | _ => false

/-- The word takes an order at any scope (R94). -/
def takesOrder : Instr → Bool
  | .ld .. | .st .. | .sld .. | .sst .. | .stc .. | .atom .. | .lr .. | .sc .. => true
  | _ => false

/-- The word takes an order at WV or BK only (R94). -/
def takesNarrow : Instr → Bool
  | .lds .. | .sts .. | .atoms .. => true
  | _ => false

/-- The word takes a HINT.RND of some mode: mode 5 only VCVT with a destination of codes 6 to 9, and VPACK4 (R94). -/
def takesRnd (m : RMode) : Instr → Bool
  | .vfadd .. | .vfsub .. | .vfmul .. | .vfma .. | .vfmin .. | .vfmax .. | .vfdiv .. | .vfrnd .. | .vfaddS .. | .vfsubS .. | .vfmulS ..
  | .vfmaS .. | .vfminS .. | .vfmaxS .. | .vsqrt .. => m != RMode.sr
  | .vcvt _ _ _ t _ _ _ => m != RMode.sr || (6 ≤ (CvtType.code t).toNat && (CvtType.code t).toNat ≤ 9)
  | .vpack4 .. => true
  | _ => false

/-- The word takes a HINT.OFF (R94). -/
def takesOff : Instr → Bool
  | .ld .. | .st .. | .sld .. | .sst .. | .lds .. | .sts .. | .ldas .. | .stc .. | .atom .. | .atoms .. | .lr .. | .sc .. | .pref .. => true
  | _ => false

/-- The word takes the hint (R94). -/
def accepts (h i : Instr) : Bool :=
  match h with
  | .hintImm _ => takesImm i
  | .hintOrd _ sc => takesOrder i || (takesNarrow i && (sc == Scope.wv || sc == Scope.bk))
  | .hintDep _ _ _ => match i with
    | .mma .. | .rmma .. | .ldstat .. | .swaps .. => true
    | _ => false
  | .hintRnd m => takesRnd m i
  | .hintOff _ => takesOff i
  | _ => false

/-- The word that the hints before it modify: the next that is no hint (R95). Where that word is reserved so that it names no form, its hint is the
first to fail, as one that no word accepts (log 41: DESIGN CHOICE). -/
def modifiedWord : List Word → Option Instr
  | [] => none
  | w :: r => match parse w with
    | some i => if (hintKind i).isSome then modifiedWord r else some i
    | none => none

/-! ### The check of a page (R98) -/

/-- Where a scan stands: the pending registers and the words of the segment so far, and the kind of the hint just before. -/
structure Scan where
  pending : List RegName
  len : Nat
  kind : Option Nat
  deriving DecidableEq, Repr

/-- A word whose P bit is 1. -/
def parked (w : Word) : Bool := bit w 31

/-- The hint breaks R94 or R95: its kind is not above that of the hint before it, or the word that it modifies does not take it. -/
def badHint (sc : Scan) (i : Instr) (after : List Word) : Bool :=
  match hintKind i with
  | none => false
  | some k =>
    (match sc.kind with
      | some j => k ≤ j
      | none => false) ||
    match modifiedWord after with
    | some m => !accepts i m
    | none => true

/-- The checks that a word breaks beyond its own legality, as codes (R98). -/
def laterCodes (sc : Scan) (w : Word) (i : Instr) (after : List Word) : List Reason :=
  (if (regsOf i).any fun r => sc.pending.contains r then [.hazard] else []) ++
  (match decode w with
    | .error .park => [.park]
    | _ => []) ++
  (if 64 ≤ sc.len then [.length] else []) ++ (if after.isEmpty && !parked w then [.pageend] else []) ++
  if badHint sc i after then [.hint] else []

/-- The lowest reason of a word (R98). -/
def scanWord (sc : Scan) (w : Word) (after : List Word) : Option Reason :=
  match decode w, parse w with
  | .error .park, some i => (laterCodes sc w i after).head?
  | .ok i, _ => (laterCodes sc w i after).head?
  | .error r, _ => some r

/-- The scan after a word: a P = 1 word closes its segment (R92, R93). -/
def Scan.next (sc : Scan) (w : Word) (i : Instr) : Scan :=
  if parked w then ⟨[], 0, none⟩ else ⟨sc.pending ++ longDest i, sc.len + 1, hintKind i⟩

/-- The first failing word of some words, with its number (R98). -/
def scanWords : List Word → Scan → Nat → Option (Reason × Nat)
  | [], _, _ => none
  | w :: r, sc, n =>
    match scanWord sc w r with
    | some e => some (e, n)
    | none => match parse w with
      | some i => scanWords r (sc.next w i) (n + 1)
      | none => some (.reserved, n)

/-- The 16,384 words of a code page, through the key of a function (R163). -/
def State.pageWords (s : State) (f page : Nat) : List Word :=
  (List.range 16384).map fun k => BitVec.ofNat 32 (leNat (s.peekBy f) (page * 65536 + 4 * k) 4)

/-! ### Verification (R99, R100) -/

/-- VERIFY (R99): VFYREQ with OP = 0; ignored while BUSY is 1. -/
def execVerify (func : Nat) (value : Word64) (s : State) : Out :=
  if (s.func func).vfyBusy || !s.accepts then s.done
  else (s.modFunc func fun g => { g with vfyBusy := true, vfyReq := ((value >>> 16).setWidth 36).toNat, vfyOp := false }).done

/-- The answer of a request: RESULT, REASON and WORD (R99). -/
def State.vfyAnswer (s : State) (func result reason word : Nat) : State :=
  s.modFunc func fun g => { g with vfyBusy := false, vfyResult := result, vfyReason := reason, vfyWord := word }

/-- The page passes: it is verified, and its digest is recorded (R99). -/
def State.markVerified (s : State) (func page : Nat) : State :=
  { s with verified := s.verified ++ [⟨page, func, Config.sm3 (bytesAt (s.peekBy func) (page * 65536) 65536)⟩] }

/-- No write to a page is on its way: no request, buffered or dirty byte, pin, engine operation or access that waits on its order (R100, R180). -/
def State.pageQuiet (s : State) (page : Nat) : Bool :=
  let off := fun (line : Nat) => line / 65536 != page
  (s.reqs.all fun r => off r.line) && (s.towers.all fun t => t.remote.all fun r => r.dirty.isEmpty || off r.line) &&
  (s.cores.all fun c => (c.pins.all fun p => off p.line) && c.parts.all fun p => p.wc.all fun l => off l.line) &&
  (s.copies.all fun c => c.map.all fun x => x.page != page) && (s.xfers.all fun x => x.map.all fun y => y.page != page) &&
  s.waves.all fun w => w.ended || w.holds.all fun h => h.accs.all fun a => off a.pa

/-- VERIFY_COMPLETE (R98, R99, R100, R382): the scanner has finished the page, to which no write is on its way; one already verified passes
again. -/
def execVerifyComplete (func : Nat) (s : State) : Out :=
  let g := s.func func
  if !g.vfyBusy then s.done
  else if !s.owns func (g.vfyReq * 65536) 65536 then (s.vfyAnswer func 4 0 0).done
  else if s.verifiedPage g.vfyReq then (s.vfyAnswer func 1 0 0).done
  else if !s.pageQuiet g.vfyReq then s.done
  else match scanWords (s.pageWords func g.vfyReq) ⟨[], 0, none⟩ 0 with
    | some (r, n) => (s.vfyAnswer func 2 r.code.toNat n).done
    | none => ((s.markVerified func g.vfyReq).vfyAnswer func 1 0 0).done

/-- Every cached translation that satisfies a condition is dropped, on every core and tower (R100, R164, R277). -/
def State.dropTlb (s : State) (p : TlbEntry → Bool) : State :=
  { s with
    cores := s.cores.map fun c => { c with tlb := c.tlb.filter fun e => !p e }
    towers := s.towers.map fun t => { t with tlb := t.tlb.filter fun e => !p e } }

/-- VERIFY_RELEASE (R100, R382): VFYREQ with OP = 1. The page's translations leave every cache, then its mark is cleared, then RESULT is 3. -/
def execVerifyRelease (func : Nat) (value : Word64) (s : State) : Out :=
  let page := ((value >>> 16).setWidth 36).toNat
  if (s.func func).vfyBusy || !s.accepts then s.done
  else
    let s := s.modFunc func fun g => { g with vfyReq := page, vfyOp := true }
    if !s.owns func (page * 65536) 65536 then (s.vfyAnswer func 4 0 0).done
    else
      let t := s.dropTlb fun e => e.page == page
      (State.vfyAnswer { t with verified := t.verified.filter fun v => v.page != page } func 3 0 0).done

end Sys2Proof.Machine
end

