-- ==== Sys2Proof/Machine/Host.lean ====
section
/-! DEFINITION. The outside: accesses of the host and of peers (R215, R272, R278, R282), the registers of BAR0 (R11, R49, R70, R189, R208, R229,
R274 to R277, R284 to R288), suspension (R276), keys (R278), attestation (R280), firmware and reset (R279), power (R75, R290), errors (R197), and
spares (R25, R26, R281). -/

namespace Sys2Proof.Machine

/-! ### Accesses of the host and of peers -/

/-- An access of the host or of a peer may use the function's key: that of a VF must be loaded (R278). -/
def State.outsideKey (s : State) (f : Nat) : Bool := f == Config.pf || (s.keys.getD f none).isSome

/-- A read that must wait at a home reaches it again later (R187). -/
def State.again (s : State) (i : Instr) : State := { s with agenda := s.agenda ++ [(2, i)] }

/-- The requests that wait at the homes of some lines come first (R173). -/
def State.flushLines (s : State) (lines : List Nat) : State := lines.foldl (fun s l => s.flushLine l) s

/-- Some page of a range of physical addresses is verified (R100). -/
def State.meetsVerified (s : State) (a n : Nat) : Bool := s.verified.any fun v => overlaps a n (v.page * 65536) 65536

/-- A read from outside, at the homes (R272): all ones where it would use an empty key slot (R278). -/
def State.outsideRead (s : State) (i : Instr) (f a n : Nat) : Out :=
  if !s.outsideKey f then (State.report { s with busData := List.replicate n 0xFF }).done
  else
    let as := (List.range n).map fun k => a + k
    let t := s.flushLines (distinct (as.map lineOf))
    if t.pinned as || t.reqs.any (fun r => r.kind == .host && r.bytes.any fun b => as.contains b.1) then (t.again i).done
    else State.done { t with busData := bytesAt (t.peekBy f) a n }

/-- A write from outside is sent to the homes, a request for each line, with a count query's stamp as floor (R215, R272). Each waits there for a pin or
for room in a log (R187, R231). -/
def State.outsideSend (s : State) (f : Nat) (bytes : List (Nat × Byte)) : State :=
  (byteLines bytes).foldl (fun t l =>
    (t.send ⟨0, none, f, l, bytes.filter fun b => lineOf b.1 == l, s.countQuery, f, .dflt, [], .host, .other⟩).flushLine l) s

/-- A write from outside: dropped and reported where it would use an empty key slot or meets a verified page (R100, R278). -/
def State.outsideWrite (s : State) (f a : Nat) (bs : List Byte) : Out :=
  if !s.outsideKey f || s.meetsVerified a bs.length then s.report.done else (s.outsideSend f (placeBytes a bs)).done

/-- An access from outside to the function's memory; nothing answers outside it, or beyond the device's memory (R21, R272, R276). In recovery the device
presents its PF alone, whose memory is read and not written (R279). -/
def State.outside (s : State) (i : Instr) (f a n : Nat) (data : Option (List Byte)) : Out :=
  if !s.owns f a n || !s.presents f || (data.isSome && !s.accepts) then s.done
  else if Config.memoryBytes < a + n then .fault .absentMemory
  else match data with
    | none => s.outsideRead i f a n
    | some bs => s.outsideWrite f a (bs.take n)

/-- HOST_BAR2_ACCESS (R272): BAR2 is a window onto the function's memory; `addr` counts from its start. -/
def execHostBar2Access (func addr len : Nat) (data : Option (List Byte)) (s : State) : Out :=
  s.outside (.hostBar2Access func addr len data) func ((s.func func).memBase * 65536 + addr) len data

/-- PEER_ACCESS (R215, R278): a peer reads or writes a function's memory at a physical address. -/
def execPeerAccess (peer func addr len : Nat) (data : Option (List Byte)) (s : State) : Out :=
  s.outside (.peerAccess peer func addr len data) func addr len data

/-! ### Registers (R11) -/

/-- A register that the owning function and the PF write. -/
def State.owner (s : State) (byFunc func : Nat) (f : Func → Func) : Out :=
  if s.accepts && (byFunc == func || byFunc == Config.pf) then (s.modFunc func f).done else s.done

/-- Bits of a written value. -/
def fieldOf (x : Word64) (lo n : Nat) : Nat := x.toNat / 2 ^ lo % 2 ^ n

/-- REGISTER_WRITE (R11): the written fields of a register of a function's BAR0; reserved fields keep 0. -/
def execRegisterWrite (byFunc func : Nat) (reg : BarReg) (value : Word64) (s : State) : Out :=
  let own := s.owner byFunc func
  let pf := fun (f : Func → Func) => s.onlyPF byFunc func fun s => s.modFunc func f
  match reg with
  | .qbase q => own fun g => { g with queues := g.queues.modify q fun r => { r with base := fieldOf value 7 45 } }
  | .fage => pf fun g => { g with fage := value.setWidth 32 }
  | .fsaveb => pf fun g => { g with saveBase := fieldOf value 16 36 }
  | .fsaves => pf fun g => { g with saveSize := fieldOf value 0 16 }
  | .fhwmin => pf fun g => { g with hwmin := fieldOf value 0 62 }
  | .fhctl => pf fun g => { g with hownEn := value.getLsbD 0 }
  | .fhstat => own fun g => { g with hStall := g.hStall && !value.getLsbD 2, hBreach := g.hBreach && !value.getLsbD 1 }
  | .fptroot => own fun g => { g with ptRoot := fieldOf value 16 36, ptEn := value.getLsbD 0 }
  | .fmemb => pf fun g => { g with memBase := fieldOf value 16 36 }
  | .fmems => pf fun g => { g with memSize := fieldOf value 0 32 }
  | .fpeer => pf fun g => { g with peers := value.setWidth 16 }
  | .fcntsel i => own fun g => { g with cntSel := g.cntSel.set i (value.setWidth 32 &&& 0xC00000FF) }
  | .fcntval i => own fun g => { g with cntVal := g.cntVal.set i (fieldOf value 0 48) }
  | .fcntovf => own fun g => { g with cntOvf := g.cntOvf &&& ~~~ value.setWidth 8 }
  | .fdbg => own fun g => { g with fdbg := fdbgField (value.setWidth 32) }
  | .fdbgbuf => own fun g => { g with dbgBuf := fieldOf value 12 40 }
  | .fsamp => own fun g => { g with samp := fieldOf value 0 32 }
  | .fsampbuf => own fun g => { g with sampBuf := fieldOf value 0 52, sampIdx := 0 }
  | .freplay => own fun g => { g with replay := fieldOf value 0 2, replayIdx := 0, replayMiss := [] }
  | .freplaybuf => own fun g => { g with replayBuf := fieldOf value 0 52 }
  | .fattn i => own fun g => { g with attn := g.attn.set i value }
  | .hcwb => s.onlyPF byFunc func fun s => { s with hcwBase := fieldOf value 16 36 }
  | .hcws => s.onlyPF byFunc func fun s => { s with hcwSize := fieldOf value 0 32 }
  | .keydata i => s.onlyPF byFunc func fun s => { s with keyData := s.keyData.set i value }

/-- Some other VF has one of the cores in its partition (R275). -/
def State.coreTaken (s : State) (func j : Nat) (value : Word64) : Bool :=
  func != Config.pf && (List.range Config.pf).any fun v => v != func && (s.func v).cores.getD j 0 &&& value != 0

/-- FCORE_WRITE (R275): a core that another VF holds makes the write ignored and reported. -/
def execFcoreWrite (byFunc func j : Nat) (value : Word64) (s : State) : Out :=
  s.onlyPF byFunc func fun s =>
    if s.coreTaken func j value then s.report else s.modFunc func fun g => { g with cores := g.cores.set j value }

/-- FSLICE_WRITE (R70): writes below 1,024 set 1,024. -/
def execFsliceWrite (byFunc func : Nat) (value : Word) (s : State) : Out :=
  s.onlyPF byFunc func fun s => s.modFunc func fun g => { g with fslice := max 1024 (value.toNat % 2 ^ 17) }

/-- FPIN_WRITE (R189): writes below 1,024 set 1,024. -/
def execFpinWrite (byFunc func : Nat) (value : Word) (s : State) : Out :=
  s.onlyPF byFunc func fun s => s.modFunc func fun g => { g with fpin := max 1024 (value.toNat % 2 ^ 24) }

/-! ### Suspension (R276) -/

/-- The waiting block that a suspension names as the reason of a choice: none of the launch's own. -/
def State.suspendMark (s : State) (bi : Nat) : Nat × Nat := ((s.block bi).launch, (s.launch (s.block bi).launch).desc.total)

/-- A resident block is chosen where its record fits, every block of a CORES launch with it; it runs on where it does not. A block that was
chosen for another is now to leave in any case (R77, R276). -/
def State.suspendBlock (s : State) (bi : Nat) : State :=
  let li := (s.block bi).launch
  if (s.block bi).status != .resident then s
  else if (s.block bi).victim.isSome then s.modBlock bi fun b => { b with victimFor := s.suspendMark bi }
  else
    let bs := if (s.launch li).desc.cores then (s.heldOf li).filter fun b => (s.block b).status == .resident && (s.block b).victim.isNone else [bi]
    (State.reserveAll (s.suspendMark bi) bs s).getD s

/-- SUSPEND (R276): FCTL with SUSP = 1. -/
def execSuspend (byFunc func : Nat) (s : State) : Out :=
  s.onlyPF byFunc func fun s =>
    let s := s.modFunc func fun g => { g with susp := true }
    ((s.residentOf func).foldl State.suspendBlock s).takeAll

/-- A block that a suspension chose and that has not been evicted keeps running; a CORES launch of which a block has been evicted leaves as a whole
(R77, R276). -/
def State.keepRunning (s : State) (bi : Nat) : State :=
  let b := s.block bi
  if b.status == .resident && b.victim.isSome && b.victimFor == s.suspendMark bi &&
      !((s.launch b.launch).desc.cores && !(s.savedOf b.launch).isEmpty) then
    b.waves.foldl (fun s wi => (s.modWave wi fun w => { w with taken := false }).retest wi) (s.cancel bi)
  else s

/-- UNSUSPEND (R276): FCTL with SUSP = 0. -/
def execUnsuspend (byFunc func : Nat) (s : State) : Out :=
  s.onlyPF byFunc func fun s => (s.residentOf func).foldl State.keepRunning (s.modFunc func fun g => { g with susp := false })

/-! ### Keys (R278) -/

/-- A key command begins: the PF's alone, and none while one runs. -/
def State.keyAsk (s : State) (byFunc key : Nat) (load : Bool) : Out :=
  if byFunc = Config.pf ∧ s.keyCmd = none ∧ s.accepts then State.done { s with keyCmd := some (load, key % 128) } else s.done

/-- KEY_LOAD (R278): KEYCMD with OP = 0. -/
def execKeyLoad (byFunc key : Nat) (s : State) : Out := s.keyAsk byFunc key true

/-- KEY_ERASE (R278): KEYCMD with OP = 1. -/
def execKeyErase (byFunc key : Nat) (s : State) : Out := s.keyAsk byFunc key false

/-- A function has an accepted launch that has not ended. -/
def State.busyFunc (s : State) (f : Nat) : Bool := s.launches.any fun l => l.func == f && l.live

/-- An erase: what was written under the resident key can never be read again, in memory or in the history of a page (R278). -/
def State.loseKey (s : State) (key : Nat) : State :=
  match s.pair key with
  | none => s
  | some p => { s with
      seals := s.seals.lose p
      towers := s.towers.map fun t => { t with log := t.log.map fun v => { v with seals := v.seals.lose p } } }

/-- A key slot takes a key pair, or becomes empty (R278). -/
def State.setKey (s : State) (key : Nat) (pair : Option (List Word64)) : State :=
  let t := if pair.isNone then s.loseKey key else s
  { t with keys := t.keys.set key pair }

/-- KEY_COMMAND_COMPLETE (R278): RESULT 2 while the key's VF has a launch that has not ended, else the slot is loaded or erased and RESULT is 1. -/
def execKeyCommandComplete (s : State) : Out :=
  match s.keyCmd with
  | none => s.done
  | some (load, key) =>
    if s.busyFunc key then State.done { s with keyCmd := none, keyResult := 2 }
    else
      let t := s.setKey key (if load then some s.keyData else none)
      State.done { t with keyCmd := none, keyResult := 1 }

/-! ### Attestation (R280) -/

/-- ATTESTATION_REQUEST (R280): FATTREQ; ignored while a report is under way. -/
def execAttestationRequest (func : Nat) (value : Word64) (s : State) : Out :=
  if (s.func func).attBusy || !s.accepts then s.done
  else (s.modFunc func fun g => { g with attBusy := true, attAddr := fieldOf value 12 40, attStart := fieldOf value 0 12 }).done

/-- A verified page put into a list by rising page number. -/
def insertVerified (v : Verified) : List Verified → List Verified
  | [] => [v]
  | x :: r => if v.page < x.page then v :: x :: r else x :: insertVerified v r

/-- A function's own verified pages by rising page number (R280, R382). -/
def State.ownVerified (s : State) (f : Nat) : List Verified :=
  (s.verified.filter fun v => s.owns f (v.page * 65536) 65536).foldr insertVerified []

/-- The pages that a report lists, and whether more remain (R280). -/
def State.attested (s : State) (f : Nat) : List Verified × Bool :=
  let l := (s.ownVerified f).drop (s.func f).attStart
  (l.take 1600, 1600 < l.length)

/-- The bytes of a report before its signature (R280, log 22: DESIGN CHOICE). -/
def State.reportBody (s : State) (f : Nat) : List Byte :=
  let g := s.func f
  let ps := (s.attested f).1
  natBytes 1 4 ++ natBytes ps.length 4 ++ natBytes (funcCode f) 4 ++ natBytes g.attStart 4 ++ (g.attn.flatMap fun x => natBytes x.toNat 8) ++
    fixBytes 32 (Config.firmwareDigest s.fwImage) ++ fixBytes 32 Config.certDigest ++
    ps.flatMap fun v => natBytes v.page 8 ++ fixBytes 32 v.digest

/-- The bytes of a signed report (R280). -/
def State.attestation (s : State) (f : Nat) : List Byte :=
  s.reportBody f ++ fixBytes 64 (Config.sm2 (fixBytes 32 (Config.sm3 (s.reportBody f))))

/-- The pages of some physical bytes, under the function's own key. -/
def ownPages (f a n : Nat) : List PageUse := (pageStarts a n).map fun x => ⟨0, x / 65536, f⟩

/-- The report of a function is on its way: it is sent to the homes, with its MORE bit (R280). -/
def State.sendReport (s : State) (f : Nat) : State :=
  let a := (s.func f).attAddr * 4096
  let bs := s.attestation f
  let x := s.sysSend f (ownPages f a bs.length) (placeBytes a bs) s.countQuery
  x.1.modFunc f fun g => { g with attMore := (s.attested f).2, attOut := x.2 }

/-- BUSY of an attestation clears once no line of the report waits at its home (R187, R231, R280). -/
def State.endReport (s : State) (f : Nat) : State :=
  if s.waiting (s.func f).attOut then s else s.modFunc f fun g => { g with attBusy := false, attOut := [] }

/-- ATTESTATION_COMPLETE (R280): the report is written in the function's own memory, and BUSY clears. -/
def execAttestationComplete (func : Nat) (s : State) : Out :=
  let g := s.func func
  let a := g.attAddr * 4096
  let n := (s.attestation func).length
  if !g.attBusy then s.done
  else if !g.attOut.isEmpty then (s.endReport func).done
  else if !s.owns func a n || s.meetsVerified a n then (s.modFunc func fun g => { g with attBusy := false, attMore := false }).done
  else ((s.sendReport func).endReport func).done

/-! ### Invalidation of translations (R164, R277) -/

/-- The page of the word of global memory on which a fragment waits (R62, R371). -/
def Frag.waitPage (f : Frag) : Option Nat :=
  if f.state != .wait then .none
  else match f.wait with
    | some (.waita _ _ .global a _ _) | some (.waitbit a _ _ _) => some (a / 65536)
    | _ => .none

/-- A cached translation matches the function's request for an invalidation (R277). -/
def Func.invMatch (g : Func) (f : Nat) (e : TlbEntry) : Bool := e.func == f && (g.invAll || e.vpage == g.invPage)

/-- The physical pages that the cached translations of a request name, and the one that the function's tables give now (R277, log 25: DESIGN CHOICE). -/
def State.invPages (s : State) (f : Nat) : List Nat :=
  let g := s.func f
  distinct ((((s.cores.flatMap fun c => c.tlb) ++ s.towers.flatMap fun t => t.tlb).filter (g.invMatch f)).map fun e => e.page) ++
    match s.walk f (g.invPage * 65536) with
    | .ok page _ => [page]
    | _ => []

/-- The accesses of a function's waves that wait on their orders and touch a page of some, by wave and order. -/
def State.ordersOn (s : State) (f : Nat) (on : Nat → Bool) : List (Nat × Nat) :=
  (List.range s.waves.length).flatMap fun wi =>
    let w := s.wave wi
    if w.ended || s.funcOf w != f then []
    else w.holds.filterMap fun h => match h.access with
      | some (id, x) => if x.accs.any fun a => on (a.pa / 65536) then some (wi, id) else none
      | none => none

/-- The waits of a function's waves on words of some pages, by wave, entry and beginning. -/
def State.waitsOn (s : State) (f : Nat) (on : Nat → Bool) : List (Nat × Nat × Nat) :=
  (List.range s.waves.length).flatMap fun wi =>
    let w := s.wave wi
    if w.ended || s.funcOf w != f then []
    else (List.range 8).filterMap fun e =>
      if ((w.fragAt e).waitPage.map on).getD false then some (wi, e, (w.fragAt e).since) else none

/-- The stores of a function on some pages are sent to their homes: buffered ones drain, and dirty remote bytes are flushed (R277, log 25: DESIGN
CHOICE). -/
def State.pushPages (s : State) (f : Nat) (on : Nat → Bool) : State :=
  let s := ((List.range s.waves.length).filter fun wi => !(s.wave wi).ended && s.funcOf (s.wave wi) == f).foldl (fun s wi =>
    s.drainWhere wi fun l => on (l.line / 65536)) s
  (List.range s.towers.length).foldl (fun s t =>
    ((s.tower t).remote.filter fun r => r.func == f && on (r.line / 65536)).foldl (fun s r => s.flushRemote t r.line) s) s

/-- A page is one of those of a function's request (R277). -/
def Func.invOn (g : Func) (pages : List Nat) (page : Nat) : Bool := g.invAll || pages.contains page

/-- TRANSLATION_INVALIDATE (R277): FINVREQ with GO = 1; ignored while BUSY is 1. What has been translated through the matching entries is noted. -/
def execTranslationInvalidate (func : Nat) (value : Word64) (s : State) : Out :=
  if (s.func func).invBusy || !value.getLsbD 0 || !s.accepts then s.done
  else
    let s := s.modFunc func fun g => { g with invBusy := true, invAll := value.getLsbD 1, invPage := fieldOf value 16 36 }
    let pages := s.invPages func
    let on := (s.func func).invOn pages
    let t := s.pushPages func on
    (t.modFunc func fun g => { g with
      invMark := ⟨t.nextReq, t.nextOp, t.tick, t.dieCycles, pages, t.ordersOn func on, t.waitsOn func on⟩ }).done

/-- Some access of the function that was translated through a matching entry has not been performed: a store on its way, a pinned word, a copy, a tile
transfer, an outstanding result, an access that waits on its order, or a wait on a word of memory (R277). -/
def State.accessesOut (s : State) (f : Nat) : Bool :=
  let g := s.func f
  let m := g.invMark
  let on := g.invOn m.pages
  let maps := fun (x : PageUse) => g.invAll || x.vpage == g.invPage
  (s.reqs.any fun r => r.func == f && decide (r.id < m.req) && on (r.line / 65536)) ||
  (s.copies.any fun c => s.funcOfBlock (s.block c.block) == f && decide (c.id < m.op) && c.map.any maps) ||
  (s.xfers.any fun c => s.funcOfBlock (s.block c.block) == f && decide (c.id < m.op) && c.map.any maps) ||
  ((List.range s.cores.length).any fun c => (s.core c).pins.any fun p =>
    decide (p.taken ≤ m.cycles.getD (dieOf c) 0) && on (p.line / 65536) && p.users.any fun u => s.funcOf (s.wave u) == f) ||
  (s.waves.any fun w => !w.ended && s.funcOf w == f && w.pending.any fun p => decide (p.born ≤ m.tick) && match p.load with
    | some r => r.lanes.any fun x => on (x.2 / 65536)
    | none => false) ||
  ((s.ordersOn f on).any fun x => m.orders.contains x) || (s.waitsOn f on).any fun x => m.waits.contains x

/-- INVALIDATE_COMPLETE (R277): the entries leave every cache; BUSY clears once the accesses translated before have been performed. -/
def execInvalidateComplete (func : Nat) (s : State) : Out :=
  let g := s.func func
  if !g.invBusy then s.done
  else
    let t := s.dropTlb (g.invMatch func)
    if t.accessesOut func then t.done else (t.modFunc func fun g => { g with invBusy := false }).done

/-! ### Firmware, reset and power (R75, R279, R290) -/

/-- The physical core positions of each die that are not in service: two of its 26 (R20, R291). -/
def validCores (l : List Word) : Bool :=
  l.length == 8 && l.all fun x => x.toNat < 2 ^ 26 && ((List.range 26).filter fun i => x.getLsbD i).length == 2

/-- A tower after a device reset: the home-cache ways that are out of service stay out, and firmware takes some more out (R25, R26). -/
def Tower.rebuilt (t : Tower) (ways : List Nat) : Tower :=
  { Tower.reset with retiredWays := distinct (t.retiredWays ++ ways.filter fun w => w < Config.homeWaysBuilt) }

/-- The towers after a device reset (R25). -/
def State.rebuiltTowers (s : State) (boot : Boot) : List Tower :=
  (List.range s.towers.length).map fun t => (s.tower t).rebuilt ((boot.ways.filter fun x => x.1 == t).map fun x => x.2)

/-- DEVICE_RESET (R279): every register takes its reset value and nothing runs; the boot ROM checks the image, a staged update takes effect, and
firmware chooses the spare cores, DRAM layers and home-cache ways in service (R25). A device with fewer home-cache ways than one tower needs stays
degraded and places nothing (R26). Memory with its keys, the links, the home-cache ways that are out of service and the outside itself stay as they
are (log 23: DESIGN CHOICE). -/
def execDeviceReset (boot : Boot) (s : State) : Out :=
  let towers := s.rebuiltTowers boot
  let short := towers.any fun t => decide (t.homeWays.length < Config.homeWays)
  State.done { State.reset with
    mem := s.mem, seals := s.seals, agenda := s.agenda, turn := s.turn, free := s.free, irqs := s.irqs, dbgEvents := s.dbgEvents
    busData := s.busData, links := s.links, towers := towers
    spCore := if validCores boot.cores then boot.cores else s.spCore
    spDram := boot.layers % 16
    fwImage := if s.fwStat = 2 then s.fwImage + 1 else s.fwImage
    fwStat := if boot.genuine then 1 else 3
    degraded := short
    noPlace := !boot.genuine || short
    recovery := !boot.genuine }

/-- FIRMWARE_UPDATE_STAGE (R279): an update is verified when it is staged. -/
def execFirmwareUpdateStage (genuine : Bool) (s : State) : Out := State.done (if genuine then { s with fwStat := 2 } else s)

/-- THERMAL_THROTTLE (R75): a die's clock in sixteenths of the rated clock, down to 4, and whether placements on it are withheld. -/
def execThermalThrottle (die rate : Nat) (withhold : Bool) (s : State) : Out :=
  (State.interrupt { s with dies := s.dies.modify die fun d => { d with rate := max 4 (min 16 rate), withheld := withhold } }
    Config.pf 5).done

/-- THERMAL_SHUTDOWN (R290): every launch ends with FAULT and CAUSE 0xFE, and nothing more is placed until the next reset. -/
def execThermalShutdown (s : State) : Out :=
  let t := (List.range s.launches.length).foldl (fun s li => s.endLaunch li .fault 0xFE 0 0) s
  (State.interrupt { t with noPlace := true } Config.pf 5).done

/-! ### Errors and spares (R25, R26, R197, R281) -/

/-- The address of the word by which a wave read data (R197): a waiting word stands before its fragment's PC. -/
def State.readerPc (s : State) : Reader → VAddr
  | .latest wave => (s.wave wave).readPc
  | .result wave k => ((s.wave wave).pending[k]?.map fun p => p.pc).getD (s.wave wave).readPc
  | .wait wave e => ((s.wave wave).stow.fragAt e).pc - 4

/-- UNCORRECTABLE_ERROR (R197): the launch ends with FAULT and CAUSE 0xFF; PC is that of the word by which the wave read the data, 0 for an
engine. -/
def execUncorrectableError (block : Nat) (reader : Option Reader) (s : State) : Out :=
  if block < s.blocks.length && (s.block block).holds then
    let pc := match reader with
      | some r => (s.readerPc r).toNat
      | none => 0
    (s.endLaunch (s.block block).launch .fault 0xFF pc (s.block block).index).done
  else s.done

/-- CORRECTED_SOFT_ERROR (R197, R284, R291). -/
def execCorrectedSoftError (func : Nat) (s : State) : Out :=
  let t : State := { s with spErr := (s.spErr + 1) % 2 ^ 48 }
  (if func = Config.pf then t.count func 0x0F 1 else t).done

/-- The home writes back the lines of a way, and the way leaves service: its spare takes its place (R25, R26, R216). -/
def Tower.retireWay (t : Tower) (way : Nat) : Tower :=
  let t := (t.home.filter fun h => h.way == way).foldl Tower.writeBack t
  { t with retiredWays := t.retiredWays ++ [way] }

/-- HOME_WAY_RETIRE (R26, R291): a way beyond the spare is a failure that no spare absorbs. -/
def execHomeWayRetire (tower way : Nat) (s : State) : Out :=
  if way < Config.homeWaysBuilt && !(s.tower tower).retiredWays.contains way then
    let t := s.modTower tower fun t => t.retireWay way
    let short := decide ((t.tower tower).homeWays.length < Config.homeWays) && decide (tower < s.towers.length)
    State.done { t with spWays := (s.spWays + 1) % 2 ^ 32, degraded := s.degraded || short, noPlace := s.noPlace || short }
  else s.done

/-- DRAM_ROW_REMAP (R26, R291): the row's bytes and its history move to the spare, so that no access sees a change. -/
def execDramRowRemap (_tower _row : Nat) (s : State) : Out := State.done { s with spRows := (s.spRows + 1) % 2 ^ 32 }

/-- LINK_TRAINING (R25, R281): the lanes of a fabric port, 0 to 15, or of a tower link, 16 to 21, that are in service. -/
def execLinkTraining (port : Nat) (lanes : Word) (s : State) : Out :=
  if port < 22 then State.done { s with links := (port, lanes) :: s.links.filter fun x => x.1 != port } else s.done

/-- DEVICE_DEGRADED (R26): a failure that no spare absorbs; firmware withholds the device from service until the next reset. -/
def execDeviceDegraded (s : State) : Out := State.done { s with degraded := true, noPlace := true }

end Sys2Proof.Machine
end

