-- ==== Sys2Proof/Machine/MaskOps.lean ====
section
/-! DEFINITION. The mask forms (R326, R327): each acts once for the wave, within W, and a write to m0 stays within MASK. -/

namespace Sys2Proof.Machine

/-- A value is written to a mask register and the next word follows. -/
def State.putM (s : State) (p : Bool) (d : MReg) (f : Wave → Mask) : Out := s.updWave fun w => (w.setM d (f w)).step p

/-- The index of the lowest set bit; all ones where there is none (R326). -/
def firstSet (x : Mask) : Word :=
  match (List.range 64).find? fun i => x.getLsbD i with
  | some i => BitVec.ofNat 32 i
  | none => 0xFFFFFFFF

/-- MAND (R326). -/
def execMand (p : Bool) (d a b : MReg) (s : State) : Out := s.putM p d fun w => w.m a &&& w.m b

/-- MOR (R326). -/
def execMor (p : Bool) (d a b : MReg) (s : State) : Out := s.putM p d fun w => w.m a ||| w.m b

/-- MXOR (R326). -/
def execMxor (p : Bool) (d a b : MReg) (s : State) : Out := s.putM p d fun w => w.m a ^^^ w.m b

/-- MANDN (R326). -/
def execMandn (p : Bool) (d a b : MReg) (s : State) : Out := s.putM p d fun w => w.m a &&& ~~~ w.m b

/-- MNOT: bits 0 to W - 1 only (R326). -/
def execMnot (p : Bool) (d a : MReg) (s : State) : Out := s.putM p d fun w => ~~~ w.m a

/-- MMOV (R326). -/
def execMmov (p : Bool) (d a : MReg) (s : State) : Out := s.putM p d fun w => w.m a

/-- MPOP (R326). -/
def execMpop (p : Bool) (a : MReg) (r : SReg) (s : State) : Out := s.putS p r fun w => BitVec.ofNat 32 (popCount (w.m a))

/-- MFF1 (R326). -/
def execMff1 (p : Bool) (a : MReg) (r : SReg) (s : State) : Out := s.putS p r fun w => firstSet (w.m a)

/-- MSAVE (R326). -/
def execMsave (p : Bool) (a : MReg) (r : SReg) (s : State) : Out := s.putS64 p r fun w => w.m a

/-- MLOAD (R326). -/
def execMload (p : Bool) (d : MReg) (r : SReg) (s : State) : Out := s.putM p d fun w => w.s64 r

/-- MSETW (R326). -/
def execMsetw (p : Bool) (d : MReg) (s : State) : Out := s.putM p d fun w => w.lanes

end Sys2Proof.Machine
end

