-- ==== Sys2Proof/Machine/Dispatch.lean ====
section
/-! DEFINITION. The meaning of every instruction and event: one arm per constructor of `Instr`. -/

namespace Sys2Proof.Machine

def exec (i : Instr) (s : State) : Host.Outcome State Fault Refusal :=
  match i with
  | .nop p => Sys2Proof.Machine.execNop p s
  | .exit => Sys2Proof.Machine.execExit s
  | .yield => Sys2Proof.Machine.execYield s
  | .brk p n => Sys2Proof.Machine.execBrk p n s
  | .trap p n => Sys2Proof.Machine.execTrap p n s
  | .rett n => Sys2Proof.Machine.execRett n s
  | .getc p s1 c => Sys2Proof.Machine.execGetc p s1 c s
  | .setc p s1 c => Sys2Proof.Machine.execSetc p s1 c s
  | .stamp p s1 => Sys2Proof.Machine.execStamp p s1 s
  | .join p => Sys2Proof.Machine.execJoin p s
  | .hintImm i1 => Sys2Proof.Machine.execHintImm i1 s
  | .hintOrd o s1 => Sys2Proof.Machine.execHintOrd o s1 s
  | .hintDep w e s1 => Sys2Proof.Machine.execHintDep w e s1 s
  | .hintRnd m => Sys2Proof.Machine.execHintRnd m s
  | .hintOff o => Sys2Proof.Machine.execHintOff o s
  | .br c m o => Sys2Proof.Machine.execBr c m o s
  | .jmp o => Sys2Proof.Machine.execJmp o s
  | .call o => Sys2Proof.Machine.execCall o s
  | .tramp o => Sys2Proof.Machine.execTramp o s
  | .jmpi s1 => Sys2Proof.Machine.execJmpi s1 s
  | .calli s1 => Sys2Proof.Machine.execCalli s1 s
  | .ret => Sys2Proof.Machine.execRet s
  | .split m o => Sys2Proof.Machine.execSplit m o s
  | .fence p r u c => Sys2Proof.Machine.execFence p r u c s
  | .sadd p d a b => Sys2Proof.Machine.execSadd p d a b s
  | .ssub p d a b => Sys2Proof.Machine.execSsub p d a b s
  | .smul p d a b => Sys2Proof.Machine.execSmul p d a b s
  | .smulh p d a b => Sys2Proof.Machine.execSmulh p d a b s
  | .smulhu p d a b => Sys2Proof.Machine.execSmulhu p d a b s
  | .sand p d a b => Sys2Proof.Machine.execSand p d a b s
  | .sor p d a b => Sys2Proof.Machine.execSor p d a b s
  | .sxor p d a b => Sys2Proof.Machine.execSxor p d a b s
  | .sandn p d a b => Sys2Proof.Machine.execSandn p d a b s
  | .sshl p d a b => Sys2Proof.Machine.execSshl p d a b s
  | .sshr p d a b => Sys2Proof.Machine.execSshr p d a b s
  | .ssra p d a b => Sys2Proof.Machine.execSsra p d a b s
  | .smin p d a b => Sys2Proof.Machine.execSmin p d a b s
  | .smax p d a b => Sys2Proof.Machine.execSmax p d a b s
  | .sumin p d a b => Sys2Proof.Machine.execSumin p d a b s
  | .sumax p d a b => Sys2Proof.Machine.execSumax p d a b s
  | .sadd64 p d a b => Sys2Proof.Machine.execSadd64 p d a b s
  | .ssub64 p d a b => Sys2Proof.Machine.execSsub64 p d a b s
  | .smov p d a => Sys2Proof.Machine.execSmov p d a s
  | .ssel p d a b => Sys2Proof.Machine.execSsel p d a b s
  | .spopc p d a => Sys2Proof.Machine.execSpopc p d a s
  | .sclz p d a => Sys2Proof.Machine.execSclz p d a s
  | .scmp p a b c => Sys2Proof.Machine.execScmp p a b c s
  | .scmp64 p a b c => Sys2Proof.Machine.execScmp64 p a b c s
  | .saddi p d a i1 => Sys2Proof.Machine.execSaddi p d a i1 s
  | .sandi p d a i1 => Sys2Proof.Machine.execSandi p d a i1 s
  | .sori p d a i1 => Sys2Proof.Machine.execSori p d a i1 s
  | .sxori p d a i1 => Sys2Proof.Machine.execSxori p d a i1 s
  | .sshli p d a i1 => Sys2Proof.Machine.execSshli p d a i1 s
  | .sshri p d a i1 => Sys2Proof.Machine.execSshri p d a i1 s
  | .ssrai p d a i1 => Sys2Proof.Machine.execSsrai p d a i1 s
  | .sli p d i1 => Sys2Proof.Machine.execSli p d i1 s
  | .slui p d i1 => Sys2Proof.Machine.execSlui p d i1 s
  | .mand p d a b => Sys2Proof.Machine.execMand p d a b s
  | .mor p d a b => Sys2Proof.Machine.execMor p d a b s
  | .mxor p d a b => Sys2Proof.Machine.execMxor p d a b s
  | .mandn p d a b => Sys2Proof.Machine.execMandn p d a b s
  | .mnot p d a => Sys2Proof.Machine.execMnot p d a s
  | .mmov p d a => Sys2Proof.Machine.execMmov p d a s
  | .mpop p a s1 => Sys2Proof.Machine.execMpop p a s1 s
  | .mff1 p a s1 => Sys2Proof.Machine.execMff1 p a s1 s
  | .msave p a s1 => Sys2Proof.Machine.execMsave p a s1 s
  | .mload p d s1 => Sys2Proof.Machine.execMload p d s1 s
  | .msetw p d => Sys2Proof.Machine.execMsetw p d s
  | .vcmp p d a b c t => Sys2Proof.Machine.execVcmp p d a b c t s
  | .vadd p d a b => Sys2Proof.Machine.execVadd p d a b s
  | .vsub p d a b => Sys2Proof.Machine.execVsub p d a b s
  | .vmul p d a b => Sys2Proof.Machine.execVmul p d a b s
  | .vmulh p d a b => Sys2Proof.Machine.execVmulh p d a b s
  | .vmulhu p d a b => Sys2Proof.Machine.execVmulhu p d a b s
  | .vmad p d a b => Sys2Proof.Machine.execVmad p d a b s
  | .vand p d a b => Sys2Proof.Machine.execVand p d a b s
  | .vor p d a b => Sys2Proof.Machine.execVor p d a b s
  | .vxor p d a b => Sys2Proof.Machine.execVxor p d a b s
  | .vshl p d a b => Sys2Proof.Machine.execVshl p d a b s
  | .vshr p d a b => Sys2Proof.Machine.execVshr p d a b s
  | .vsra p d a b => Sys2Proof.Machine.execVsra p d a b s
  | .vmin p d a b => Sys2Proof.Machine.execVmin p d a b s
  | .vmax p d a b => Sys2Proof.Machine.execVmax p d a b s
  | .vumin p d a b => Sys2Proof.Machine.execVumin p d a b s
  | .vumax p d a b => Sys2Proof.Machine.execVumax p d a b s
  | .vaddS p d a s1 => Sys2Proof.Machine.execVaddS p d a s1 s
  | .vsubS p d a s1 => Sys2Proof.Machine.execVsubS p d a s1 s
  | .vmulS p d a s1 => Sys2Proof.Machine.execVmulS p d a s1 s
  | .vmulhS p d a s1 => Sys2Proof.Machine.execVmulhS p d a s1 s
  | .vmulhuS p d a s1 => Sys2Proof.Machine.execVmulhuS p d a s1 s
  | .vmadS p d a s1 => Sys2Proof.Machine.execVmadS p d a s1 s
  | .vandS p d a s1 => Sys2Proof.Machine.execVandS p d a s1 s
  | .vorS p d a s1 => Sys2Proof.Machine.execVorS p d a s1 s
  | .vxorS p d a s1 => Sys2Proof.Machine.execVxorS p d a s1 s
  | .vshlS p d a s1 => Sys2Proof.Machine.execVshlS p d a s1 s
  | .vshrS p d a s1 => Sys2Proof.Machine.execVshrS p d a s1 s
  | .vsraS p d a s1 => Sys2Proof.Machine.execVsraS p d a s1 s
  | .vminS p d a s1 => Sys2Proof.Machine.execVminS p d a s1 s
  | .vmaxS p d a s1 => Sys2Proof.Machine.execVmaxS p d a s1 s
  | .vuminS p d a s1 => Sys2Proof.Machine.execVuminS p d a s1 s
  | .vumaxS p d a s1 => Sys2Proof.Machine.execVumaxS p d a s1 s
  | .vadd64 p d a b => Sys2Proof.Machine.execVadd64 p d a b s
  | .vsub64 p d a b => Sys2Proof.Machine.execVsub64 p d a b s
  | .vmulw p d a b => Sys2Proof.Machine.execVmulw p d a b s
  | .vabs p d a => Sys2Proof.Machine.execVabs p d a s
  | .vnot p d a => Sys2Proof.Machine.execVnot p d a s
  | .vmov p d a => Sys2Proof.Machine.execVmov p d a s
  | .vpopc p d a => Sys2Proof.Machine.execVpopc p d a s
  | .vclz p d a => Sys2Proof.Machine.execVclz p d a s
  | .vbrev p d a => Sys2Proof.Machine.execVbrev p d a s
  | .vbfe p d a b => Sys2Proof.Machine.execVbfe p d a b s
  | .vbfi p d a b => Sys2Proof.Machine.execVbfi p d a b s
  | .vaddi p d a i1 => Sys2Proof.Machine.execVaddi p d a i1 s
  | .vandi p d a i1 => Sys2Proof.Machine.execVandi p d a i1 s
  | .vori p d a i1 => Sys2Proof.Machine.execVori p d a i1 s
  | .vxori p d a i1 => Sys2Proof.Machine.execVxori p d a i1 s
  | .vshli p d a i1 => Sys2Proof.Machine.execVshli p d a i1 s
  | .vshri p d a i1 => Sys2Proof.Machine.execVshri p d a i1 s
  | .vsrai p d a i1 => Sys2Proof.Machine.execVsrai p d a i1 s
  | .vli p d i1 => Sys2Proof.Machine.execVli p d i1 s
  | .vsel p d a b m => Sys2Proof.Machine.execVsel p d a b m s
  | .vfadd p k d a b => Sys2Proof.Machine.execVfadd p k d a b s
  | .vfsub p k d a b => Sys2Proof.Machine.execVfsub p k d a b s
  | .vfmul p k d a b => Sys2Proof.Machine.execVfmul p k d a b s
  | .vfma p k d a b => Sys2Proof.Machine.execVfma p k d a b s
  | .vfmin p k d a b => Sys2Proof.Machine.execVfmin p k d a b s
  | .vfmax p k d a b => Sys2Proof.Machine.execVfmax p k d a b s
  | .vfabs p k d a => Sys2Proof.Machine.execVfabs p k d a s
  | .vfneg p k d a => Sys2Proof.Machine.execVfneg p k d a s
  | .vfcps p k d a b => Sys2Proof.Machine.execVfcps p k d a b s
  | .vfdiv p k d a b => Sys2Proof.Machine.execVfdiv p k d a b s
  | .vfrnd p k d a => Sys2Proof.Machine.execVfrnd p k d a s
  | .vfaddS p d a s1 t => Sys2Proof.Machine.execVfaddS p d a s1 t s
  | .vfsubS p d a s1 t => Sys2Proof.Machine.execVfsubS p d a s1 t s
  | .vfmulS p d a s1 t => Sys2Proof.Machine.execVfmulS p d a s1 t s
  | .vfmaS p d a s1 t => Sys2Proof.Machine.execVfmaS p d a s1 t s
  | .vfminS p d a s1 t => Sys2Proof.Machine.execVfminS p d a s1 t s
  | .vfmaxS p d a s1 t => Sys2Proof.Machine.execVfmaxS p d a s1 t s
  | .vrcp p d a t => Sys2Proof.Machine.execVrcp p d a t s
  | .vrsq p d a t => Sys2Proof.Machine.execVrsq p d a t s
  | .vsqrt p d a t => Sys2Proof.Machine.execVsqrt p d a t s
  | .vexp2 p d a t => Sys2Proof.Machine.execVexp2 p d a t s
  | .vlog2 p d a t => Sys2Proof.Machine.execVlog2 p d a t s
  | .vsin p d a t => Sys2Proof.Machine.execVsin p d a t s
  | .vcos p d a t => Sys2Proof.Machine.execVcos p d a t s
  | .vtanh p d a t => Sys2Proof.Machine.execVtanh p d a t s
  | .vcvt p d a t u r s1 => Sys2Proof.Machine.execVcvt p d a t u r s1 s
  | .vpack4 p d a t => Sys2Proof.Machine.execVpack4 p d a t s
  | .vunpk4 p d a t => Sys2Proof.Machine.execVunpk4 p d a t s
  | .vshfl p d a b => Sys2Proof.Machine.execVshfl p d a b s
  | .vbcast p d a k => Sys2Proof.Machine.execVbcast p d a k s
  | .vreadl p s1 a k => Sys2Proof.Machine.execVreadl p s1 a k s
  | .vwritel p d s1 k => Sys2Proof.Machine.execVwritel p d s1 k s
  | .vred p d a o => Sys2Proof.Machine.execVred p d a o s
  | .vscan p d a o => Sys2Proof.Machine.execVscan p d a o s
  | .vlane p d => Sys2Proof.Machine.execVlane p d s
  | .ld p v s1 o z c => Sys2Proof.Machine.execLd p v s1 o z c s
  | .st p v s1 o z c => Sys2Proof.Machine.execSt p v s1 o z c s
  | .sld p d s1 o z => Sys2Proof.Machine.execSld p d s1 o z s
  | .sst p d s1 o z => Sys2Proof.Machine.execSst p d s1 o z s
  | .lds p v s1 o z c => Sys2Proof.Machine.execLds p v s1 o z c s
  | .sts p v s1 o z c => Sys2Proof.Machine.execSts p v s1 o z c s
  | .ldas p v s1 o z q => Sys2Proof.Machine.execLdas p v s1 o z q s
  | .stc p v s1 o z q => Sys2Proof.Machine.execStc p v s1 o z q s
  | .atom p v s1 o a => Sys2Proof.Machine.execAtom p v s1 o a s
  | .atoms p v s1 o a => Sys2Proof.Machine.execAtoms p v s1 o a s
  | .lr p v s1 o z => Sys2Proof.Machine.execLr p v s1 o z s
  | .sc p v s1 o z => Sys2Proof.Machine.execSc p v s1 o z s
  | .pref p s1 o l c => Sys2Proof.Machine.execPref p s1 o l c s
  | .bar p g => Sys2Proof.Machine.execBar p g s
  | .arrive p g => Sys2Proof.Machine.execArrive p g s
  | .waitb p g h => Sys2Proof.Machine.execWaitb p g h s
  | .waita p a v c s1 => Sys2Proof.Machine.execWaita p a v c s1 s
  | .waitc p c n => Sys2Proof.Machine.execWaitc p c n s
  | .waitbit p b i1 => Sys2Proof.Machine.execWaitbit p b i1 s
  | .cpyG2s p d => Sys2Proof.Machine.execCpyG2s p d s
  | .cpyS2g p d => Sys2Proof.Machine.execCpyS2g p d s
  | .cpyG2g p d => Sys2Proof.Machine.execCpyG2g p d s
  | .cpyg p d => Sys2Proof.Machine.execCpyg p d s
  | .cpyas p d => Sys2Proof.Machine.execCpyas p d s
  | .take p a => Sys2Proof.Machine.execTake p a s
  | .mma p z h t a c s1 => Sys2Proof.Machine.execMma p z h t a c s1 s
  | .ldstat p a k t m s1 => Sys2Proof.Machine.execLdstat p a k t m s1 s
  | .swaps p => Sys2Proof.Machine.execSwaps p s
  | .rmma p z a l w r c => Sys2Proof.Machine.execRmma p z a l w r c s
  | .zzero p z => Sys2Proof.Machine.execZzero p z s
  | .zld p z s1 => Sys2Proof.Machine.execZld p z s1 s
  | .zst p z s1 => Sys2Proof.Machine.execZst p z s1 s
  | .zrd p z s1 v => Sys2Proof.Machine.execZrd p z s1 v s
  | .zwr p z s1 v => Sys2Proof.Machine.execZwr p z s1 v s
  | .zgive p z => Sys2Proof.Machine.execZgive p z s
  | .ztake p z => Sys2Proof.Machine.execZtake p z s
  | .gang p g => Sys2Proof.Machine.execGang p g s
  | .rank p a n t d c o g => Sys2Proof.Machine.execRank p a n t d c o g s
  | .ldpal p l a => Sys2Proof.Machine.execLdpal p l a s
  | .rkrec p l a v t => Sys2Proof.Machine.execRkrec p l a v t s
  | .doorbell func queue value => Sys2Proof.Machine.execDoorbell func queue value s
  | .descriptorRead func queue => Sys2Proof.Machine.execDescriptorRead func queue s
  | .qceilWrite byFunc func queue value => Sys2Proof.Machine.execQceilWrite byFunc func queue value s
  | .qsizeWrite byFunc func queue value => Sys2Proof.Machine.execQsizeWrite byFunc func queue value s
  | .blockPlacement launch block core p0 => Sys2Proof.Machine.execBlockPlacement launch block core p0 s
  | .coresPlacement launch places => Sys2Proof.Machine.execCoresPlacement launch places s
  | .blockRetirement block => Sys2Proof.Machine.execBlockRetirement block s
  | .ageingExpiry launch => Sys2Proof.Machine.execAgeingExpiry launch s
  | .waitOverdue wave => Sys2Proof.Machine.execWaitOverdue wave s
  | .victimChoice launch block => Sys2Proof.Machine.execVictimChoice launch block s
  | .sliceExpiry wave => Sys2Proof.Machine.execSliceExpiry wave s
  | .eviction block => Sys2Proof.Machine.execEviction block s
  | .blockRestore block core p0 => Sys2Proof.Machine.execBlockRestore block core p0 s
  | .longResultReturn wave k => Sys2Proof.Machine.execLongResultReturn wave k s
  | .translationCheckComplete wave => Sys2Proof.Machine.execTranslationCheckComplete wave s
  | .instructionFetchFail wave => Sys2Proof.Machine.execInstructionFetchFail wave s
  | .trapDelivery wave => Sys2Proof.Machine.execTrapDelivery wave s
  | .faultFinalRecord launch => Sys2Proof.Machine.execFaultFinalRecord launch s
  | .waveEnd wave => Sys2Proof.Machine.execWaveEnd wave s
  | .homeStoreEvent k => Sys2Proof.Machine.execHomeStoreEvent k s
  | .homeAsofRead wave k => Sys2Proof.Machine.execHomeAsofRead wave k s
  | .wcDrainTimeout core part k => Sys2Proof.Machine.execWcDrainTimeout core part k s
  | .remoteCleanExpiry tower line => Sys2Proof.Machine.execRemoteCleanExpiry tower line s
  | .remoteDirtyFlush tower line => Sys2Proof.Machine.execRemoteDirtyFlush tower line s
  | .pinLeaseExpiry core line => Sys2Proof.Machine.execPinLeaseExpiry core line s
  | .clockExchange => Sys2Proof.Machine.execClockExchange s
  | .horizonRaise func byPF => Sys2Proof.Machine.execHorizonRaise func byPF s
  | .horizonAnnounceAck func core => Sys2Proof.Machine.execHorizonAnnounceAck func core s
  | .horizonRaiseComplete func => Sys2Proof.Machine.execHorizonRaiseComplete func s
  | .logShareFull func tower => Sys2Proof.Machine.execLogShareFull func tower s
  | .waitPollTick wave entry => Sys2Proof.Machine.execWaitPollTick wave entry s
  | .waketoExpiry wave entry => Sys2Proof.Machine.execWaketoExpiry wave entry s
  | .copyComplete op => Sys2Proof.Machine.execCopyComplete op s
  | .matrixOpBegin core k => Sys2Proof.Machine.execMatrixOpBegin core k s
  | .matrixOpComplete core k => Sys2Proof.Machine.execMatrixOpComplete core k s
  | .rankOpComplete core => Sys2Proof.Machine.execRankOpComplete core s
  | .tileTransferComplete op => Sys2Proof.Machine.execTileTransferComplete op s
  | .marketAnswer launch => Sys2Proof.Machine.execMarketAnswer launch s
  | .hostBar2Access func addr len data => Sys2Proof.Machine.execHostBar2Access func addr len data s
  | .peerAccess peer func addr len data => Sys2Proof.Machine.execPeerAccess peer func addr len data s
  | .sampleTick core part => Sys2Proof.Machine.execSampleTick core part s
  | .verifyComplete func => Sys2Proof.Machine.execVerifyComplete func s
  | .invalidateComplete func => Sys2Proof.Machine.execInvalidateComplete func s
  | .l1LeaseExpiry core line => Sys2Proof.Machine.execL1LeaseExpiry core line s
  | .keepRequestComplete func => Sys2Proof.Machine.execKeepRequestComplete func s
  | .keyCommandComplete => Sys2Proof.Machine.execKeyCommandComplete s
  | .attestationComplete func => Sys2Proof.Machine.execAttestationComplete func s
  | .instructionFetchComplete wave => Sys2Proof.Machine.execInstructionFetchComplete wave s
  | .verify func value => Sys2Proof.Machine.execVerify func value s
  | .verifyRelease func value => Sys2Proof.Machine.execVerifyRelease func value s
  | .keepRegister func value => Sys2Proof.Machine.execKeepRegister func value s
  | .keepEnd func value => Sys2Proof.Machine.execKeepEnd func value s
  | .translationInvalidate func value => Sys2Proof.Machine.execTranslationInvalidate func value s
  | .keyLoad byFunc key => Sys2Proof.Machine.execKeyLoad byFunc key s
  | .keyErase byFunc key => Sys2Proof.Machine.execKeyErase byFunc key s
  | .attestationRequest func value => Sys2Proof.Machine.execAttestationRequest func value s
  | .fholdWrite func value => Sys2Proof.Machine.execFholdWrite func value s
  | .fhlogqWrite byFunc func value => Sys2Proof.Machine.execFhlogqWrite byFunc func value s
  | .fhlogbWrite byFunc func value => Sys2Proof.Machine.execFhlogbWrite byFunc func value s
  | .fcoreWrite byFunc func j value => Sys2Proof.Machine.execFcoreWrite byFunc func j value s
  | .suspend byFunc func => Sys2Proof.Machine.execSuspend byFunc func s
  | .unsuspend byFunc func => Sys2Proof.Machine.execUnsuspend byFunc func s
  | .fsliceWrite byFunc func value => Sys2Proof.Machine.execFsliceWrite byFunc func value s
  | .fpinWrite byFunc func value => Sys2Proof.Machine.execFpinWrite byFunc func value s
  | .debugStop func value => Sys2Proof.Machine.execDebugStop func value s
  | .debugResume func value => Sys2Proof.Machine.execDebugResume func value s
  | .debugRegisterWrite func wave reg lanes value => Sys2Proof.Machine.execDebugRegisterWrite func wave reg lanes value s
  | .registerWrite byFunc func reg value => Sys2Proof.Machine.execRegisterWrite byFunc func reg value s
  | .linkTraining port lanes => Sys2Proof.Machine.execLinkTraining port lanes s
  | .deviceDegraded => Sys2Proof.Machine.execDeviceDegraded s
  | .correctedSoftError func => Sys2Proof.Machine.execCorrectedSoftError func s
  | .deviceReset boot => Sys2Proof.Machine.execDeviceReset boot s
  | .firmwareUpdateStage genuine => Sys2Proof.Machine.execFirmwareUpdateStage genuine s
  | .thermalThrottle die rate withhold => Sys2Proof.Machine.execThermalThrottle die rate withhold s
  | .thermalShutdown => Sys2Proof.Machine.execThermalShutdown s
  | .uncorrectableError block reader => Sys2Proof.Machine.execUncorrectableError block reader s
  | .homeWayRetire tower way => Sys2Proof.Machine.execHomeWayRetire tower way s
  | .dramRowRemap tower row => Sys2Proof.Machine.execDramRowRemap tower row s

end Sys2Proof.Machine
end

