-- ==== Sys2Proof/Machine/Turn.lean ====
section
/-! DEFINITION. What the next step does: an event from outside, a word, or an event of the device itself (log 2: DESIGN CHOICE), and what a step adds
around a word (log 5: DESIGN CHOICE). -/

namespace Sys2Proof.Machine

/-! ### The device's own events that are due -/

/-- Numbers below a bound that satisfy a condition. -/
def those (n : Nat) (p : Nat → Bool) : List Nat := (List.range n).filter p

/-- Events of waves: fetches, results, checks, traps, ends, and waits (R28, R62, R92, R96, R198, R224, R371). -/
def State.waveEvents (s : State) (wi : Nat) : List Instr :=
  let w := s.wave wi
  if !s.runs wi || w.ended then []
  else
    (if s.awaitsFetch w && s.fetchWalk w != .wait then
      [if (s.fetchAddr w).isSome then .instructionFetchComplete wi else .instructionFetchFail wi]
    else []) ++
    ((those w.pending.length fun k => (w.pending.getD k default).tag == .ready).map fun k => .longResultReturn wi k) ++
    ((those w.pending.length fun k => s.asofDue (w.pending.getD k default)).map fun k => .homeAsofRead wi k) ++
    (if w.susp.isSome && !s.stoppedWave w then [.translationCheckComplete wi] else []) ++
    (if w.trapPending.isSome && w.pending.isEmpty then [.trapDelivery wi] else []) ++
    (if w.finished then [.waveEnd wi] else [])

/-- Events of blocks: retirement and evictions (R57, R81). -/
def State.blockEvents (s : State) (bi : Nat) : List Instr :=
  let b := s.block bi
  if b.status != .resident then []
  else (if b.waves.all fun w => (s.wave w).ended then [.blockRetirement bi] else []) ++ if s.evictable bi then [.eviction bi] else []

/-- The fragment waits on a word of a peer, whose 4,096-cycle tick has come (R371, R374). -/
def Frag.tickDue (f : Frag) : Bool :=
  f.pollAt ≤ f.waited && match f.wait with
    | some c => c.far
    | .none => false

/-- The results of a wave that are written in the present core cycle, its waits that have run out, and those that are read again (R253, R371). -/
def State.waveTimers (s : State) (wi : Nat) : List Instr :=
  let w := s.wave wi
  if !s.runs wi then []
  else
    ((those w.pending.length fun k => (w.pending.getD k default).timedBy (s.cycle (s.coreOf w))).map fun k => .longResultReturn wi k) ++
    ((those 8 fun e => s.waits wi e && s.expired wi e).map fun e => .waketoExpiry wi e) ++
    (those 8 fun e => s.waits wi e && ((s.wave wi).fragAt e).tickDue).map fun e => .waitPollTick wi e

/-- The slice timers of a victim block that have run out (R79). -/
def State.blockTimers (s : State) (bi : Nat) : List Instr :=
  let b := s.block bi
  if b.status != .resident || b.victim.isNone then []
  else (b.waves.filter fun w => !(s.wave w).sliceDone && !(s.wave w).taken && s.sliceOver (s.wave w)).map fun w => .sliceExpiry w

/-- A core and a starting partition for some waves of a launch: the lowest on which they fit (R32). -/
def State.placeFor (s : State) (l : Launch) (idx : List Nat) (ok : Nat → Bool) : Option (Nat × Nat) :=
  (((s.partition l.func).filter fun c => s.coreOpen l.func c && ok c).flatMap fun c =>
    (List.range 4).map fun p0 => (c, p0)).find? fun x => s.fits l.desc idx x.1 x.2

/-- The restoration that a saved block of a launch can have now (R82). -/
def State.restorationOf (s : State) (l : Launch) (bi : Nat) : Option Instr :=
  if !s.loadsFree bi then none
  else (s.placeFor l (s.liveIdx bi) fun c => (s.block bi).image.isNone || (s.core c).array.holder.isNone).map fun x => .blockRestore bi x.1 x.2

/-- The placement or restoration that a launch can have now; saved blocks are served by rising linear index (R58, R65, R76, R82). -/
def State.placementOf (s : State) (li : Nat) : Option Instr :=
  let l := s.launch li
  if !l.live then none
  else if l.desc.cores then
    if s.coresReady li && (s.savedOf li).all s.loadsFree then (s.planOn li []).map fun x => .coresPlacement li x else none
  else match s.savedOf li with
    | b :: bs => (b :: bs).findSome? (s.restorationOf l)
    | [] => match (List.range l.desc.total).find? fun i => s.mayPlace li i with
      | none => none
      | some i => (s.placeFor l (List.range l.desc.nwaves) fun _ => true).map fun x => .blockPlacement li i x.1 x.2

/-- Events of the work distributor (R50, R58, R65 to R68, R76, R206). -/
def State.distEvents (s : State) : List Instr :=
  ((List.range s.funcs.length).flatMap fun f => (those 8 fun q => s.readsQueue f q).map fun q => .descriptorRead f q) ++
  ((s.served.findSome? s.placementOf).toList) ++ ((s.nextChoice.map fun x => Instr.victimChoice x.1 x.2.1).toList) ++
  ((those s.launches.length fun li => !(s.launch li).takes.isEmpty).map fun li => .marketAnswer li) ++
  ((those s.launches.length s.mustClose).map fun li => .faultFinalRecord li)

/-- The launches whose ageing count has reached AGE (R69). -/
def State.ageTimers (s : State) : List Instr :=
  (those s.launches.length fun li => let a := (s.func (s.launch li).func).fage
    (s.launch li).live && a != 0 && a.toNat ≤ (s.launch li).age).map fun li => .ageingExpiry li

/-- Events of a core's rank engine (R262). -/
def State.coreEvents (s : State) (core : Nat) : List Instr :=
  match (s.core core).rankq with
  | o :: _ => if s.blockRuns o.block && !s.rankWaits core o then [.rankOpComplete core] else []
  | [] => []

/-- The timed events of a core: its array, buffers, pins, L1 and samples (R169, R170, R188, R250, R253, R287). -/
def State.coreTimers (s : State) (core : Nat) : List Instr :=
  let c := s.core core
  let now := s.cycle core
  ((those c.array.queue.length fun k => s.mayBegin core k).map fun k => .matrixOpBegin core k) ++
  ((those c.array.queue.length fun k => s.mayEnd core k && ((c.array.queue[k]?.map fun o => o.ripe now).getD false)).map fun k =>
    .matrixOpComplete core k) ++
  ((c.pins.filter fun p => p.taken + p.lease ≤ now).map fun p => .pinLeaseExpiry core p.line) ++
  ((c.l1.filter fun l => l.filled + Config.l1Lease ≤ now).map fun l => .l1LeaseExpiry core l.line) ++
  (List.range 4).flatMap fun q =>
    let p := c.parts.getD q default
    ((those p.wc.length fun k => (p.wc[k]?.map fun l => decide (l.first + Config.wcDrain ≤ now)).getD false).map fun k => .wcDrainTimeout core q k) ++
    if (List.range s.funcs.length).any fun f => (s.sampleDue core q f).isSome then [.sampleTick core q] else []

/-- Events of the base dies and of the engines' accesses (R214, R304, R379). -/
def State.homeEvents (s : State) : List Instr :=
  ((those s.reqs.length fun k => match s.reqs[k]? with
    | some r => !s.blocked r && s.firstOnLine k r.line
    | none => false).map fun k => .homeStoreEvent k) ++
  ((s.copies.filter fun c => (s.copyPart c).isSome).map fun c => .copyComplete c.id) ++
  ((s.xfers.filter fun x => (s.xferReady x).2).map fun x => .tileTransferComplete x.id)

/-- The timed events of the base dies (R174, R213). -/
def State.homeTimers (s : State) : List Instr :=
  ((List.range s.towers.length).flatMap fun t =>
    (((s.tower t).remote.filter fun r => !r.dirty.isEmpty && r.dirtied + Config.remoteLease ≤ s.tick).map fun r => .remoteDirtyFlush t r.line) ++
    ((s.tower t).remote.filter fun r => r.filled + Config.remoteLease ≤ s.tick && r.words != noWords).map fun r =>
      .remoteCleanExpiry t r.line) ++
  if s.lastExchange + Config.exchange ≤ s.tick then [.clockExchange] else []

/-- A function's commands and raises that are under way (R99, R222, R230, R231, R277, R280). -/
def State.funcEvents (s : State) (f : Nat) : List Instr :=
  let g := s.func f
  (if g.vfyBusy then [.verifyComplete f] else []) ++ (if g.keepBusy then [.keepRequestComplete f] else []) ++
  (if g.attBusy then [.attestationComplete f] else []) ++ (if g.invBusy then [.invalidateComplete f] else []) ++
  (match g.raising with
    | none => if g.raises.isEmpty then [] else [.horizonRaise f none]
    | some r =>
      ((g.acks.filter fun c => s.asofQuiet f c r.h).map fun c => .horizonAnnounceAck f c) ++
      if g.acks.isEmpty then [.horizonRaiseComplete f] else []) ++
  if g.hlogQuota = 0 then [] else
    (those s.towers.length fun t =>
      s.shareShort f t && !g.asked t && !s.stalledShare f t && (s.advanceTarget f t).isSome).map fun t => .logShareFull f t

/-- Every event of the device that is due (log 2: DESIGN CHOICE). -/
def State.events (s : State) : List Instr :=
  (List.range s.waves.length).flatMap s.waveEvents ++ (List.range s.blocks.length).flatMap s.blockEvents ++ s.distEvents ++
  (List.range s.cores.length).flatMap s.coreEvents ++ s.homeEvents ++ (List.range s.funcs.length).flatMap s.funcEvents ++
  if s.keyCmd.isSome then [.keyCommandComplete] else []

/-- The event of the device that its turn performs: each that is due has its turn (log 2: DESIGN CHOICE). -/
def State.due (s : State) : Option Instr :=
  let es := s.events
  es[s.turn / 2 % es.length]?

/-- The fragment's wait is tested at every write: it is not one on a word of a peer (R62, R371). -/
def Frag.near (f : Frag) : Bool :=
  match f.wait with
  | some c => !c.far
  | .none => false

/-- The fragments whose wait is met: each is tested at every write, before anything else happens (R62, R371). -/
def State.metWait (s : State) : Option Instr :=
  ((List.range s.waves.length).findSome? fun wi =>
    (List.range 8).find? (fun e => s.waits wi e && ((s.wave wi).fragAt e).near && (s.poll wi e).2) |>.map fun e => .waitPollTick wi e)

/-- A wave of a resident block with an order that can end (R180, R183). -/
def State.dueHold (s : State) : Option Nat :=
  (List.range s.waves.length).find? fun wi => (s.blockOf (s.wave wi)).status == .resident && (s.nextHold wi).isSome

/-- The events whose time has come: each has its effect in the cycle in which it falls due (R69, R79, R169, R170, R174, R188, R213, R253, R287,
R371). Stopped blocks drain before anything else of theirs (R206). -/
def State.timedEvents (s : State) : List Instr :=
  (List.range s.waves.length).flatMap s.waveTimers ++
  (List.range s.blocks.length).flatMap s.blockTimers ++ s.ageTimers ++
  ((those s.launches.length fun li => !(s.launch li).live && !(s.undrained li).isEmpty).map fun li => .faultFinalRecord li) ++
  (List.range s.cores.length).flatMap s.coreTimers ++ s.homeTimers

/-- The first event whose time has come. -/
def State.timed (s : State) : Option Instr := s.timedEvents.head?

/-! ### The plan of a step -/

/-- What a step does. -/
inductive Plan where
  | event (i : Instr) (s : State)
  | word (wave : Nat) (i : Instr) (s : State)
  | illegal
  | pass (s : State)
  deriving Repr

/-- A core cycle's issue choices are over and time passes: two base-die cycles, one core cycle at the rated clock (R9, R75, log 5: DESIGN
CHOICE). -/
def State.advance (s : State) : State := (s.idleTurns s.busyParts).pass 2

/-- A wave stands on the issue port; the partitions of its core that come before its own have nothing to issue in this cycle (R377). -/
def State.onPort (s : State) (i : Nat) : State :=
  let w := s.wave i
  let s := s.idleTurns ((List.range w.part).map fun q => 4 * s.coreOf w + q)
  { s.modWave i fun w => { w with stall := .none } with turn := s.turn + 1, issuing := i }

/-! ### Words that an order holds (R180, R183, R184) -/

/-- The classes of a word's accesses as FENCE numbers them, without X; bit 8 stands for an engine operation of no class (R184). -/
def accessClasses : Instr → BitVec 9
  | .ld .. | .sld .. | .lds .. | .ldas .. | .lr .. | .waita .. | .waitbit .. => 0x80
  | .st .. | .sst .. | .sts .. | .stc .. => 0x40
  | .atom .. | .atoms .. | .sc .. => 0xC0
  | .cpyG2s .. | .cpyS2g .. | .cpyG2g .. | .cpyg .. | .cpyas .. => 0x30
  | .ldstat .. | .ldpal .. => 0x08
  | .mma .. | .rmma .. | .rank .. | .zst .. => 0x0C
  | .rkrec .. | .zld .. => 0x04
  | .take .. => 0x02
  | .swaps .. => 0x100
  | _ => 0

/-- The virtual addresses, one in each page, of a word's accesses to global memory. -/
def State.wordPages (s : State) (w : Wave) : Instr → List Nat
  | .ld _ _ b o z _ | .st _ _ b o z _ | .ldas _ _ b o z _ | .stc _ _ b o z _ =>
    w.active.filterMap fun l => (w.globalAddr b o (MSize.bytes z) l).toOption
  | .atom _ _ b o a => w.active.filterMap fun l => (w.globalAddr b o (atomBytes a) l).toOption
  | .lr _ _ b o z | .sc _ _ b o z => w.active.filterMap fun l => (w.globalAddr b o (WSize.bytes z) l).toOption
  | .sld _ _ b o z | .sst _ _ b o z => (w.scalarAddr b o (WSize.bytes z)).toOption.toList
  | .waita _ a _ _ .global => [(w.s64 a).toNat % 2 ^ 52]
  | .waitbit _ b i => [(w.s64 b + 8 * (w.s64 i >>> 6)).toNat % 2 ^ 52]
  | .cpyG2s _ d => pageStarts ((w.copyDesc d).src.toNat % 2 ^ 52) (w.copyDesc d).n
  | .cpyS2g _ d => pageStarts ((w.copyDesc d).dst.toNat % 2 ^ 52) (w.copyDesc d).n
  | .cpyg _ d => s.gatherRows w (w.copyDesc d)
  | .cpyG2g _ d | .cpyas _ d =>
    pageStarts ((w.copyDesc d).src.toNat % 2 ^ 52) (w.copyDesc d).n ++ pageStarts ((w.copyDesc d).dst.toNat % 2 ^ 52) (w.copyDesc d).n
  | .zld _ _ r | .zst _ _ r => pageStarts ((w.s64 r).toNat % 2 ^ 52) 4096
  | _ => []

/-- The page of a virtual address is one of class X: it is host-coherent, or lies at a peer (R184). -/
def State.farPage (s : State) (w : Wave) (va : Nat) : Bool :=
  match s.lookup { w with susp := some (.nop false) } va with
  | some (.ok page leaf) => leaf.hcw || peerOf (page * 65536) != 0
  | _ => false

/-- An order under way holds the word (R180, R183). -/
def State.holdsWord (s : State) (w : Wave) (i : Instr) : Bool :=
  w.holds.any fun h => h.succ &&& accessClasses i != 0 || (h.succ.getLsbD 0 && (s.wordPages w i).any (s.farPage w))

/-- A word that an order holds waits on the issue port for the next core cycle (R72, R180, R183). -/
def State.holdWord (s : State) (i : Nat) : State := ((s.modWave i fun w => { w with stall := .retry }).retryLater i).takeNow i

/-- The plan of an issue turn: the word of the wave chosen, unless an order holds it (R73, R180, R183). -/
def State.planIssue (s : State) : Option Plan :=
  match s.chooseIssue with
  | none => none
  | some c => match c.next with
    | .illegal => some .illegal
    | .word i => some (if s.holdsWord (s.wave c.wave) i then .pass ((s.onPort c.wave).holdWord c.wave) else .word c.wave i (s.onPort c.wave))

/-- The state in which an event of the device runs. -/
def State.nextTurn (s : State) : State := { s with turn := s.turn + 1 }

/-- The plan of an event turn: an event whose time has come, else one of those that are due in their turn. -/
def State.planEvent (s : State) : Option Plan := (s.timed <|> s.due).map fun i => .event i s.nextTurn

/-- Between the words of a core cycle, the next thing is a timed event, or else time. -/
def State.planTime (s : State) : Plan :=
  match s.timed with
  | some i => .event i s.nextTurn
  | none => .pass s.nextTurn.advance

/-- The plan of a step: a wait that is met, an order that is done, an event of the agenda whose time has come, else words and the device's own events
in turn. Time passes when no partition has a word to issue in its core cycle (log 2, 5: DESIGN CHOICE). -/
def State.plan (s : State) : Plan :=
  match s.metWait, s.dueHold with
  | some i, _ => .event i s.nextTurn
  | none, some wi => .pass (s.settleHolds wi)
  | none, none => match s.agenda with
    | (0, i) :: r => .event i { s with agenda := r }
    | _ => if s.turn % 2 = 0 then s.planIssue.getD s.planTime else (s.planEvent <|> s.planIssue).getD s.planTime

/-! ### After a word -/

/-- A candidate's word would issue: no order holds it, and it would not stall (R72, log 5: DEDUCED). -/
def State.wouldIssue (s : State) (c : Cand) : Bool :=
  match c.next with
  | .illegal => true
  | .word i => !s.holdsWord (s.wave c.wave) i && match exec i (s.onPort c.wave) with
    | .next t => !(t.wave c.wave).stalled
    | .fault _ | .refused _ => true

/-- A partition's candidates in the core cycle in which a wave issued, without those whose own words would have stalled (R72, R73, R287). -/
def State.turnCands (s : State) (core part wi : Nat) : List Cand :=
  (s.candsOf core part).filter fun c => c.blocked || c.wave == wi || s.wouldIssue c

/-- What a step adds after the word it ran, where `before` is the state in which it began (R22, R72, R73, R79, R287, R288): for a word that
stalled, its next try; else the end of its partition's core cycle, what an issue leaves, the replay count, and the waves of a victim block that
are taken. -/
def State.afterWord (s before : State) (wi : Nat) (i : Instr) : State :=
  let w := before.wave wi
  if (s.wave wi).stalled then (s.retryLater wi).takeNow wi
  else
    let core := before.coreOf w
    let cs := before.turnCands core w.part wi
    let n := (cs.filter fun c => !c.blocked).length
    let s := (s.histTurn core w.part n).endTurn core w.part cs (some wi)
    ((s.noteIssue wi i).replayed wi i w).takeNow wi

end Sys2Proof.Machine
end

