-- ==== Sys2Proof/Machine/Loader.lean ====
section
/-! DEFINITION. A loaded program: the launch, block, wave, page tables, verified page and key that stand when a program's word is
fetched (log 9: DESIGN CHOICE). The first bytes of device memory hold VF 0's tables and its one code page. -/

namespace Sys2Proof.Machine

/-- The virtual and the physical address of the program's first word. -/
def Loaded.entry : Nat := 0x30000

/-- The descriptor of a loaded program: one block of one 16-lane wave with 8 vector registers, 16 KiB of scratchpad and one tile slot. -/
def Loaded.desc : Desc where
  entry := Loaded.entry
  args := 0
  trapVec := 0
  groups := 0
  cbmp := 0
  crec := 0
  scratch := 1
  tiles := 1
  width := 16
  nwaves := 1
  vregs := 8
  umap := false
  ups := false
  ndep := 0
  morder := 0
  prio := 0
  dbg := false
  hown := false
  sweep := false
  cores := false
  func := 0
  gridX := 1
  gridY := 1
  gridZ := 1
  mkx := 0
  mky := 0
  depv := []
  rel := false
  upSeq := 0
  ox := 0
  oy := 0
  txm1 := 0
  tym1 := 0
  sx := 0
  sy := 0
  reserved := false

/-- The launch of a loaded program, its only block placed. -/
def Loaded.launch : Launch := { Launch.new 0 0 Loaded.desc .accepted [] none 0 with placed := [0] }

/-- The block of a loaded program, on core 0. Its units hold zeros, as units that another launch has left do (R176). -/
def Loaded.block : Block where
  launch := 0
  index := 0
  core := 0
  p0 := 0
  status := .resident
  waves := [0]
  scratch := ⟨16384, [.zero], []⟩
  tiles := [⟨List.replicate 1024 0, false⟩]
  pals := List.replicate 8 (List.replicate 64 0)
  phases := [false]
  marks := []
  latch := []
  bsf := 0
  victim := none
  victimFor := (0, 0)
  moved := .dv
  placed := 0
  ways := [0]
  tileSlots := [0]
  palSlot := 0
  save := none
  invalid := false
  image := none
  queue := []

/-- The wave of a loaded program at its first instruction, which is fetched (R33, R72). -/
def Loaded.wave (w : Word) : Wave :=
  { Wave.start Loaded.launch 0 0 0 0 [0] 0 (List.replicate 64 0) (List.replicate 8 (List.replicate 16 0)) with
    ibuf := some (BitVec.ofNat 52 Loaded.entry, w) }

/-- The page-table entries that map the code page, readable and executable (R161), and the word. -/
def Loaded.bytes (w : Word) : List (Nat × Byte) :=
  leBytes 0x10000 0x20001 8 ++ leBytes 0x20000 0x21001 8 ++ leBytes 0x21000 0x22001 8 ++ leBytes 0x22018 0x30017 8 ++
  leBytes Loaded.entry w.toNat 4

/-- VF 0 with core 0, its memory, and its page tables (R275). -/
def Loaded.func (f : Func) : Func := { f with ptRoot := 1, ptEn := true, memBase := 0, memSize := 4, cores := [1, 0, 0] }

/-- The machine with a program of one word loaded and its wave at that word. Nothing else runs. -/
def State.load (s : State) (w : Word) : State :=
  { s.poke (Loaded.bytes w) with
    agenda := []
    turn := 0
    seals := s.seals.filter fun x => x.1 != Loaded.entry / 16
    launches := [Loaded.launch]
    blocks := [Loaded.block]
    waves := [Loaded.wave w]
    reqs := []
    resvs := []
    copies := []
    xfers := []
    funcs := s.funcs.modify 0 Loaded.func
    cores := s.cores.modify 0 fun _ => Core.reset
    towers := s.towers.modify 0 fun t => { t with tlb := [] }
    verified := [⟨3, 0, []⟩]
    keys := s.keys.set 0 (some (List.replicate 8 0)) }

end Sys2Proof.Machine
end

