-- ==== Sys2Proof/Machine/Step.lean ====
section
/-! DEFINITION. The step: what `State.plan` names runs, and a word's step notes the issue and lets time pass. -/

namespace Sys2Proof.Machine

/-- One step of the machine. -/
def step (s : State) : Host.Outcome State Fault Refusal :=
  match s.plan with
  | .event i t => exec i t
  | .word wave i t =>
    match exec i t with
    | .next u => .next (u.afterWord t wave i)
    | .fault r => .fault r
    | .refused r => .refused r
  | .illegal => .fault .illegalWord
  | .pass t => .next t

/-- The state with an instruction's word stored where the next step fetches, and all that stands around it when a program runs: a
launch whose block and wave are resident, and its mapped, verified page (log 9: DESIGN CHOICE). -/
def State.withFetchWord (s : State) (_nbits w : Nat) : State := s.load (BitVec.ofNat 32 w)

end Sys2Proof.Machine
end

