-- ==== Sys2Proof/Safety.lean ====
section
/-! DEFINITION. The terms in which claims are stated: the invariant of the machine's state, the waves that issue, and the parts of a wave that
a word leaves alone. -/

namespace Sys2Proof.Machine

/-- The sizes of a wave's register files, each vector register with a word for each lane below W, and split table, and its current entry (R30, R31,
R39, R86). -/
structure Wave.Ok (w : Wave) : Prop where
  scalars : w.sregs.length = 64
  masks : w.mregs.length = 8
  entries : w.frags.length = 8
  current : w.cur < 8
  lanes : w.width ≤ 64
  rows : ∀ x ∈ w.vregs, x.length = w.width

/-- A block's core, its barrier phases, one for each group of its launch, and the 1,024 words of its tiles (R17, R35, R90, R248). -/
structure Block.Ok (b : Block) (members : List Word) : Prop where
  core : b.core < Config.cores
  phases : b.phases.length = members.length + 1
  tiles : ∀ t ∈ b.tiles, t.words.length = 1024

/-- What every step keeps: memory in its canonical form; the units that the device is built with (R15 to R21); and the sizes of the waves and
blocks, each wave in a block of the machine and each block in a launch of it (R28). -/
structure State.Inv (s : State) : Prop where
  memory : Memory.wf s.mem
  dies : s.dies.length = Config.dies
  functions : s.funcs.length = Config.functions
  cores : s.cores.length = Config.cores
  towers : s.towers.length = Config.towers
  waves : ∀ w ∈ s.waves, w.Ok ∧ w.block < s.blocks.length
  blocks : ∀ b ∈ s.blocks, b.launch < s.launches.length ∧ b.Ok (s.launch b.launch).members
  launches : ∀ l ∈ s.launches, l.desc.width ≤ 64

/-- The wave `w` stands on the issue port of a machine that keeps the invariant, and may issue (R72). -/
structure State.Issues (s : State) (w : Wave) : Prop where
  inv : s.Inv
  cur : s.cur = some w
  ready : s.ready w = true

/-- A wave without what the end of a word and the choice of its fragment change: PC, EXEC, SCC, the split table, the hints, and the book-keeping
of R43, R79, R92 and R204. -/
def Wave.regs (w : Wave) : Wave :=
  { w with
    mregs := w.mregs.set 0 0, scc := false, pc := 0, cur := 0, frags := [], hints := Hints.none, held := false, susp := none, ibuf := none, qcount := 0
    qActive := 0, defer := .none, switchDue := false, fuseDue := none, marker := false, stall := .none, retired := 0
    entering := false }

/-- A wave without its scalar, vector and mask registers either, nor its stochastic-rounding state: the control registers, SF, the counters,
the outstanding results, and all the rest. -/
def Wave.special (w : Wave) : Wave := { w.regs with sregs := [], vregs := [], mregs := [], srState := [] }

end Sys2Proof.Machine
end

