-- ==== Sys2Proof/Certificates/Slice0/Obligations.lean ====
section
/-! DEFINITION. The statements for the provers, with the tables of results they are stated by, which are written from the reference entries of
the spec and not from the meanings. -/

namespace Sys2Proof.Claims

open Machine

/-! ### Integer operations (R336, R337, R359, R360) -/

/-- The two-operand operations that the scalar and the vector forms share. -/
inductive IntOp where
  | add | sub | mul | mulh | mulhu | and | or | xor | andn | shl | shr | sra | min | max | umin | umax
  deriving DecidableEq, Repr

/-- The value of an operation: on exact integers, then modulo 2^32; shifts by y[4:0] (R336, R359). -/
def IntOp.eval (o : IntOp) (x y : Word) : Word :=
  match o with
  | .add => BitVec.ofNat 32 (x.toNat + y.toNat)
  | .sub => BitVec.ofInt 32 (x.toInt - y.toInt)
  | .mul => BitVec.ofInt 32 (x.toInt * y.toInt)
  | .mulh => ((x.signExtend 64 * y.signExtend 64) >>> 32).setWidth 32
  | .mulhu => ((x.setWidth 64 * y.setWidth 64) >>> 32).setWidth 32
  | .and => x &&& y
  | .or => x ||| y
  | .xor => x ^^^ y
  | .andn => x &&& ~~~ y
  | .shl => BitVec.ofNat 32 (x.toNat * 2 ^ (y.toNat % 32))
  | .shr => BitVec.ofNat 32 (x.toNat / 2 ^ (y.toNat % 32))
  | .sra => BitVec.ofInt 32 (x.toInt / 2 ^ (y.toNat % 32))
  | .min => if x.toInt ≤ y.toInt then x else y
  | .max => if x.toInt ≤ y.toInt then y else x
  | .umin => if x.toNat ≤ y.toNat then x else y
  | .umax => if x.toNat ≤ y.toNat then y else x

/-- The immediate of R85: the field sign-extended, or HINT.IMM above it. -/
def immediate {n : Nat} (w : Wave) (i : BitVec n) : Word :=
  BitVec.ofInt 32 (match w.hints.imm with
    | none => i.toInt
    | some h => (h ++ i).toInt)

/-- The scalar forms of two operands: P, the destination, the operation, and its operands (R336, R337). -/
def scalarForm (w : Wave) : Instr → Option (Bool × SReg × IntOp × Word × Word)
  | .sadd p d a b => some (p, d, .add, w.s a, w.s b)
  | .ssub p d a b => some (p, d, .sub, w.s a, w.s b)
  | .smul p d a b => some (p, d, .mul, w.s a, w.s b)
  | .smulh p d a b => some (p, d, .mulh, w.s a, w.s b)
  | .smulhu p d a b => some (p, d, .mulhu, w.s a, w.s b)
  | .sand p d a b => some (p, d, .and, w.s a, w.s b)
  | .sor p d a b => some (p, d, .or, w.s a, w.s b)
  | .sxor p d a b => some (p, d, .xor, w.s a, w.s b)
  | .sandn p d a b => some (p, d, .andn, w.s a, w.s b)
  | .sshl p d a b => some (p, d, .shl, w.s a, w.s b)
  | .sshr p d a b => some (p, d, .shr, w.s a, w.s b)
  | .ssra p d a b => some (p, d, .sra, w.s a, w.s b)
  | .smin p d a b => some (p, d, .min, w.s a, w.s b)
  | .smax p d a b => some (p, d, .max, w.s a, w.s b)
  | .sumin p d a b => some (p, d, .umin, w.s a, w.s b)
  | .sumax p d a b => some (p, d, .umax, w.s a, w.s b)
  | .saddi p d a i => some (p, d, .add, w.s a, immediate w i)
  | .sandi p d a i => some (p, d, .and, w.s a, immediate w i)
  | .sori p d a i => some (p, d, .or, w.s a, immediate w i)
  | .sxori p d a i => some (p, d, .xor, w.s a, immediate w i)
  | .sshli p d a i => some (p, d, .shl, w.s a, immediate w i)
  | .sshri p d a i => some (p, d, .shr, w.s a, immediate w i)
  | .ssrai p d a i => some (p, d, .sra, w.s a, immediate w i)
  | _ => none

/-- The number of set bits. -/
def ones {n : Nat} (x : BitVec n) : Nat := ((List.range n).map fun k => (x.getLsbD k).toNat).sum

/-- The number of leading zeros: how many powers of two below 2^32 exceed the value. -/
def leading (x : Word) : Nat := ((List.range 32).filter fun k => decide (x.toNat < 2 ^ k)).length

/-- The other scalar forms that write one register (R326, R336, R345, R346). -/
def scalarOther (w : Wave) : Instr → Option (Bool × SReg × Word)
  | .smov p d a => some (p, d, w.s a)
  | .ssel p d a b => some (p, d, if w.scc then w.s a else w.s b)
  | .spopc p d a => some (p, d, BitVec.ofNat 32 (ones (w.s a)))
  | .sclz p d a => some (p, d, BitVec.ofNat 32 (leading (w.s a)))
  | .sli p d i => some (p, d, BitVec.ofInt 32 i.toInt)
  | .slui p d i => some (p, d, BitVec.ofNat 32 (i.toNat * 2 ^ 19 + (w.s d).toNat % 2 ^ 19))
  | .mpop p a d => some (p, d, BitVec.ofNat 32 (ones (w.m a)))
  | _ => none

/-- The forms that write a scalar pair (R227, R326, R336). -/
def pairForm (w : Wave) : Instr → Option (Bool × SReg × Word64)
  | .sadd64 p d a b => some (p, d, BitVec.ofNat 64 ((w.s64 a).toNat + (w.s64 b).toNat))
  | .ssub64 p d a b => some (p, d, BitVec.ofInt 64 ((w.s64 a).toInt - (w.s64 b).toInt))
  | .msave p a d => some (p, d, w.m a)
  | .stamp p d => some (p, d, w.sf)
  | _ => none

/-- A condition of R340 on exact integers: the numbers 0 to 9 in order, signed from LT to GE, unsigned from ULT on. -/
def condition {n : Nat} (c : Cond) (x y : BitVec n) : Bool :=
  match c with
  | .eq => decide (x.toNat = y.toNat)
  | .ne => decide (x.toNat ≠ y.toNat)
  | .lt => decide (x.toInt < y.toInt)
  | .le => decide (x.toInt ≤ y.toInt)
  | .gt => decide (y.toInt < x.toInt)
  | .ge => decide (y.toInt ≤ x.toInt)
  | .ult => decide (x.toNat < y.toNat)
  | .ule => decide (x.toNat ≤ y.toNat)
  | .ugt => decide (y.toNat < x.toNat)
  | .uge => decide (y.toNat ≤ x.toNat)

/-- The scalar comparisons (R340). -/
def compareForm (w : Wave) : Instr → Option (Bool × Bool)
  | .scmp p a b c => some (p, condition c (w.s a) (w.s b))
  | .scmp64 p a b c => some (p, condition c (w.s64 a) (w.s64 b))
  | _ => none

/-! ### Mask forms (R326) -/

/-- The mask forms that write a mask: P, the destination, and for each lane the bit written (R326). -/
def maskForm (w : Wave) : Instr → Option (Bool × MReg × (Nat → Bool))
  | .mand p d a b => some (p, d, fun l => (w.m a).getLsbD l && (w.m b).getLsbD l)
  | .mor p d a b => some (p, d, fun l => (w.m a).getLsbD l || (w.m b).getLsbD l)
  | .mxor p d a b => some (p, d, fun l => (w.m a).getLsbD l != (w.m b).getLsbD l)
  | .mandn p d a b => some (p, d, fun l => (w.m a).getLsbD l && !(w.m b).getLsbD l)
  | .mnot p d a => some (p, d, fun l => !(w.m a).getLsbD l)
  | .mmov p d a => some (p, d, fun l => (w.m a).getLsbD l)
  | .mload p d r => some (p, d, fun l => (w.s64 r).getLsbD l)
  | .msetw p d => some (p, d, fun _ => true)
  | _ => none

/-! ### Vector forms -/

/-- The vector integer forms of two operands: P, the destination, the operation, and a lane's operands (R359, R360). -/
def vectorForm (w : Wave) : Instr → Option (Bool × VReg × IntOp × (Nat → Word) × (Nat → Word))
  | .vadd p d a b => some (p, d, .add, w.v a, w.v b)
  | .vsub p d a b => some (p, d, .sub, w.v a, w.v b)
  | .vmul p d a b => some (p, d, .mul, w.v a, w.v b)
  | .vmulh p d a b => some (p, d, .mulh, w.v a, w.v b)
  | .vmulhu p d a b => some (p, d, .mulhu, w.v a, w.v b)
  | .vand p d a b => some (p, d, .and, w.v a, w.v b)
  | .vor p d a b => some (p, d, .or, w.v a, w.v b)
  | .vxor p d a b => some (p, d, .xor, w.v a, w.v b)
  | .vshl p d a b => some (p, d, .shl, w.v a, w.v b)
  | .vshr p d a b => some (p, d, .shr, w.v a, w.v b)
  | .vsra p d a b => some (p, d, .sra, w.v a, w.v b)
  | .vmin p d a b => some (p, d, .min, w.v a, w.v b)
  | .vmax p d a b => some (p, d, .max, w.v a, w.v b)
  | .vumin p d a b => some (p, d, .umin, w.v a, w.v b)
  | .vumax p d a b => some (p, d, .umax, w.v a, w.v b)
  | .vaddS p d a b => some (p, d, .add, w.v a, fun _ => w.s b)
  | .vsubS p d a b => some (p, d, .sub, w.v a, fun _ => w.s b)
  | .vmulS p d a b => some (p, d, .mul, w.v a, fun _ => w.s b)
  | .vmulhS p d a b => some (p, d, .mulh, w.v a, fun _ => w.s b)
  | .vmulhuS p d a b => some (p, d, .mulhu, w.v a, fun _ => w.s b)
  | .vandS p d a b => some (p, d, .and, w.v a, fun _ => w.s b)
  | .vorS p d a b => some (p, d, .or, w.v a, fun _ => w.s b)
  | .vxorS p d a b => some (p, d, .xor, w.v a, fun _ => w.s b)
  | .vshlS p d a b => some (p, d, .shl, w.v a, fun _ => w.s b)
  | .vshrS p d a b => some (p, d, .shr, w.v a, fun _ => w.s b)
  | .vsraS p d a b => some (p, d, .sra, w.v a, fun _ => w.s b)
  | .vminS p d a b => some (p, d, .min, w.v a, fun _ => w.s b)
  | .vmaxS p d a b => some (p, d, .max, w.v a, fun _ => w.s b)
  | .vuminS p d a b => some (p, d, .umin, w.v a, fun _ => w.s b)
  | .vumaxS p d a b => some (p, d, .umax, w.v a, fun _ => w.s b)
  | .vaddi p d a i => some (p, d, .add, w.v a, fun _ => immediate w i)
  | .vandi p d a i => some (p, d, .and, w.v a, fun _ => immediate w i)
  | .vori p d a i => some (p, d, .or, w.v a, fun _ => immediate w i)
  | .vxori p d a i => some (p, d, .xor, w.v a, fun _ => immediate w i)
  | .vshli p d a i => some (p, d, .shl, w.v a, fun _ => immediate w i)
  | .vshri p d a i => some (p, d, .shr, w.v a, fun _ => immediate w i)
  | .vsrai p d a i => some (p, d, .sra, w.v a, fun _ => immediate w i)
  | _ => none

/-- The other vector integer forms that write one register: P, the destination, and a lane's value (R358, R359, R360, R361, R369). -/
def vectorOther (w : Wave) : Instr → Option (Bool × VReg × (Nat → Word))
  | .vmad p d a b => some (p, d, fun l => BitVec.ofInt 32 ((w.v d l).toInt + (w.v a l).toInt * (w.v b l).toInt))
  | .vmadS p d a b => some (p, d, fun l => BitVec.ofInt 32 ((w.v d l).toInt + (w.v a l).toInt * (w.s b).toInt))
  | .vabs p d a => some (p, d, fun l => BitVec.ofNat 32 (w.v a l).toInt.natAbs)
  | .vnot p d a => some (p, d, fun l => BitVec.ofInt 32 (-1 - (w.v a l).toInt))
  | .vmov p d a => some (p, d, w.v a)
  | .vpopc p d a => some (p, d, fun l => BitVec.ofNat 32 (ones (w.v a l)))
  | .vclz p d a => some (p, d, fun l => BitVec.ofNat 32 (leading (w.v a l)))
  | .vli p d i => some (p, d, fun _ => immediate w i)
  | .vsel p d a b m => some (p, d, fun l => if (w.m m).getLsbD l then w.v a l else w.v b l)
  | .vlane p d => some (p, d, fun l => BitVec.ofNat 32 l)
  | _ => none

/-- The vector integer forms that write a pair (R358). -/
def vectorPair (w : Wave) : Instr → Option (Bool × VReg × (Nat → Word64))
  | .vadd64 p d a b => some (p, d, fun l => BitVec.ofNat 64 ((w.v64 a l).toNat + (w.v64 b l).toNat))
  | .vsub64 p d a b => some (p, d, fun l => BitVec.ofInt 64 ((w.v64 a l).toInt - (w.v64 b l).toInt))
  | .vmulw p d a b => some (p, d, fun l => BitVec.ofInt 64 ((w.v a l).toInt * (w.v b l).toInt))
  | _ => none

/-! ### Comparisons of vectors (R108, R148, R363) -/

/-- A number with a sign. -/
def signed (neg : Bool) (m : Nat) : Int := if neg then -(m : Int) else m

/-- One value lies below another: of two finite values, their integers in a common unit decide. -/
def below : FVal → FVal → Bool
  | .fin na ma ea, .fin nb mb eb => decide (signed na (ma * 2 ^ (ea - min ea eb).toNat) < signed nb (mb * 2 ^ (eb - min ea eb).toNat))
  | .inf a, .inf b => a && !b
  | .inf a, .fin _ _ _ => a
  | .fin _ _ _, .inf b => !b
  | _, _ => false

/-- A condition on floating-point values: false with a NaN, but for NE and UNORD (R148). The unsigned conditions are for integers. -/
def floatCondition (c : VCond) (x y : FVal) : Option Bool :=
  let both := x != .nan && y != .nan
  match c with
  | .eq => some (both && !below x y && !below y x)
  | .ne => some !(both && !below x y && !below y x)
  | .lt => some (below x y)
  | .le => some (both && !below y x)
  | .gt => some (below y x)
  | .ge => some (both && !below x y)
  | .ord => some both
  | .unord => some !both
  | .ult | .ule | .ugt | .uge => none

/-- A condition on integers (R363); ORD and UNORD are for floating-point types. -/
def intCondition {n : Nat} (c : VCond) (x y : BitVec n) : Option Bool :=
  match c with
  | .eq => some (condition .eq x y)
  | .ne => some (condition .ne x y)
  | .lt => some (condition .lt x y)
  | .le => some (condition .le x y)
  | .gt => some (condition .gt x y)
  | .ge => some (condition .ge x y)
  | .ult => some (condition .ult x y)
  | .ule => some (condition .ule x y)
  | .ugt => some (condition .ugt x y)
  | .uge => some (condition .uge x y)
  | .ord | .unord => none

/-- The legal pairs of VCMP in a lane: the 64-bit types compare pairs, and the 16-bit types bits [15:0] (R108, R363). -/
def compares (w : Wave) (c : VCond) (t : VType) (a b : VReg) (l : Nat) : Option Bool :=
  match t with
  | .i32 => intCondition c (w.v a l) (w.v b l)
  | .i64 => intCondition c (w.v64 a l) (w.v64 b l)
  | .f32 => floatCondition c (Fmt.f32.decode (w.v a l).toNat) (Fmt.f32.decode (w.v b l).toNat)
  | .f64 => floatCondition c (Fmt.f64.decode (w.v64 a l).toNat) (Fmt.f64.decode (w.v64 b l).toNat)
  | .f16 => floatCondition c (Fmt.f16.decode ((w.v a l).toNat % 65536)) (Fmt.f16.decode ((w.v b l).toNat % 65536))
  | .bf16 => floatCondition c (Fmt.bf16.decode ((w.v a l).toNat % 65536)) (Fmt.bf16.decode ((w.v b l).toNat % 65536))

/-! ### Rounding (R135, R141 to R146) -/

/-- The mode of a word with or without a mode of its own (R142). -/
def modeOf (w : Wave) (own : Option RMode) : RMode := (w.hints.rnd <|> own).getD ((RMode.ofCode w.rndMode).getD .rne)

/-- The mode where stochastic rounding does not apply (R142). -/
def plainMode (w : Wave) (own : Option RMode) : RMode := if modeOf w own = .sr then .rne else modeOf w own

/-- The value of a magnitude code in units of 2^k, with no bound on the exponent (R135). -/
def magnitude (f : Fmt) (k : Int) (c : Nat) : Nat :=
  if c / 2 ^ f.fbits = 0 then c * 2 ^ (1 - (f.bias : Int) - f.fbits - k).toNat
  else (2 ^ f.fbits + c % 2 ^ f.fbits) * 2 ^ (((c / 2 ^ f.fbits : Nat) : Int) - f.bias - f.fbits - k).toNat

/-- A magnitude `x` strictly between its neighbours, of which the lower has the number `n`, goes to the higher one (R141, R144). -/
def goesUp (mode : RMode) (neg : Bool) (draw n x lo hi : Nat) : Bool :=
  match mode with
  | .rne => decide (lo + hi < 2 * x) || (decide (lo + hi = 2 * x) && n % 2 == 1)
  | .rtz => false
  | .rdn => neg
  | .rup => !neg
  | .rna => decide (lo + hi ≤ 2 * x)
  | .sr => decide (draw < 2 ^ 32 * (x - lo) / (hi - lo))

/-- The code of an overflow (R146). -/
def overflowed (f : Fmt) (mode : RMode) (neg : Bool) : Nat :=
  let top := f.withSign neg f.maxCode
  let past := if f.hasInf then f.withSign neg (f.maxCode + 1) else f.nanCode
  match mode, neg with
  | .rtz, _ => top
  | .rdn, false => top
  | .rup, true => top
  | _, _ => past

/-- A finite value rounded to an integer. -/
def nearestInt (mode : RMode) (neg : Bool) (m : Nat) (e : Int) : Nat :=
  let x := m * 2 ^ (e - min e 0).toNat
  let one := 2 ^ (0 - min e 0).toNat
  if x % one ≠ 0 ∧ goesUp mode neg 0 (x / one) x (x / one * one) ((x / one + 1) * one) = true then x / one + 1 else x / one

/-! ### Floating point -/

/-- The two-operand operations of R366 and R367, and VFMA, on the codes of a format: the exact result rounded once (R141, R145). -/
def floatOp (f : Fmt) (mode : RMode) (x y z : Nat) : Instr → Option Nat
  | .vfadd .. | .vfaddS .. => some (f.round mode 0 ((f.decode x).add mode (f.decode y)))
  | .vfsub .. | .vfsubS .. => some (f.round mode 0 ((f.decode x).add mode (f.decode y).neg))
  | .vfmul .. | .vfmulS .. => some (f.round mode 0 ((f.decode x).mul (f.decode y)))
  | .vfma .. | .vfmaS .. => some (f.round mode 0 (((f.decode x).mul (f.decode y)).add mode (f.decode z)))
  | .vfmin .. | .vfminS .. => some (f.pick false x y)
  | .vfmax .. | .vfmaxS .. => some (f.pick true x y)
  | .vfcps .. => some (f.copySign x y)
  | .vfabs .. => some (f.abs x)
  | .vfneg .. => some (f.negate x)
  | .vfrnd .. => some (match f.decode x with
      | .fin neg m e => f.round .rne 0 (.fin neg (nearestInt mode neg m e) 0)
      | v => f.round .rne 0 v)
  | _ => none

/-- The parts of a lane's operand and result: one element, or two of 16 bits (R137). -/
def parts (k : FMaj) : List (Fmt × (Word64 → Nat)) :=
  let low := fun x : Word64 => x.toNat % 65536
  let high := fun x : Word64 => x.toNat / 65536 % 65536
  match k with
  | .f64 => [(.f64, fun x => x.toNat)]
  | .f32 => [(.f32, fun x => x.toNat % 2 ^ 32)]
  | .h2 => [(.f16, low), (.f16, high)]
  | .b2 => [(.bf16, low), (.bf16, high)]

/-- A lane's operand in a vector register, or the pair of an F64 form. -/
def operand (w : Wave) (k : FMaj) (r : VReg) (l : Nat) : Word64 := if k = .f64 then w.v64 r l else (w.v r l).setWidth 64

/-- A scalar operand, the same for every lane (R367). -/
def operandS (w : Wave) (t : FType) (r : SReg) : Word64 := if t = .f64 then w.s64 r else (w.s r).setWidth 64

/-- The floating-point forms: P, the type, the destination, and a lane's operands (R366, R367). -/
def floatForm (w : Wave) : Instr → Option (Bool × FMaj × VReg × (Nat → Word64) × (Nat → Word64))
  | .vfadd p k d a b | .vfsub p k d a b | .vfmul p k d a b | .vfma p k d a b | .vfmin p k d a b | .vfmax p k d a b
  | .vfcps p k d a b => some (p, k, d, operand w k a, operand w k b)
  | .vfabs p k d a | .vfneg p k d a | .vfrnd p k d a => some (p, k, d, operand w k a, operand w k a)
  | .vfaddS p d a b t | .vfsubS p d a b t | .vfmulS p d a b t | .vfmaS p d a b t | .vfminS p d a b t
  | .vfmaxS p d a b t => some (p, Machine.FType.maj t, d, operand w (Machine.FType.maj t) a, fun _ => operandS w t b)
  | _ => none

/-! ### Conversions (R137, R149 to R151, R365) -/

/-- A value converted to an integer of some width (R150). -/
def toInteger (mode : RMode) (sat : Bool) (width : Nat) (sg : Bool) : FVal → Int
  | .nan => 0
  | .inf neg => if neg then intMin width sg else intMax width sg
  | .fin neg m e =>
    let n := signed neg (nearestInt mode neg m e)
    if intMin width sg ≤ n ∧ n ≤ intMax width sg then n
    else if sat = true then (if n < intMin width sg then intMin width sg else intMax width sg)
    else signed neg (nearestInt .rtz neg m e)

/-- A value converted to a floating-point type: rounded once, and with sat no infinity or NaN but of a NaN (R151). -/
def toFloat (f : Fmt) (mode : RMode) (sat : Bool) (draw : Nat) : FVal → Nat
  | .nan => f.nanCode
  | .inf neg => if sat = true then f.withSign neg f.maxCode else if f.hasInf = true then f.withSign neg f.infCode else f.nanCode
  | .fin neg m e =>
    let r := f.round mode draw (.fin neg m e)
    if sat = true ∧ f.maxCode < r % f.signBit then f.withSign neg f.maxCode else r

/-- The result of a conversion in its register or pair: narrow signed integers sign-extended, all else zero-extended (R137). -/
def converted (t u : CvtType) (mode : RMode) (sat : Bool) (draw x : Nat) : Word64 :=
  let v : FVal := match Machine.CvtType.intType u with
    | some (n, sg) => .fin (decide (intOf n sg x < 0)) (intOf n sg x).natAbs 0
    | none => (Machine.CvtType.fmt u).decode x
  let plain := if mode = .sr then .rne else mode
  match Machine.CvtType.intType t with
  | some (n, sg) => if n = 64 then BitVec.ofInt 64 (toInteger plain sat n sg v)
    else (BitVec.ofInt 32 (intOf n sg (toInteger plain sat n sg v % 2 ^ n).toNat)).setWidth 64
  | none => BitVec.ofNat 64 (toFloat (Machine.CvtType.fmt t) (if t = .f32 ∨ t = .f64 then plain else mode) sat draw v)

/-- The mode of the rnd field; DYN gives none (R142, R365). -/
def fieldMode : CvtRnd → Option RMode
  | .dyn => none
  | .rne => some .rne
  | .rtz => some .rtz
  | .rna => some .rna

/-- The next state of a lane's stochastic rounding, which is its draw (R143). -/
def nextDraw (x : Word) : Word :=
  let y := x ^^^ (x <<< 13)
  let z := y ^^^ (y >>> 17)
  z ^^^ (z <<< 5)

/-! ### What a form leaves alone -/

/-- The destination of a short-class form. -/
inductive Dst where
  | s (r : SReg)
  | s2 (r : SReg)
  | v (r : VReg)
  | v2 (r : VReg)
  | m (r : MReg)
  | scc
  | none
  deriving DecidableEq, Repr

/-- The scalar registers of a destination. -/
def Dst.hasS (d : Dst) (r : SReg) : Prop :=
  match d with
  | .s q => r = q
  | .s2 q => r = q ∨ r = q + 1
  | _ => False

/-- The vector registers of a destination. -/
def Dst.hasV (d : Dst) (r : Nat) : Prop :=
  match d with
  | .v q => r = q.toNat
  | .v2 q => r = q.toNat ∨ r = q.toNat + 1
  | _ => False

/-- The destination of a floating-point form. -/
def floatDst (k : FMaj) (d : VReg) : Dst := if k = .f64 then .v2 d else .v d

/-- The destination of a scalar floating-point form. -/
def floatDstS (t : FType) (d : VReg) : Dst := if t = .f64 then .v2 d else .v d

/-- The short-class forms that only compute, with P and the destination (R91, R336, R337, R340, R345, R346, R326, R358 to R363, R365 to R369). -/
def shortForm : Instr → Option (Bool × Dst)
  | .nop p => some (p, .none)
  | .sadd p d _ _ | .ssub p d _ _ | .smul p d _ _ | .smulh p d _ _ | .smulhu p d _ _ | .sand p d _ _ | .sor p d _ _ | .sxor p d _ _
  | .sandn p d _ _ | .sshl p d _ _ | .sshr p d _ _ | .ssra p d _ _ | .smin p d _ _ | .smax p d _ _ | .sumin p d _ _ | .sumax p d _ _
  | .ssel p d _ _ | .saddi p d _ _ | .sandi p d _ _ | .sori p d _ _ | .sxori p d _ _ | .sshli p d _ _ | .sshri p d _ _
  | .ssrai p d _ _ => some (p, .s d)
  | .smov p d _ | .spopc p d _ | .sclz p d _ | .sli p d _ | .slui p d _ => some (p, .s d)
  | .mpop p _ d | .mff1 p _ d => some (p, .s d)
  | .sadd64 p d _ _ | .ssub64 p d _ _ => some (p, .s2 d)
  | .msave p _ d => some (p, .s2 d)
  | .stamp p d => some (p, .s2 d)
  | .scmp p _ _ _ | .scmp64 p _ _ _ => some (p, .scc)
  | .mand p d _ _ | .mor p d _ _ | .mxor p d _ _ | .mandn p d _ _ => some (p, .m d)
  | .mnot p d _ | .mmov p d _ => some (p, .m d)
  | .mload p d _ => some (p, .m d)
  | .msetw p d => some (p, .m d)
  | .vcmp p d _ _ _ _ => some (p, .m d)
  | .vadd p d _ _ | .vsub p d _ _ | .vmul p d _ _ | .vmulh p d _ _ | .vmulhu p d _ _ | .vmad p d _ _ | .vand p d _ _ | .vor p d _ _
  | .vxor p d _ _ | .vshl p d _ _ | .vshr p d _ _ | .vsra p d _ _ | .vmin p d _ _ | .vmax p d _ _ | .vumin p d _ _ | .vumax p d _ _
  | .vbfe p d _ _ | .vbfi p d _ _ => some (p, .v d)
  | .vaddS p d _ _ | .vsubS p d _ _ | .vmulS p d _ _ | .vmulhS p d _ _ | .vmulhuS p d _ _ | .vmadS p d _ _ | .vandS p d _ _
  | .vorS p d _ _ | .vxorS p d _ _ | .vshlS p d _ _ | .vshrS p d _ _ | .vsraS p d _ _ | .vminS p d _ _ | .vmaxS p d _ _ | .vuminS p d _ _
  | .vumaxS p d _ _ => some (p, .v d)
  | .vadd64 p d _ _ | .vsub64 p d _ _ | .vmulw p d _ _ => some (p, .v2 d)
  | .vabs p d _ | .vnot p d _ | .vmov p d _ | .vpopc p d _ | .vclz p d _ | .vbrev p d _ => some (p, .v d)
  | .vaddi p d _ _ | .vandi p d _ _ | .vori p d _ _ | .vxori p d _ _ | .vshli p d _ _ | .vshri p d _ _ | .vsrai p d _ _ => some (p, .v d)
  | .vli p d _ => some (p, .v d)
  | .vsel p d _ _ _ => some (p, .v d)
  | .vlane p d => some (p, .v d)
  | .vfadd p k d _ _ | .vfsub p k d _ _ | .vfmul p k d _ _ | .vfma p k d _ _ | .vfmin p k d _ _ | .vfmax p k d _ _ | .vfcps p k d _ _ =>
    some (p, floatDst k d)
  | .vfabs p k d _ | .vfneg p k d _ | .vfrnd p k d _ => some (p, floatDst k d)
  | .vfaddS p d _ _ t | .vfsubS p d _ _ t | .vfmulS p d _ _ t | .vfmaS p d _ _ t | .vfminS p d _ _ t | .vfmaxS p d _ _ t =>
    some (p, floatDstS t d)
  | .vcvt p d _ t _ _ _ => some (p, if Machine.CvtType.isPair t then .v2 d else .v d)
  | _ => none

/-- A conversion draws from the stochastic-rounding states (R142, R143). -/
def draws : Instr → Bool
  | .vcvt .. => true
  | _ => false

/-- The wave `v` is what a word with P bit `p` and destination `d` leaves of `w`: only the destination's registers, and of a vector
destination only the lanes of EXEC, have changed; every control register, SF, counter and outstanding result is the same; and unless the
wave has switched to another fragment, PC has moved to the next word, and SCC and EXEC are the same (R43, R83, R336, R353). -/
def Leaves (w v : Wave) (d : Dst) : Prop :=
  v.special = w.special ∧
  (∀ r, ¬ d.hasS r → v.s r = w.s r) ∧
  (∀ r l, ¬ d.hasV r → v.vn r l = w.vn r l) ∧
  (∀ r l, w.exec.getLsbD l = false → v.vn r l = w.vn r l) ∧
  (∀ r : MReg, r ≠ 0 → d ≠ .m r → v.m r = w.m r) ∧
  (v.cur = w.cur → v.pc = w.pc + 4 ∧ (d ≠ .scc → v.scc = w.scc) ∧ (d ≠ .m 0 → v.exec = w.exec))

/-! ### Branches (R298, R300, R314, R333, R355) -/

/-- The target of an offset that counts words from the next word, modulo 2^52 (R85). -/
def branchTarget {n : Nat} (w : Wave) (o : BitVec n) : VAddr := BitVec.ofInt 52 (w.pc.toNat + 4 + 4 * o.toInt)

/-- The target in a scalar pair: its bits [51:2], with [1:0] zero (R314). -/
def pairAddress (w : Wave) (r : SReg) : VAddr := BitVec.ofNat 52 ((w.s64 r).toNat / 4 * 4)

/-- A branch condition (R298). -/
def branchTaken (w : Wave) (c : BrCond) (m : MReg) : Prop :=
  match c with
  | .always => True
  | .scc => w.scc = true
  | .nscc => w.scc = false
  | .any => ∃ l, (w.m m).getLsbD l = true ∧ w.exec.getLsbD l = true
  | .none => ∀ l, (w.m m).getLsbD l = true → w.exec.getLsbD l = false
  | .all => ∀ l, w.exec.getLsbD l = true → (w.m m).getLsbD l = true
  | .execz => w.exec = 0
  | .execnz => w.exec ≠ 0

/-- Where a branch goes, and the pair that takes the link. -/
inductive Goes (w : Wave) : Instr → VAddr → Option SReg → Prop where
  | taken (c m o) : branchTaken w c m → Goes w (.br c m o) (branchTarget w o) none
  | fallsThrough (c m o) : ¬ branchTaken w c m → Goes w (.br c m o) (w.pc + 4) none
  | jmp (o) : Goes w (.jmp o) (branchTarget w o) none
  | call (o) : Goes w (.call o) (branchTarget w o) (some 60)
  | tramp (o) : Goes w (.tramp o) (branchTarget w o) (some 58)
  | jmpi (r) : Goes w (.jmpi r) (pairAddress w r) none
  | calli (r) : Goes w (.calli r) (pairAddress w r) (some 60)
  | ret : Goes w .ret (pairAddress w 60) none

/-- The registers that a link leaves: PC + 4, zero-extended, in its pair (R300). -/
def Linked (w v : Wave) : Option SReg → Prop
  | none => ∀ r, v.s r = w.s r
  | some l => v.s64 l = (w.pc + 4).setWidth 64 ∧ ∀ r, r ≠ l → r ≠ l + 1 → v.s r = w.s r

/-- No other fragment of the wave has issued a TRAMP and not yet its JMPI of s58 (R356). -/
def noTramp (w : Wave) : Prop := ∀ e, e < 8 → e ≠ w.cur → (w.fragAt e).state ≠ .free → (w.fragAt e).defer ≠ .tramp

/-! ### Control registers (R88, R310, R341) -/

/-- What GETC reads of the registers that a word or the device's own rules set (R88, R310). -/
def readsRegister (s : State) (w : Wave) : Nat → Option Word
  | 2 => some (BitVec.ofNat 32 ((s.blockOf w).index % (s.launchOf w).desc.gridX))
  | 3 => some (BitVec.ofNat 32 ((s.blockOf w).index / (s.launchOf w).desc.gridX % (s.launchOf w).desc.gridY))
  | 4 => some (BitVec.ofNat 32 ((s.blockOf w).index / (s.launchOf w).desc.gridX / (s.launchOf w).desc.gridY))
  | 5 => some (BitVec.ofNat 32 (s.launchOf w).desc.gridX)
  | 6 => some (BitVec.ofNat 32 (s.launchOf w).desc.gridY)
  | 7 => some (BitVec.ofNat 32 (s.launchOf w).desc.gridZ)
  | 8 => some (BitVec.ofNat 32 (s.blockOf w).launch)
  | 9 => some (w.rndMode.setWidth 32)
  | 10 => some (BitVec.ofNat 32 w.quantum)
  | 13 => some w.gate
  | 14 => some w.wakeTo
  | 15 => some (w.cause.setWidth 32)
  | 16 => some (BitVec.ofNat 32 w.trapPc.toNat)
  | 17 => some (BitVec.ofNat 32 (w.trapPc.toNat / 2 ^ 32))
  | 18 => some (BitVec.ofNat 32 w.trapMask.toNat)
  | 19 => some (BitVec.ofNat 32 (w.trapMask.toNat / 2 ^ 32))
  | 20 => some (BitVec.ofNat 32 w.trapAddr.toNat)
  | 21 => some (BitVec.ofNat 32 (w.trapAddr.toNat / 2 ^ 32))
  | 23 => some w.srSeed
  | 26 => some (BitVec.ofNat 32 (s.core (s.coreOf w)).now)
  | n => if n = 22 ∨ 27 ≤ n then some 0 else none

/-- The registers that SETC writes (R341). -/
def writable (hown : Bool) (c : Nat) : Bool := [9, 10, 13, 14, 23].contains c || (hown && [11, 12].contains c)

/-! ### Traps (R196 to R202) -/

/-- Every byte of memory reads as before. -/
def SameMemory (s t : State) : Prop := ∀ a, t.peek a = s.peek a

/-- The wave `v` has entered its handler from `w` (R198). -/
def Entered (w v : Wave) (vec : Nat) (t : TrapInfo) : Prop :=
  v.cause = t.cause ∧ v.trapMask = t.lanes ∧ v.trapAddr = t.addr ∧ v.trapPc = w.hints.start.getD w.pc ∧ v.savExec = w.exec ∧
  v.exec = t.lanes &&& w.lanes ∧ v.inTrap = true ∧ v.pc = BitVec.ofNat 52 vec ∧
  v.scc = w.scc ∧ v.sregs = w.sregs ∧ v.vregs = w.vregs ∧ (∀ r : MReg, r ≠ 0 → v.m r = w.m r) ∧ v.sf = w.sf ∧ v.outC = w.outC ∧
  v.outM = w.outM ∧ v.outK = w.outK ∧ v.outD = w.outD ∧ v.frags = w.frags ∧ v.cur = w.cur ∧ v.rndMode = w.rndMode ∧
  v.quantum = w.quantum ∧ v.gate = w.gate ∧ v.wakeTo = w.wakeTo ∧ v.trapPending = none

/-- The issuing wave of `s`, which is `w` and has no outstanding result, takes a trap, and `t` is the state after it: it enters the handler
of its launch, or where it is in a handler already or the launch has none, the launch ends with FAULT (R198, R205). -/
def TakesTrap (s : State) (w : Wave) (x : TrapInfo) (t : State) : Prop :=
  SameMemory s t ∧
  (w.inTrap = false → (s.launchOf w).desc.trapVec ≠ 0 →
    ∃ v, t.cur = some v ∧ Entered w v (s.launchOf w).desc.trapVec x ∧ t.launches = s.launches ∧ t.blocks = s.blocks ∧
      ∀ r ∈ t.resvs, r.wave ≠ s.issuing) ∧
  ((w.inTrap = true ∨ (s.launchOf w).desc.trapVec = 0) → (s.launchOf w).live = true →
    (t.launchOf w).status = .fault ∧ (t.launchOf w).cause = x.cause ∧ (t.launchOf w).pc = w.pc.toNat ∧
      (t.launchOf w).block = (s.blockOf w).index)

/-- A wave cause with its address (R196). -/
def waveCause (w : Wave) (c : BitVec 8) (a : Word64) : TrapInfo := ⟨c, w.exec, a⟩

/-- The launch has ended with SPLIT_DEPTH at the wave's PC, if it had not ended before; memory is as it was (R40, R204). -/
def DepthEnds (s : State) (w : Wave) (t : State) : Prop :=
  SameMemory s t ∧ ((s.launchOf w).live = true → (t.launchOf w).status = .splitDepth ∧ (t.launchOf w).pc = w.pc.toNat)

/-! ### Addresses of memory forms (R84, R160, R316, R322, R343) -/

/-- The byte offset of a pending HINT.OFF. -/
def hintOffset (w : Wave) : Int :=
  match w.hints.off with
  | none => 0
  | some i => i.toInt

/-- A lane's virtual address: base, offset register and HINT.OFF, modulo 2^52 (R160). -/
def laneAddress (w : Wave) (b : SReg) (o : VReg) (l : Nat) : Nat :=
  (((w.s64 b).toNat + (w.v o l).toNat + hintOffset w) % 2 ^ 52).toNat

/-- A lane's scratchpad offset: the sum modulo 2^64 (R322). -/
def laneOffset (w : Wave) (b : SReg) (o : VReg) (l : Nat) : Nat :=
  (((w.s64 b).toNat + (w.v o l).toNat + hintOffset w) % 2 ^ 64).toNat

/-- The virtual address of a scalar form: the offset field counts words (R343). -/
def scalarAddress (w : Wave) (b : SReg) (o : BitVec 10) : Nat := (((w.s64 b).toNat + 4 * o.toInt + hintOffset w) % 2 ^ 52).toNat

/-- The `k`-th byte of the registers from `v` of a lane, the first register lowest (R5, R316). -/
def laneByte (w : Wave) (v : VReg) (l k : Nat) : Byte := (w.vn (v.toNat + k / 4) l >>> (8 * (k % 4))).setWidth 8

/-- The `k`-th byte of the scalars from `d`. -/
def scalarByte (w : Wave) (d : SReg) (k : Nat) : Byte := (w.s (d + BitVec.ofNat 6 (k / 4)) >>> (8 * (k % 4))).setWidth 8

/-- The `k`-th register of a load of some bytes: S8 and S16 sign-extend, B8 and B16 zero-extend (R316). -/
def loaded (z : MSize) (f : Nat → Byte) (k : Nat) : Word :=
  match z with
  | .b8 => BitVec.ofNat 32 (f 0).toNat
  | .s8 => BitVec.ofInt 32 (f 0).toInt
  | .b16 => BitVec.ofNat 32 (f 1 ++ f 0).toNat
  | .s16 => BitVec.ofInt 32 (f 1 ++ f 0).toInt
  | .b32 | .b64 | .b128 => BitVec.ofNat 32 (f (4 * k + 3) ++ f (4 * k + 2) ++ f (4 * k + 1) ++ f (4 * k)).toNat

/-- The writes of a long-class result that loads some bytes into the registers from `v`, in the lanes of EXEC (R91, R316, R353). -/
def Loads (w : Wave) (v : VReg) (z : MSize) (f : Nat → Nat → Byte) (ws : List RegWrite) : Prop :=
  ∃ g : Nat → Nat → Word, ws = (List.range (MSize.regs z)).map (fun k => .v (v.toNat + k) w.exec (w.perLane (g k))) ∧
    ∀ l ∈ w.active, ∀ k, k < MSize.regs z → g k l = loaded z (f l) k

/-- The bytes that lanes store: `f'` holds the byte of the highest lane that covers an address, and elsewhere what `f` holds (R177). -/
def Stored (ls : List Nat) (place : Nat → Nat) (n : Nat) (data : Nat → Nat → Byte) (f f' : Nat → Byte) : Prop :=
  (∀ a, (∀ l ∈ ls, a < place l ∨ place l + n ≤ a) → f' a = f a) ∧
  (∀ a, ∀ l ∈ ls, place l ≤ a → a < place l + n → (∀ k ∈ ls, l < k → a < place k ∨ place k + n ≤ a) → f' a = data l (a - place l))

/-- A lane's scratchpad access is aligned and within the block's allocation (R159, R160, R322). -/
def Inside (s : State) (w : Wave) (b : SReg) (o : VReg) (n l : Nat) : Prop :=
  laneOffset w b o l % n = 0 ∧ laneOffset w b o l < 2 ^ 32 ∧ laneOffset w b o l + n ≤ (s.blockOf w).scratch.size

/-- The rights of R163 for an access. -/
def rights (s : State) (k : AccKind) (e : TlbEntry) : Prop :=
  match k with
  | .load => e.leaf.rd = true
  | .store => e.leaf.w = true ∧ s.verifiedPage e.page = false
  | .atom => e.leaf.rd = true ∧ e.leaf.w = true ∧ s.verifiedPage e.page = false
  | .asof => e.leaf.rd = true ∧ e.leaf.keep = true

/-- The block of a byte is encrypted under the key pair in a slot, or was never written through a key (R163). -/
def ReadsBack (s : State) (t : Seals) (key pa : Nat) : Prop := sealOf t pa = none ∨ sealOf t pa = s.pair key

/-- A virtual address reaches a physical one: the core's translation cache holds its page, under a key of the function that is loaded, in the
device's own memory, whose bytes there the key reads as they were written, with the rights of the access (R163, R164). -/
def Reaches (s : State) (w : Wave) (k : AccKind) (va pa : Nat) : Prop :=
  ∃ e, findTlb (s.core (s.coreOf w)).tlb (s.funcOf w) (va / 65536) = some e ∧ pa = e.page * 65536 + va % 65536 ∧ peerOf pa = 0 ∧
    s.keyOk (s.funcOf w) e.leaf.key = true ∧ ReadsBack s s.seals e.leaf.key pa ∧ rights s k e

/-- Every lane of EXEC has an aligned address that reaches its place (R160, R163). -/
def AllReach (s : State) (w : Wave) (k : AccKind) (b : SReg) (o : VReg) (n : Nat) (place : Nat → Nat) : Prop :=
  ∀ l ∈ w.active, (w.s64 b).toNat < 2 ^ 52 ∧ laneAddress w b o l % n = 0 ∧ Reaches s w k (laneAddress w b o l) (place l)

/-- No lane's page is a KEEP page, and the pages of lanes that meet in a line are under one key. -/
def Plain (s : State) (w : Wave) (b : SReg) (o : VReg) (place : Nat → Nat) : Prop :=
  let page := fun l => findTlb (s.core (s.coreOf w)).tlb (s.funcOf w) (laneAddress w b o l / 65536)
  (∀ l ∈ w.active, ∀ e, page l = some e → e.leaf.keep = false) ∧
  ∀ l ∈ w.active, ∀ k ∈ w.active, lineOf (place l) = lineOf (place k) → ∀ e f, page l = some e → page k = some f → e.leaf.key = f.leaf.key

/-- A quiet memory path: no store is on its way, nothing is pinned or cached near the cores, and the wave has nothing outstanding and no order
under way. What a read returns there is what memory holds (R168 to R174). -/
structure Quiet (s : State) (w : Wave) : Prop where
  requests : s.reqs = []
  pins : ∀ c ∈ s.cores, c.pins = []
  l1 : ∀ c ∈ s.cores, c.l1 = []
  remote : ∀ t ∈ s.towers, t.remote = []
  combining : (s.partOf w).wc = []
  copies : s.copies = []
  tiles : s.xfers = []
  results : w.pending = []
  orders : w.holds = []
  kept : w.keepOut = []
  debugged : (s.launchOf w).desc.dbg = false

/-- No page is registered at a home (R222). -/
def Unregistered (s : State) : Prop := ∀ t ∈ s.towers, t.keeps = []

/-- A wave without what its fragments' waits have seen of store events (R371). -/
def unseen (w : Wave) : Wave := { w with frags := w.frags.map fun f => { f with seen := none } }

/-- The waves of `t` are those of `s` with the issuing one `v`, but for what waits have seen of a store event. -/
def WavesBut (s t : State) (v : Wave) : Prop := t.waves.map unseen = (s.waves.set s.issuing v).map unseen

/-- The byte at an address that a store of the issuing wave has sent on its way: in the write-combining buffer of its partition, dirty in its
tower's remote cache, or in a request that waits at a home (R170, R172, R174). -/
def onWay (t : State) (a : Nat) : Option Byte :=
  let w := t.wave t.issuing
  (((t.partOf w).wc.find? fun l => l.wave == t.issuing && l.line == lineOf a).bind fun l =>
      (l.bytes.find? fun b => b.1 == a).map fun b => b.2) <|>
    (((t.tower (towerOf (t.coreOf w))).remote.find? fun r => r.line == lineOf a).bind fun r =>
      (r.dirty.find? fun d => d.off == a - lineOf a).map fun d => d.val) <|>
    t.reqs.reverse.findSome? fun r => (r.bytes.reverse.find? fun b => b.1 == a).map fun b => b.2

/-- Memory as it will be when what is on its way has been performed. -/
def onceDone (t : State) (a : Nat) : Byte := (onWay t a).getD (t.peek a)

/-- What a memory form leaves alone beside memory: blocks, launches, requests, reservations, and every wave but the issuing one. -/
def OnlyWave (s t : State) (v : Wave) : Prop :=
  t.waves = s.waves.set s.issuing v ∧ t.blocks = s.blocks ∧ t.launches = s.launches ∧ t.reqs = s.reqs ∧ t.resvs = s.resvs

/-! ### Atomics (R294) -/

/-- The new value of memory; none where a CAS fails (R294). -/
def atomValue (op : AtomOp) (old x y : Nat) : Option Nat :=
  let a : Int := (BitVec.ofNat 32 old).toInt
  let b : Int := (BitVec.ofNat 32 x).toInt
  match op with
  | .add => some ((old + x) % 2 ^ 32)
  | .min => some (if a ≤ b then old else x)
  | .max => some (if b ≤ a then old else x)
  | .umin => some (if old ≤ x then old else x)
  | .umax => some (if x ≤ old then old else x)
  | .and => some (old &&& x)
  | .or => some (old ||| x)
  | .xor => some (old ^^^ x)
  | .swap | .swap64 => some x
  | .cas | .cas64 => if old = x then some y else none
  | .fadd32 => some (Fmt.f32.round .rne 0 ((Fmt.f32.decode old).add .rne (Fmt.f32.decode x)))
  | .fmin32 => some (Fmt.f32.pick false old x)
  | .fmax32 => some (Fmt.f32.pick true old x)
  | .add64 => some ((old + x) % 2 ^ 64)
  | .fadd64 => some (Fmt.f64.round .rne 0 ((Fmt.f64.decode old).add .rne (Fmt.f64.decode x)))

/-- Bytes of an atomic's value (R294). -/
def atomSize : AtomOp → Nat
  | .add64 | .swap64 | .cas64 | .fadd64 => 8
  | _ => 4

/-- The value of `n` registers of a lane from register `r`, the first lowest. -/
def laneNat (w : Wave) (r l n : Nat) : Nat := (w.vn r l).toNat + if n = 8 then 2 ^ 32 * (w.vn (r + 1) l).toNat else 0

/-- The atomics of some lanes in ascending order: each lane's old value, and the bytes afterwards (R177, R295). -/
def atomAll (op : AtomOp) (w : Wave) (v : VReg) (place : Nat → Nat) : List Nat → (Nat → Byte) → (Nat → Nat) × (Nat → Byte)
  | [], f => (fun _ => 0, f)
  | l :: r, f =>
    let n := atomSize op
    let old := leNat f (place l) n
    let g := match atomValue op old (laneNat w v.toNat l n) (laneNat w (v.toNat + n / 4) l n) with
      | none => f
      | some x => fun a => if place l ≤ a ∧ a < place l + n then BitVec.ofNat 8 (x / 256 ^ (a - place l)) else f a
    let y := atomAll op w v place r g
    (fun k => if k = l then old else y.1 k, y.2)

/-- The old values that an atomic writes. -/
def Olds (w : Wave) (v : VReg) (n : Nat) (olds : Nat → Nat) (ws : List RegWrite) : Prop :=
  Loads w v (if n = 8 then .b64 else .b32) (fun l k => BitVec.ofNat 8 (olds l / 256 ^ k)) ws

/-- A version of a line as of a stamp: what memory holds where no record of the line is newer, else the image of the oldest newer record
(R224, R228). The key in a slot reads the byte at `pa` of it as it was written (R163). -/
def AsOf (s : State) (k : Keep) (line : Nat) (x : Stamp) (img : Nat → Byte) (key pa : Nat) : Prop :=
  let vs := (s.tower (homeOf line)).log.filter fun v => v.line == line && v.func == k.func
  ((∀ v ∈ vs, v.stamp ≤ x) ∧ ∀ i, i < 128 → img i = s.peek (line + i)) ∨
  (∃ (a : List Version) (v : Version) (b : List Version), vs = a ++ v :: b ∧ (∀ u ∈ a, x < u.stamp) ∧ x < v.stamp ∧
    (∀ u ∈ b.head?, u.stamp ≤ x) ∧ ReadsBack s v.seals key pa ∧ ∀ i, i < 128 → img i = v.image.getD i 0)

/-- The lane-wise global forms: base, offset register and size (R84). -/
def globalForm : Instr → Option (SReg × VReg × Nat)
  | .ld _ _ b o z _ | .st _ _ b o z _ => some (b, o, MSize.bytes z)
  | .ldas _ _ b o z _ | .stc _ _ b o z _ => some (b, o, MSize.bytes z)
  | .atom _ _ b o op => some (b, o, atomSize op)
  | .lr _ _ b o z | .sc _ _ b o z => some (b, o, WSize.bytes z)
  | _ => none

/-- The lane-wise scratchpad forms. -/
def scratchForm : Instr → Option (SReg × VReg × Nat)
  | .lds _ _ b o z _ | .sts _ _ b o z _ => some (b, o, MSize.bytes z)
  | .atoms _ _ b o op => some (b, o, atomSize op)
  | _ => none

/-- The access of a lane-wise global form that only its leaf restricts (R163). -/
def accessKind : Instr → Option AccKind
  | .ld .. => some .load
  | .st .. | .stc .. => some .store
  | .atom .. | .lr .. | .sc .. => some .atom
  | _ => none

/-- A lane of a lane-wise form fails with a code and an address: PROT for a base of 2^52 or more, MISALIGN, PROT for a cached page without the
right, and PROT beyond the scratchpad's allocation (R160, R163, R196, R322). -/
inductive LaneFails (s : State) (w : Wave) (i : Instr) (l : Nat) : Nat → Word64 → Prop where
  | base {b o n} : globalForm i = some (b, o, n) → 2 ^ 52 ≤ (w.s64 b).toNat → LaneFails s w i l 3 (w.s64 b)
  | misaligned {b o n} : globalForm i = some (b, o, n) → (w.s64 b).toNat < 2 ^ 52 → laneAddress w b o l % n ≠ 0 →
      LaneFails s w i l 4 (BitVec.ofNat 64 (laneAddress w b o l))
  | right {b o n k e} : globalForm i = some (b, o, n) → accessKind i = some k → (w.s64 b).toNat < 2 ^ 52 → laneAddress w b o l % n = 0 →
      findTlb (s.core (s.coreOf w)).tlb (s.funcOf w) (laneAddress w b o l / 65536) = some e → ¬ rights s k e →
      LaneFails s w i l 3 (BitVec.ofNat 64 (laneAddress w b o l))
  | offset {b o n} : scratchForm i = some (b, o, n) → laneOffset w b o l % n ≠ 0 → LaneFails s w i l 4 (BitVec.ofNat 64 (laneOffset w b o l))
  | beyond {b o n} : scratchForm i = some (b, o, n) → laneOffset w b o l % n = 0 → ¬ Inside s w b o n l →
      LaneFails s w i l 3 (BitVec.ofNat 64 (laneOffset w b o l))

/-- A lane of a lane-wise form passes its checks. -/
inductive LanePasses (s : State) (w : Wave) (i : Instr) (l : Nat) : Prop where
  | global {b o n k pa} : globalForm i = some (b, o, n) → accessKind i = some k → (w.s64 b).toNat < 2 ^ 52 → laneAddress w b o l % n = 0 →
      Reaches s w k (laneAddress w b o l) pa → LanePasses s w i l
  | scratch {b o n} : scratchForm i = some (b, o, n) → Inside s w b o n l → LanePasses s w i l

/-! ### Orders (R180, R183, R184) -/

/-- An outstanding result that returns the value of a load (R184). -/
def loading (x : Pending) : Prop :=
  match x.tag with
  | .ready | .timed _ | .asof _ _ | .order _ => True
  | .stc _ _ _ | .raise | .rank _ => False

/-- What an order of the issuing wave awaits, with the bits of pred as R183 gives them: R, W, CR and CW, MR and MW, D, and X, an access of a peer
or of a host-coherent page, by a copy or a tile form too; W and CW await the stamps of KEEP pages (R180, R184, R218, R282). -/
structure Performed (t : State) (v : Wave) (h : Hold) : Prop where
  loads : h.pred.getLsbD 7 = true ∨ h.pred.getLsbD 0 = true → ∀ x ∈ v.pending.take h.pend, ¬ loading x
  stores : h.pred.getLsbD 6 = true ∨ h.pred.getLsbD 0 = true →
    (∀ x ∈ v.pending.take h.pend, ∀ ids q y, x.tag ≠ .stc ids q y) ∧ (∀ r ∈ v.keepOut, h.req ≤ r) ∧
    (h.scope ≠ .wv → ∀ r ∈ t.reqs, r.wave = some t.issuing → h.req ≤ r.id) ∧
    (h.scope = .dv ∨ h.scope = .sy → ∀ r ∈ t.reqs, r.kind = .flush ∨ r.kind = .pin → r.func = t.funcOf v → h.req ≤ r.id)
  copies : h.pred.getLsbD 5 = true ∨ h.pred.getLsbD 4 = true → ∀ c ∈ t.copies, c.wave = t.issuing → h.op ≤ c.id
  kept : h.pred.getLsbD 6 = true ∨ h.pred.getLsbD 4 = true → (∀ r ∈ v.keepOut, h.req ≤ r) ∧
    (∀ c ∈ t.copies, c.wave = t.issuing → c.keep = true → h.op ≤ c.id) ∧ ∀ c ∈ t.xfers, c.wave = t.issuing → c.keep = true → h.op ≤ c.id
  matrix : h.pred.getLsbD 3 = true ∨ h.pred.getLsbD 2 = true → (∀ o ∈ v.outM, h.op ≤ o) ∧ (∀ o ∈ v.outK, h.op ≤ o) ∧
    ∀ c ∈ t.xfers, c.wave = t.issuing → h.op ≤ c.id
  system : h.pred.getLsbD 1 = true → ∀ o ∈ v.outD, h.op ≤ o
  far : h.pred.getLsbD 0 = true → (∀ c ∈ t.copies, c.wave = t.issuing → t.farMap c.map = true → h.op ≤ c.id) ∧
    ∀ c ∈ t.xfers, c.wave = t.issuing → t.farMap c.map = true → h.op ≤ c.id

/-! ### Long-class vector forms (R361, R362, R364, R366) -/

/-- The long-class vector forms: P, the destination, and whether it is a pair (R91). -/
def longForm : Instr → Option (Bool × VReg × Bool)
  | .vfdiv p k d _ _ => some (p, d, k == .f64)
  | .vrcp p d _ t | .vrsq p d _ t | .vsqrt p d _ t | .vexp2 p d _ t | .vlog2 p d _ t | .vsin p d _ t | .vcos p d _ t
  | .vtanh p d _ t => some (p, d, t == .f64)
  | .vshfl p d _ _ | .vbcast p d _ _ | .vred p d _ _ | .vscan p d _ _ => some (p, d, false)
  | _ => none

/-- One step of a fold (R362). -/
def foldStep (o : RedOp) (a x : Word) : Word :=
  match o with
  | .addI32 => BitVec.ofInt 32 (a.toInt + x.toInt)
  | .minI32 => if a.toInt ≤ x.toInt then a else x
  | .maxI32 => if a.toInt ≤ x.toInt then x else a
  | .addF32 => BitVec.ofNat 32 (Fmt.f32.round .rne 0 ((Fmt.f32.decode a.toNat).add .rne (Fmt.f32.decode x.toNat)))
  | .minF32 => BitVec.ofNat 32 (Fmt.f32.pick false a.toNat x.toNat)
  | .maxF32 => BitVec.ofNat 32 (Fmt.f32.pick true a.toNat x.toNat)
  | .and => a &&& x
  | .or => a ||| x

/-- The fold of values from the first on; an F32 fold that starts at a NaN starts at the canonical one (R362). -/
def foldLanes (o : RedOp) : List Word → Word
  | [] => 0
  | x :: r => r.foldl (foldStep o)
      (if (o = .addF32 ∨ o = .minF32 ∨ o = .maxF32) ∧ Fmt.f32.decode x.toNat = .nan then 0x7FC00000 else x)

/-- A lane's value of the cross-lane forms (R361, R362). -/
def longValue (w : Wave) (l : Nat) : Instr → Option Word
  | .vshfl _ _ a b => some (w.v a ((w.v b l).toNat % w.width))
  | .vbcast _ _ a k => some (w.v a (k.toNat % w.width))
  | .vred _ _ a o => some (foldLanes o (w.active.map (w.v a)))
  | .vscan _ _ a o => some (foldLanes o ((w.active.filter fun k => k ≤ l).map (w.v a)))
  | _ => none

/-- The special values of R153, and the powers of two that are exact: the function's value, to be rounded once. -/
def special : Instr → FVal → Option FVal
  | .vrcp .., .inf n => some (.fin n 0 0)
  | .vrcp .., .fin n 0 _ => some (.inf n)
  | .vrcp .., x => some (FVal.div (.fin false 1 0) x)
  | .vrsq .., .inf n => some (if n then .nan else .fin false 0 0)
  | .vrsq .., .fin n 0 _ => some (.inf n)
  | .vrsq .., .fin true _ _ => some .nan
  | .vexp2 .., .inf n => some (if n then .fin false 0 0 else .inf false)
  | .vexp2 .., .fin n m e =>
    let x := m * 2 ^ e.toNat / 2 ^ (-e).toNat
    if m * 2 ^ e.toNat % 2 ^ (-e).toNat = 0 ∧ x ≤ 4096 then some (.fin false 1 (signed n x)) else none
  | .vlog2 .., .inf n => some (if n then .nan else .inf false)
  | .vlog2 .., .fin _ 0 _ => some (.inf true)
  | .vlog2 .., .fin true _ _ => some .nan
  | .vlog2 .., .fin false m e =>
    if m = 2 ^ Nat.log2 m then some (.fin (decide (Nat.log2 m + e < 0)) (Nat.log2 m + e).natAbs 0) else none
  | .vsin .., .inf _ | .vcos .., .inf _ => some .nan
  | .vsin .., .fin n 0 _ | .vtanh .., .fin n 0 _ => some (.fin n 0 0)
  | .vcos .., .fin _ 0 _ => some (.fin false 1 0)
  | .vtanh .., .inf n => some (.fin n 1 0)
  | .vrsq .., .nan | .vexp2 .., .nan | .vlog2 .., .nan | .vsin .., .nan | .vcos .., .nan | .vtanh .., .nan => some .nan
  | _, _ => none

/-- The type of a long-class floating-point form, its operands, and the code of its result: quotients and roots are rounded once in the effective
mode, and the other functions with RNE (R145, R152, R153). -/
def longFloat (w : Wave) (i : Instr) : Option (FMaj × VReg × VReg × (Fmt → FVal → FVal → Option Nat)) :=
  match i with
  | .vfdiv _ k _ a b => some (k, a, b, fun f x y => some (f.round w.fmode 0 (x.div y)))
  | .vsqrt _ _ a t => some (Machine.SfuType.maj t, a, a, fun f x _ => some (f.round w.fmode 0 x.sqrt))
  | .vrcp _ _ a t | .vrsq _ _ a t | .vexp2 _ _ a t | .vlog2 _ _ a t | .vsin _ _ a t | .vcos _ _ a t | .vtanh _ _ a t =>
    some (Machine.SfuType.maj t, a, a, fun f x _ => (special i x).map (f.round .rne 0))
  | _ => none

/-! ### Block formats (R138 to R140, R368) -/

/-- The largest magnitude of a block type's codes 0 to 7 (R139). -/
def blockTop : BlkType → Nat
  | .uni => 7
  | .e2m1 => 6
  | .pow2 => 1
  | .hyb => 16

/-- A finite magnitude `m 2^x` is at most the largest code under scale `e`, whose unit is 2^(e-32) (R140). -/
def scaleFits (t : BlkType) (e m : Nat) (x : Int) : Prop :=
  if 0 ≤ x - (e - 32) then m * 2 ^ (x - (e - 32)).toNat ≤ blockTop t else m ≤ blockTop t * 2 ^ ((e - 32) - x).toNat

/-- The element of a lane that VPACK4 packs: +0 outside EXEC (R368). -/
def packed (w : Wave) (a : VReg) (l : Nat) : FVal := if w.exec.getLsbD l then Fmt.f32.decode (w.v a l).toNat else .fin false 0 0

/-- A scale is that of R140 for the 32 lanes from lane `g`: 63 where one is no finite value; else the least that fits them all, at most 62. -/
def ScaleOf (w : Wave) (t : BlkType) (a : VReg) (g e : Nat) : Prop :=
  ((∃ i, i < 32 ∧ ∀ n m x, packed w a (g + i) ≠ .fin n m x) → e = 63) ∧
  ((∀ i, i < 32 → ∃ n m x, packed w a (g + i) = .fin n m x) → e ≤ 62 ∧
    (∀ i n m x, i < 32 → packed w a (g + i) = .fin n m x → e = 62 ∨ scaleFits t e m x) ∧
    ∀ e', e' < e → ∃ i n m x, i < 32 ∧ packed w a (g + i) = .fin n m x ∧ ¬ scaleFits t e' m x)

/-- The magnitudes of a block type, as the value of unit 1 is 2 to minus the first (R139). -/
def blockGrid : BlkType → Nat × List Nat
  | .uni => (0, [0, 1, 2, 3, 4, 5, 6, 7, 8])
  | .e2m1 => (1, [0, 1, 2, 3, 4, 6, 8, 12])
  | .pow2 => (6, [0, 1, 2, 4, 8, 16, 32, 64])
  | .hyb => (0, [0, 1, 2, 3, 4, 6, 8, 16])

/-- The block type of a scale byte (R138). -/
def blockType (byte : Nat) : BlkType :=
  match byte / 64 % 4 with
  | 0 => .uni
  | 1 => .e2m1
  | 2 => .pow2
  | _ => .hyb

/-- The value of an element of a block: two's complement in UNI, else the sign in bit 3 (R138, R139). -/
def blockElem (byte code : Nat) : FVal :=
  let x : Int := (byte % 64 : Nat) - 32 - ((blockGrid (blockType byte)).1 : Int)
  if byte % 64 = 63 then .nan
  else if blockType byte = .uni then (if code < 8 then .fin false code x else .fin true (16 - code) x)
  else .fin (decide (8 ≤ code)) ((blockGrid (blockType byte)).2.getD (code % 8) 0) x

/-- The magnitude `i` of a sign is the nearest to a magnitude `m 2^x` under scale `e`, and of two the one with an even code (R140, RNE). -/
def nearestCode (t : BlkType) (e : Nat) (neg : Bool) (m : Nat) (x : Int) (i : Nat) : Prop :=
  let k := x - ((e : Int) - 32) + (blockGrid t).1
  let off := fun j => (((m * 2 ^ k.toNat : Nat) : Int) - (((blockGrid t).2.getD j 0 * 2 ^ (-k).toNat : Nat) : Int)).natAbs
  let last := if t = .uni ∧ neg = true then 8 else 7
  i ≤ last ∧ ∀ j, j ≤ last → j ≠ i → off i < off j ∨ (off i = off j ∧ i % 2 = 0)

/-- The code of a sign and a magnitude (R139). -/
def blockCode (t : BlkType) (neg : Bool) (i : Nat) : Nat :=
  if t = .uni then (if neg then (16 - i) % 16 else i) else (if neg then 8 else 0) + i

/-! ### Groups and waits (R38, R292, R371, R373) -/

/-- The word has ended, with the wave's registers as they were but for SF, and the next word follows. -/
def Ends (w v : Wave) : Prop := { v.regs with sf := w.sf } = w.regs ∧ w.sf.toNat ≤ v.sf.toNat ∧ (v.cur = w.cur → v.pc = w.pc + 4)

/-- The fragment that was current waits in `c`, with the wave's registers as they were but for SF (R43). -/
def Waits (w v : Wave) (c : WaitFor) : Prop :=
  { v.regs with sf := w.sf } = w.regs ∧ (v.fragAt w.cur).state = .wait ∧ (v.fragAt w.cur).wait = some c

/-- Every member wave of a group that has not ended has arrived, once the current fragment of `w` has (R38, R292, R293). -/
def AllArrived (s : State) (w : Wave) (g : Nat) : Prop :=
  ∀ i ∈ (s.blockOf w).waves, let u := s.wave i
    u.ended = true ∨ (s.launchOf w).isMember g u.index = false ∨ (∀ e, e < 8 → (u.fragAt e).state = .free) ∨
    ((∃ e, e < 8 ∧ ((u.fragAt e).state = .live ∨ (u.fragAt e).state = .wait)) ∧
      ∀ e, e < 8 → ((u.fragAt e).state = .live ∨ (u.fragAt e).state = .wait) →
        (g, u.index, e) ∈ (s.blockOf w).marks ∨ (u.index = w.index ∧ e = w.cur))

/-- A condition of WAITA, unsigned (R371). -/
def meets (c : WCond) (x y : Word) : Prop :=
  match c with
  | .eq => x.toNat = y.toNat
  | .ne => x.toNat ≠ y.toNat
  | .uge => y.toNat ≤ x.toNat
  | .ult => x.toNat < y.toNat

/-- The translation that the core holds of a virtual address (R164). -/
def page (s : State) (w : Wave) (va : Nat) : Option TlbEntry := findTlb (s.core (s.coreOf w)).tlb (s.funcOf w) (va / 65536)

/-- The word of some bytes. -/
def wordOf (f : Nat → Byte) (a : Nat) : Word := f (a + 3) ++ f (a + 2) ++ f (a + 1) ++ f a

/-! ### Engine requests (R302, R303, R379) -/

/-- The copy forms: P, the descriptor register, and the kind code (R114, R302). -/
def copyForm : Instr → Option (Bool × SReg × Nat)
  | .cpyG2s p d => some (p, d, 0)
  | .cpyS2g p d => some (p, d, 1)
  | .cpyG2g p d => some (p, d, 2)
  | .cpyg p d => some (p, d, 3)
  | .cpyas p d => some (p, d, 4)
  | _ => none

/-- The operands of a copy descriptor are aligned as the table of R302 asks: the size; source, destination and D7 of a gather; the notify address
(R303). -/
def copyAligned (w : Wave) (d : SReg) (kind : Nat) : Prop :=
  (kind = 3 → (w.s64 d).toNat % 128 = 0 ∧ (w.s64 (d + 2)).toNat % 128 = 0 ∧ (w.s (d + 7)).toNat % 4 = 0) ∧
    (w.s (d + 4)).toNat % (if kind = 3 then 128 else 4) = 0 ∧ (w.s (d + 5) = 0xFFFFFFFF ∨ (w.s (d + 5)).toNat % 4 = 0)

/-- An operand of a copy descriptor that is not aligned, in the order of R303: its value is the trap's address. -/
def copyMisaligned (w : Wave) (d : SReg) (kind : Nat) (x : Word64) : Prop :=
  let n := if kind = 3 then 128 else 4
  let src := kind = 3 ∧ (w.s64 d).toNat % 128 ≠ 0
  let dst := kind = 3 ∧ (w.s64 (d + 2)).toNat % 128 ≠ 0
  let size := (w.s (d + 4)).toNat % n ≠ 0
  let table := kind = 3 ∧ (w.s (d + 7)).toNat % 4 ≠ 0
  (src ∧ x = w.s64 d) ∨ (¬ src ∧ dst ∧ x = w.s64 (d + 2)) ∨ (¬ src ∧ ¬ dst ∧ size ∧ x = (w.s (d + 4)).setWidth 64) ∨
    (¬ src ∧ ¬ dst ∧ ¬ size ∧ table ∧ x = (w.s (d + 7)).setWidth 64) ∨
    (¬ src ∧ ¬ dst ∧ ¬ size ∧ ¬ table ∧ w.s (d + 5) ≠ 0xFFFFFFFF ∧ (w.s (d + 5)).toNat % 4 ≠ 0 ∧ x = (w.s (d + 5)).setWidth 64)

/-- No write of the issuing wave to a KEEP page awaits its stamp (R218). -/
def noKeepOut (s : State) (w : Wave) : Prop :=
  w.keepOut = [] ∧ (∀ c ∈ s.copies, c.wave = s.issuing → c.keep = false) ∧ ∀ c ∈ s.xfers, c.wave = s.issuing → c.keep = false

/-- The scratchpad ranges of a copy lie in the allocation: its end, its index table, its notify word (R303). -/
def copyInside (s : State) (w : Wave) (d : SReg) (kind : Nat) : Prop :=
  let n := (w.s (d + 4)).toNat
  let size := (s.blockOf w).scratch.size
  (kind = 1 → (w.s64 d).toNat + n ≤ size) ∧ ((kind = 0 ∨ kind = 3) → (w.s64 (d + 2)).toNat + n ≤ size) ∧
    (kind = 3 → (w.s (d + 7)).toNat + n / 128 * 4 ≤ size) ∧ (w.s (d + 5) = 0xFFFFFFFF ∨ (w.s (d + 5)).toNat + 4 ≤ size)

/-- The global bytes of a copy reach memory with their rights: each byte read and written; of a gather, the start of each row (R303, R305); of
CPYAS, a registered page that its stamp may name (R225, R306). -/
def copyReaches (s : State) (w : Wave) (d : SReg) (kind : Nat) : Prop :=
  let n := (w.s (d + 4)).toNat
  ((kind = 0 ∨ kind = 2) → ∀ k, k < n → ∃ pa, Reaches s w .load (((w.s64 d).toNat + k) % 2 ^ 52) pa) ∧
  ((kind = 1 ∨ kind = 2 ∨ kind = 4) → ∀ k, k < n → ∃ pa, Reaches s w .store (((w.s64 (d + 2)).toNat + k) % 2 ^ 52) pa) ∧
  (kind = 3 → ∀ j, j < n / 128 → ∃ pa, Reaches s w .load
    (((w.s64 d).toNat + 128 * (wordOf (s.blockOf w).scratch.get ((w.s (d + 7)).toNat + 4 * j)).toNat) % 2 ^ 52) pa) ∧
  (kind = 4 → ∀ k, k < n → ∃ pa r, Reaches s w .asof (((w.s64 d).toNat + k) % 2 ^ 52) pa ∧ s.keepOf pa = some r ∧
    let x := w.s64 (48 + 2 * BitVec.ofNat 6 ((w.s (d + 7)).toNat % 4))
    r.ks ≤ x ∧ s.hzCopy (s.coreOf w) (s.funcOf w) ≤ x ∧ x.toNat / 4 ≤ (s.core (s.coreOf w)).now + 2 ^ 24)

/-- A page map leads each byte of a range to its place. -/
def Mapped (s : State) (w : Wave) (m : List PageUse) (a n : Nat) : Prop :=
  ∀ k, k < n → ∀ e, findTlb (s.core (s.coreOf w)).tlb (s.funcOf w) ((a + k) % 2 ^ 52 / 65536) = some e →
    mapAddr m ((a + k) % 2 ^ 52) = e.page * 65536 + (a + k) % 2 ^ 52 % 65536

/-! ### Matrix, tile and rank words (R243 to R268) -/

/-- Bits of an element of a matrix type (R115, R242). -/
def elemBits : MType → Nat
  | .f64 => 64
  | .f32 => 32
  | .f16 | .bf16 => 16
  | .e4m3 | .e5m2 | .i8 => 8
  | .blk4 => 4

/-- The stored K: 2,048 elements of BLK4, 1,024 of eight bits, 512 of sixteen, 64 and 32, over the divisor of the K code (R115, R242). -/
def storedElems (t : MType) (k : KCode) : Nat :=
  (match t with
    | .blk4 => 2048
    | .e4m3 | .e5m2 | .i8 => 1024
    | .f16 | .bf16 => 512
    | .f32 => 64
    | .f64 => 32) / 2 ^ (KCode.code k).toNat

/-- Bytes of `n` rows of A or columns of B: the elements, and a scale byte for each 32 of BLK4 (R242). -/
def matrixBytes (t : MType) (k : KCode) (n : Nat) : Nat :=
  n * storedElems t k * elemBits t / 8 + if t = .blk4 then n * storedElems t k / 32 else 0

/-- An element of a string of bytes, of BLK4 with its scale bytes (R137, R240, R242). I8 elements are summed as integers. -/
def element (t : MType) (f scale : Nat → Byte) (q : Nat) : FVal :=
  match t with
  | .f64 => Fmt.f64.decode (leNat f (q * 8) 8)
  | .f32 => Fmt.f32.decode (leNat f (q * 4) 4)
  | .f16 => Fmt.f16.decode (leNat f (q * 2) 2)
  | .bf16 => Fmt.bf16.decode (leNat f (q * 2) 2)
  | .e4m3 => Fmt.e4m3.decode (leNat f (q * 1) 1)
  | .e5m2 => Fmt.e5m2.decode (leNat f (q * 1) 1)
  | .blk4 => blockElem (scale (q / 32)).toNat ((f (q / 2)).toNat / 16 ^ (q % 2) % 16)
  | .i8 => .nan

/-- The exact sum of some values: -0 only where each is -0 (R155). -/
def exactSum : List FVal → FVal
  | [] => .fin false 0 0
  | [x] => x
  | x :: r => x.add .rne (exactSum r)

/-- The stored elements of a group: half of G where the operand is sparse (R155, R156, R246). -/
def groupSize (t : MType) (sparse : Bool) : Nat :=
  (match t with
    | .f64 | .f32 | .i8 => 1
    | .f16 | .bf16 => 4
    | .e4m3 | .e5m2 => 8
    | .blk4 => 32) / if sparse then 2 else 1

/-- The accumulation of R155 over `n` stored elements: one rounding with RNE for each group, in ascending order. -/
def products (t : MType) (sparse : Bool) (n : Nat) (a b : Nat → FVal) (start : Nat) : Nat :=
  let g := groupSize t sparse
  let f := if t = .f64 then Fmt.f64 else Fmt.f32
  (List.range (n / g)).foldl (fun c k =>
    f.round .rne 0 ((f.decode c).add .rne (exactSum ((List.range g).map fun i => (a (k * g + i)).mul (b (k * g + i)))))) start

/-- The bytes of a row of A, and its scale bytes (R242). -/
def rowOfA (t : MType) (m ks a i : Nat) (f : Nat → Byte) : (Nat → Byte) × (Nat → Byte) :=
  if t = .blk4 then (fun q => f (a + i * ks / 2 + q), fun q => f (a + m * ks / 2 + i * ks / 32 + q))
  else (fun q => f (a + i * ks * (elemBits t / 8) + q), fun _ => 0)

/-- The word of a tile at a row and column; of an element of 64 bits, both words (R245). -/
def tileNat (b : Block) (z i j : Nat) (pair : Bool) : Nat :=
  ((b.tile z).words.getD (32 * i + j) 0).toNat + if pair then 2 ^ 32 * ((b.tile (z + 1)).words.getD (32 * i + j) 0).toNat else 0

/-- The matrix type of a weight type (R115, R265). -/
def weights : WType → MType
  | .f32 => .f32
  | .f16 => .f16
  | .bf16 => .bf16
  | .e4m3 => .e4m3
  | .e5m2 => .e5m2

/-- The accumulation of R157 over the first `n` entries of a code slot, in ascending rank. -/
def arrivals (pal wt : Nat → FVal) (entry : Nat → Nat) (kbase k n start : Nat) : Nat :=
  (List.range n).foldl (fun c r =>
    let x := entry r % 4096
    if kbase ≤ x ∧ x < kbase + k then Fmt.f32.round .rne 0 ((Fmt.f32.decode c).add .rne ((pal r).mul (wt (x - kbase)))) else c) start

/-- An operation has passed its last row into the stream, or its last bytes: it has run for its cycles (R250, R253). -/
def hasPassed (o : MatOp) (now : Nat) : Prop := o.begun = true ∧ o.cycles ≤ o.ran + (now - o.beginAt)

/-- Two operations are of one gang: they share dependency slots (R251). -/
def oneGang (a b : MatOp) : Prop := a.block = b.block ∧ a.gang = b.gang ∧ (a.gang = none → a.lead = b.lead)

/-- The operation at a place of the queue may begin: its block is on the core, the array is ready, and no earlier operation holds it back: a SWAPS,
or any before a SWAPS; a product that has not passed its last row; an LDSTAT that has not passed its last bytes (log 19: DESIGN CHOICE); one of
its gang that set a slot it waits for (R241, R250). An RMMA waits for the loads of its palette (R264). -/
def Begins (s : State) (c k : Nat) (o : MatOp) : Prop :=
  let a := (s.core c).array
  let now := s.cycle c
  o.begun = false ∧ (s.block o.block).status = .resident ∧ a.readyAt ≤ now ∧
  (∀ e ∈ a.queue.take k, e.kind.isSwaps = false ∧ o.kind.isSwaps = false ∧
    (e.kind.streams = true → o.kind.streams = true → hasPassed e now) ∧ (e.kind.isLoad = true → o.kind.isLoad = true → hasPassed e now) ∧
    (oneGang e o → ∀ d, e.setSlot = some d → o.waitMask.getLsbD d.toNat = false)) ∧
  (∀ z p t n acc x y, o.kind = .rmma z p t n acc x y → ∀ r ∈ (s.core c).rankq, r.block = o.block → r.id < o.id → ∀ q b, r.kind = .ldpal q b → q ≠ p)

/-- A tile slot of the block stands on the matrix side (R247). -/
def matrixSide (b : Block) (z : Nat) : Prop := z < b.tiles.length ∧ (b.tile z).matrix = true

/-- A matrix word, its P bit, its operands in registers, and the operands that it may begin with (R243, R244, R245, R265). -/
inductive MatrixWord (b : Block) (w : Wave) : Instr → Bool → MatKind → Prop where
  | swaps (p) : MatrixWord b w (.swaps p) p .swaps
  | ldstat (p a k t m c) : (w.s a).toNat % 128 = 0 → (w.s a).toNat + matrixBytes t k 32 ≤ b.scratch.size →
      (m = true → (w.s c).toNat % 16 = 0 ∧ (w.s c).toNat + storedElems t k / 4 ≤ b.scratch.size) →
      MatrixWord b w (.ldstat p a k t m c) p (.ldstat k t m (w.s a).toNat (w.s c).toNat)
  | mma (p) (z : ZReg) (h t a acc sp) : matrixSide b z.toNat → (t = .f64 → matrixSide b (z.toNat + 1)) → (w.s a).toNat % 128 = 0 →
      (w.s a).toNat + matrixBytes t h.2 (8 * 2 ^ (MRows.code h.1).toNat) ≤ b.scratch.size →
      MatrixWord b w (.mma p z h t a acc sp) p (.mma z.toNat h.1 h.2 t acc sp (w.s a).toNat)
  | rmma (p) (z : ZReg) (a) (l : PalReg) (t) (r : BitVec 5) (acc) : matrixSide b z.toNat → (w.s a).toNat % 128 = 0 →
      (w.s a).toNat + 128 * (r.toNat + 1) ≤ b.scratch.size →
      MatrixWord b w (.rmma p z a l t r acc) p (.rmma z.toNat l.toNat t (r.toNat + 1) acc (w.s a).toNat (w.s (a + 1)).toNat)

/-- A scratchpad operand fails: MISALIGN at its address, else PROT at the first byte beyond the allocation (R196). -/
def operandFails (size a n : Nat) (c : BitVec 8) (x : Word64) : Prop :=
  (a % 128 ≠ 0 ∧ c = 0x04 ∧ x = BitVec.ofNat 64 a) ∨ (a % 128 = 0 ∧ size < a + n ∧ c = 0x03 ∧ x = BitVec.ofNat 64 (max a size))

/-- The slots that MMA and RMMA write, the register of their A operand, and its bytes (R245, R265). -/
def streamForm : Instr → Option (List Nat × SReg × Nat)
  | .mma _ z h t a _ _ => some (if t = .f64 then [z.toNat, z.toNat + 1] else [z.toNat], a, matrixBytes t h.2 (8 * 2 ^ (MRows.code h.1).toNat))
  | .rmma _ z a _ _ r _ => some ([z.toNat], a, 128 * (r.toNat + 1))
  | _ => none

/-- The matrix words. -/
def isMatrixWord : Instr → Bool
  | .swaps _ | .ldstat .. | .mma .. | .rmma .. => true
  | _ => false

/-- A matrix word fails its checks, in their order, with a cause and an address (R243, R245, R265, R196). -/
inductive MatrixFails (b : Block) (w : Wave) : Instr → BitVec 8 → Word64 → Prop where
  | align (p a k t m c) : (w.s a).toNat % 128 ≠ 0 → MatrixFails b w (.ldstat p a k t m c) 0x04 (BitVec.ofNat 64 (w.s a).toNat)
  | metaAlign (p a k t c) : (w.s a).toNat % 128 = 0 → (w.s c).toNat % 16 ≠ 0 →
      MatrixFails b w (.ldstat p a k t true c) 0x04 (BitVec.ofNat 64 (w.s c).toNat)
  | beyond (p a k t m c) : (w.s a).toNat % 128 = 0 → (m = true → (w.s c).toNat % 16 = 0) → b.scratch.size < (w.s a).toNat + matrixBytes t k 32 →
      MatrixFails b w (.ldstat p a k t m c) 0x03 (BitVec.ofNat 64 (max (w.s a).toNat b.scratch.size))
  | metaBeyond (p a k t c) : (w.s a).toNat % 128 = 0 → (w.s c).toNat % 16 = 0 → (w.s a).toNat + matrixBytes t k 32 ≤ b.scratch.size →
      b.scratch.size < (w.s c).toNat + storedElems t k / 4 →
      MatrixFails b w (.ldstat p a k t true c) 0x03 (BitVec.ofNat 64 (max (w.s c).toNat b.scratch.size))
  | slot {i zs a n} (z) : streamForm i = some (zs, a, n) → z ∈ zs → b.tiles.length ≤ z → (∀ y ∈ zs, y < z → y < b.tiles.length) →
      MatrixFails b w i 0x03 (BitVec.ofNat 64 z)
  | stream {i zs a n c x} : streamForm i = some (zs, a, n) → (∀ z ∈ zs, z < b.tiles.length) → operandFails b.scratch.size (w.s a).toNat n c x →
      MatrixFails b w i c x
  | token {i zs a n} (z) : streamForm i = some (zs, a, n) → (∀ y ∈ zs, y < b.tiles.length) → (w.s a).toNat % 128 = 0 →
      (w.s a).toNat + n ≤ b.scratch.size → z ∈ zs → (b.tile z).matrix = false → (∀ y ∈ zs, y < z → (b.tile y).matrix = true) →
      MatrixFails b w i 0x08 (BitVec.ofNat 64 z)

/-- The wave on the issue port is the last of its gang at the rendezvous latch: the members of its group that have not ended are different waves of its
block, none is taken, and each of the others has its word there (R252). -/
structure Gathered (s : State) (w : Wave) (i : Instr) (g : Nat) : Prop where
  gang : w.gang = some g
  room : w.counter .m < 63
  waves : (s.gangMembers w.block g).Nodup
  member : s.issuing ∈ s.gangMembers w.block g
  present : ∀ j ∈ s.gangMembers w.block g, j < s.waves.length ∧ (s.wave j).block = w.block ∧ (s.wave j).taken = false ∧
    (j ≠ s.issuing → ∃ e ∈ (s.blockOf w).latch, e.group = g ∧ e.wave = j)
  own : ∀ e ∈ (s.blockOf w).latch, e.group = g → e.wave = s.issuing → e.word = i ∧ e.dep = w.hints.dep

/-- The words at the latch of a group are the word that issues, with its HINT.DEP (R252). -/
def AllSame (s : State) (w : Wave) (i : Instr) (g : Nat) : Prop := ∀ e ∈ (s.blockOf w).latch, e.group = g → e.word = i ∧ e.dep = w.hints.dep

/-- Each member of the gang enters its handler with a cause and its own EXEC, and no member's word is left at the latch; of the waves as they were,
SF alone may have risen (R198, R252). -/
def EachTraps (s t : State) (w : Wave) (g : Nat) (c : BitVec 8) (x : Word64) : Prop :=
  SameMemory s t ∧ (∀ e ∈ (t.block w.block).latch, e.group ≠ g) ∧
  ∀ j ∈ s.gangMembers w.block g, Entered { s.wave j with sf := (t.wave j).sf } (t.wave j) (s.launchOf w).desc.trapVec ⟨c, (s.wave j).exec, x⟩

/-- The word of a tile that lane `l` of the `k`-th register names for a row: two registers a row at W = 16, two rows a register at W = 64
(R248). -/
def tileWord (width row k l : Nat) : Nat :=
  if width = 16 then 32 * row + 16 * k + l else if width = 32 then 32 * row + l else 32 * ((row + l / 32) % 32) + l % 32

/-- The tile forms on a slot, whether they name it for its vector side, and P (R377 to R381). -/
def tileForm : Instr → Option (ZReg × Bool)
  | .zzero _ z | .zrd _ z _ _ | .zwr _ z _ _ | .zld _ z _ | .zst _ z _ => some (z, true)
  | .zgive _ z | .ztake _ z => some (z, false)
  | _ => none

/-- A K-class operation has entered the core's rank engine, counted on K; nothing else of the wave has changed (R262). -/
def RankEntered (s t : State) (w v : Wave) (k : RankKind) (more : List Pending) : Prop :=
  t.waves = s.waves.set s.issuing v ∧ v.outK = w.outK ++ [s.nextOp] ∧ t.nextOp = s.nextOp + 1 ∧
  { v.regs with outK := w.outK, pending := w.pending, recent := w.recent } = w.regs ∧ v.pending = w.pending ++ more ∧ (v.cur = w.cur →
    v.pc = w.pc + 4) ∧
  (t.core (s.coreOf w)).rankq = (s.core (s.coreOf w)).rankq ++ [RankOp.mk s.nextOp s.issuing w.block k] ∧ t.mem = s.mem ∧ t.blocks = s.blocks

/-- A scratchpad operand of a rank word: aligned to 128 and inside the allocation. -/
def rankOperand (s : State) (w : Wave) (a n : Nat) : Prop := a % 128 = 0 ∧ a + n ≤ (s.blockOf w).scratch.size

/-- The bits of an element of a register: the low half of a 16-bit type (R137, R258). -/
def rankBits (t : RType) (x : Word) : Word :=
  match t with
  | .f16 | .bf16 => BitVec.ofNat 32 (x.toNat % 65536)
  | .f32 | .i32 => x

/-- The gate lets an element pass: unless it is a NaN, the element is above it (R258). -/
def passes (gate : Word) (t : RType) (x : Word) : Prop := Fmt.f32.decode gate.toNat = .nan ∨ below (Fmt.f32.decode gate.toNat) (rankValue t x) = true

/-- An element counts as a number. -/
def isNumber (e : RankElem) : Prop := rankValue e.type e.bits ≠ .nan

/-- The order of the network: a larger value first, and of equal values the lower index (R259). -/
def rankFirst (a b : RankElem) : Prop :=
  FVal.cmp (rankValue a.type a.bits) (rankValue b.type b.bits) = some .gt ∨
  (FVal.cmp (rankValue a.type a.bits) (rankValue b.type b.bits) = some .eq ∧ a.index ≤ b.index)

/-! ### Events -/

/-- SCC of a fragment of a wave, current or not (R39). -/
def sccOf (w : Wave) (e : Nat) : Bool := if e = w.cur then w.scc else (w.fragAt e).scc

/-- No store is on its way, nothing is pinned, and no remote cache holds a line: engines and events read what memory holds (R173, R187). -/
structure Still (s : State) : Prop where
  requests : s.reqs = []
  pins : ∀ c ∈ s.cores, c.pins = []
  remote : ∀ t ∈ s.towers, t.remote = []

/-- A wait on a word is met, where no store is on its way (R62, R371). -/
def waitMet (s : State) (w : Wave) : WaitFor → Prop
  | .waita c y .scratch a _ _ => meets c (wordOf (s.blockOf w).scratch.get a) y
  | .waita c y .global a key _ => meets c (wordOf (s.peekBy key) a) y
  | .waitbit a b key _ => b < 64 ∧ (s.peekBy key (a + b / 8)).getLsbD (b % 8) = true
  | .rearm .. | .bar .. | .waitb .. | .waitc .. => False

/-- A wait on a word, and its time limit (R62, R371). -/
def wordWait : WaitFor → Option Nat
  | .waita _ _ _ _ _ t | .waitbit _ _ _ t => some t
  | .rearm .. | .bar .. | .waitb .. | .waitc .. => none

/-- The next byte but `k` that a copy moves is `b`: of the scratchpad, of memory through the key of its page, or as of the stamp of a CPYAS, whose
home's count has passed it (R163, R224, R302 to R306). -/
def CopyByte (s : State) (c : CopyOp) (k : Nat) (b : Byte) : Prop :=
  let a := (c.sources (c.n - c.moved)).getD k 0
  let key := keyIn c.map (a / 65536)
  if c.kind = 1 then b = (s.block c.block).scratch.get (c.src + c.moved + k)
  else if c.kind = 4 then c.stamp.toNat / 4 < (s.tower (homeOf a)).count ∧ ReadsBack s s.seals key a ∧
    ∃ kp img, s.keepOf a = some kp ∧ AsOf s kp (lineOf a) c.stamp img key a ∧ b = img (a - lineOf a)
  else b = s.peekBy key a

/-- Memory after a write of bytes to distinct physical addresses through the keys of a page map: each address reads its byte, each other one through
its key as before, and blocks that the write does not meet hold what they held (R163). -/
def Wrote (s t : State) (m : List PageUse) (as : List Nat) (f : Nat → Byte) : Prop :=
  as.Nodup → (∀ k, k < as.length → t.peekBy (keyIn m (as.getD k 0 / 65536)) (as.getD k 0) = f k) ∧
  (∀ a, a ∉ as → t.peekBy (keyIn m (a / 65536)) a = s.peekBy (keyIn m (a / 65536)) a) ∧
  ∀ a, (∀ x ∈ as, x / 16 ≠ a / 16) → t.peek a = s.peek a

/-- A vector of a descriptor that REJECT_CYCLE refuses (R7, R53). -/
def cyclic (v : Int × Int × Int) : Prop :=
  v.1 = -16 ∨ v.2.1 = -16 ∨ v.2.2 = -16 ∨ 0 < v.2.2 ∨ (v.2.2 = 0 ∧ (0 < v.2.1 ∨ (v.2.1 = 0 ∧ 0 ≤ v.1)))

/-- A launch that a descriptor of the function may name as upstream (R59). -/
def mayFollow (s : State) (f u : Nat) : Prop :=
  (s.launch u).func = f ∧ (s.launch u).accepted = true ∧ (s.launch u).desc.cbmp ≠ 0 ∧
  ((List.range s.launches.length).filter fun i => u ≤ i && (s.launch i).func == f && (s.launch i).accepted).length ≤ 4096

/-- The status that the checks of a descriptor give, in the order of R53; an accepted launch has its group table and its upstream. -/
def Checked (s : State) (f q : Nat) (d : Desc) (l : Launch) : Prop :=
  let follows := d.ups = true → ∃ u, s.upstreamSeq f q d = some u ∧ mayFollow s f u
  let writable := d.cbmp ≠ 0 → s.sysOk f d.cbmp d.bitmapBytes true = true
  let room := s.partition f ≠ [] ∧ (d.cores = true → d.total ≤ (s.partition f).length * d.perCore)
  (d.badFlags s f = true → l.status = .rejFlags) ∧
  (d.badFlags s f = false →
    (d.badShape = true → l.status = .rejShape) ∧
    (d.badShape = false →
      (s.readGroups f d = none → l.status = .rejGroups) ∧
      ∀ ms, s.readGroups f d = some ms →
        ((∃ v ∈ d.depv, cyclic v) → l.status = .rejCycle) ∧
        ((∀ v ∈ d.depv, ¬ cyclic v) →
          (¬ follows → l.status = .rejUpstream) ∧
          (follows → ¬ writable → l.status = .rejAddr) ∧
          (follows → writable → ¬ room → l.status = .rejCores) ∧
          (follows → writable → room → l.status = .accepted ∧ l.members = ms ∧ l.upstream = if d.ups then s.upstreamSeq f q d else none))))

/-- A function's registers but for some of them are as before, and so is every other function. -/
def OnlyFunc (s t : State) (f : Nat) : Prop := (∀ g, g ≠ f → t.func g = s.func g) ∧ t.mem = s.mem ∧ t.waves = s.waves ∧ t.blocks = s.blocks

/-- The first wave state of R33 and R220: at the entry, all lanes active in one fragment, with the arguments in s2 and s3. -/
def FirstState (s : State) (l : Launch) (w : Wave) (b k p0 : Nat) : Prop :=
  w.block = b ∧ w.index = k ∧ w.part = (p0 + k) % 4 ∧ w.width = l.desc.width ∧ w.pc = BitVec.ofNat 52 l.desc.entry ∧ w.scc = false ∧
  w.exec = w.lanes ∧ w.cur = 0 ∧ (w.fragAt 0).state = .live ∧ (w.fragAt 0).mask = w.lanes ∧ (∀ e, 0 < e → (w.fragAt e).state = .free) ∧
  w.s64 2 = l.desc.args ∧ w.sf.toNat = max (s.func l.func).floor.toNat s.countQuery.toNat ∧ w.pending = [] ∧ w.inTrap = false ∧
  w.quantum = 32 ∧ w.outC = [] ∧ w.outM = [] ∧ w.outK = [] ∧ w.outD = [] ∧ (∀ r : MReg, r ≠ 0 → w.m r = 0)

/-- What a register write of BAR0 gives the function (R11, R49, R70, R229, R275, R276, R280, R284 to R288): the register holds the fields of the
value, and status bits that are written 1 clear. -/
def Holds (t : State) (f : Nat) (before : Func) (v : Word64) : BarReg → Prop
  | .qbase q => q < before.queues.length → (t.queue f q).base = v.toNat / 128 % 2 ^ 45
  | .fage => (t.func f).fage = v.setWidth 32
  | .fsaveb => (t.func f).saveBase = v.toNat / 65536 % 2 ^ 36
  | .fsaves => (t.func f).saveSize = v.toNat % 65536
  | .fhwmin => (t.func f).hwmin = v.toNat % 2 ^ 62
  | .fhctl => (t.func f).hownEn = v.getLsbD 0
  | .fhstat => (t.func f).hStall = (before.hStall && !v.getLsbD 2) ∧ (t.func f).hBreach = (before.hBreach && !v.getLsbD 1)
  | .fptroot => (t.func f).ptRoot = v.toNat / 65536 % 2 ^ 36 ∧ (t.func f).ptEn = v.getLsbD 0
  | .fmemb => (t.func f).memBase = v.toNat / 65536 % 2 ^ 36
  | .fmems => (t.func f).memSize = v.toNat % 2 ^ 32
  | .fpeer => (t.func f).peers = v.setWidth 16
  | .fcntsel i => i < before.cntSel.length → (t.func f).cntSel.getD i 0 = v.setWidth 32 &&& 0xC00000FF
  | .fcntval i => i < before.cntVal.length → (t.func f).cntVal.getD i 0 = v.toNat % 2 ^ 48
  | .fcntovf => ∀ i, i < 8 → (t.func f).cntOvf.getLsbD i = (before.cntOvf.getLsbD i && !v.getLsbD i)
  | .fdbg => (t.func f).fdbg = v.setWidth 32 &&& 0xFFC4
  | .fdbgbuf => (t.func f).dbgBuf = v.toNat / 4096 % 2 ^ 40
  | .fsamp => (t.func f).samp = v.toNat % 2 ^ 32
  | .fsampbuf => (t.func f).sampBuf = v.toNat % 2 ^ 52 ∧ (t.func f).sampIdx = 0
  | .freplay => (t.func f).replay = v.toNat % 4 ∧ (t.func f).replayIdx = 0 ∧ (t.func f).replayMiss = []
  | .freplaybuf => (t.func f).replayBuf = v.toNat % 2 ^ 52
  | .fattn i => i < before.attn.length → (t.func f).attn.getD i 0 = v
  | .hcwb => t.hcwBase = v.toNat / 65536 % 2 ^ 36
  | .hcws => t.hcwSize = v.toNat % 2 ^ 32
  | .keydata i => i < t.keyData.length → t.keyData.getD i 0 = v

/-- The registers of BAR0 that only the PF writes (R49, R208, R229, R275, R278). -/
def onlyByPF : BarReg → Bool
  | .fage | .fsaveb | .fsaves | .fhwmin | .fhctl | .fmemb | .fmems | .fpeer | .hcwb | .hcws | .keydata _ => true
  | _ => false

/-- What an access from outside needs to be answered: the function's own memory, presented, a key, and nothing that waits or is pinned (R187, R231,
R272, R278, R279). -/
structure Reachable (s : State) (f a n : Nat) : Prop where
  own : s.owns f a n = true
  presented : s.presents f = true
  answers : a + n ≤ Config.memoryBytes
  key : s.outsideKey f = true
  still : Still s
  free : Unregistered s

/-- The context of a wave that an eviction saves and a restoration brings back (R209, R210), but for what waits have seen of a store event. -/
def SameContext (a b : Wave) : Prop :=
  a.sregs = b.sregs ∧ a.vregs = b.vregs ∧ a.mregs = b.mregs ∧ a.pc = b.pc ∧ a.scc = b.scc ∧ a.cur = b.cur ∧ (unseen a).frags = (unseen b).frags ∧
  a.hints = b.hints ∧ a.rank = b.rank ∧ a.srState = b.srState ∧ a.inTrap = b.inTrap ∧ a.savExec = b.savExec

/-- The value that RKREC writes for an index: the palette's at the lowest rank of the code whose index it is, rounded to a 16-bit type, else +0; a code
ends at its first empty entry (R261, R268). -/
def Recalled (y : PType) (pal : List Word) (f : Nat → Byte) (a i : Nat) (x : Word) : Prop :=
  let code := fun r => (f (a + 2 * r + 1) ++ f (a + 2 * r)).toNat
  let here := fun r => r < 64 ∧ (∀ q, q ≤ r → code q < 0x8000) ∧ code r % 4096 = i
  (∀ r, here r → (∀ q, q < r → ¬ here q) → x = match y with
    | .f32 => pal.getD r 0
    | .f16 => BitVec.ofNat 32 (Fmt.f16.round .rne 0 (Fmt.f32.decode (pal.getD r 0).toNat))
    | .bf16 => BitVec.ofNat 32 (Fmt.bf16.round .rne 0 (Fmt.f32.decode (pal.getD r 0).toNat))) ∧
  ((∀ r, ¬ here r) → x = 0)

/-- A home's share of a function's log is full: it has no room for a record, or for those of a word that waits (R231). -/
def shareFull (s : State) (f n : Nat) : Prop :=
  s.logRoom f n 1 = false ∨ ∃ i lines, i < s.waves.length ∧ (s.wave i).ended = false ∧ (s.wave i).stall = .log lines ∧ s.shortLines f n lines = true

/-- A launch takes a level, and nothing else of it changes; the level before acts until the present core cycle of a core is over (R71). -/
def Relevels (s : State) (l l' : Launch) (v : Nat) : Prop :=
  l' = { l with lvl := v, lvlWas := l'.lvlWas } ∧ ∀ c, dieOf c < s.dies.length → (∀ x, l.lvlWas[dieOf c]? = some x → x.1 ≤ s.cycle c) →
    s.levelOn l' c = s.levelOn l c ∧ ∀ u : State, s.cycle c < u.cycle c → u.levelOn l' c = v

/-! ### Words of the spec -/

/-- Words written out bit by bit from the formats of R83 and the code tables of R104 to R117, with the instruction each stands for; four are
those of "Decoding by hand". -/
def specWords : List (Word × Instr) := [
  (0b00000000000000000000000000000000, .nop false),  -- SYS: P 0, MAJ 0x00, s 0, c 0, imm9 0, fn 0
  (0b10000000001010110000000000000110, .getc true 5 24),  -- SYS: P 1, s 5, c 24, fn 6
  (0b00000010001010110000000000000000, .hintOrd .acq .dv),  -- HINT: kind 1, order 1, scope 3
  (0b10000100011011000000000000000001, .br .any 3 1),  -- BR: P 1, cc 3, m 3, off18 1
  (0b10001001111111111111111111111110, .call 0x1FFFFFE),  -- J: P 1, MAJ 0x04, off25 -2
  (0b10001101110100000000000000000000, .jmpi 58),  -- JIND: P 1, s pair 58, fn 0
  (0b10001110100000000000000000000111, .split 2 7),  -- SPL: P 1, m 2, off22 7
  (0b00010001100000011000000011000000, .fence false 0xC0 0xC0 .dv),  -- FEN: the word 0x118180C0 of Decoding by hand
  (0b00010010000110000010000100000000, .sadd false 3 1 2),  -- SR: MAJ 0x09, sd 3, sa 1, sb 2, fn 0
  (0b10010110001100001100001100000000, .saddi true 6 6 0x300),  -- SI: MAJ 0x0B, sd 6, sa 6, fn 0, imm10 -256
  (0b00011010001001101010111100000000, .slui false 4 0x1ABC),  -- SL: MAJ 0x0D, sd 4, imm13
  (0b00011100010100110000000000000000, .mand false 1 2 3),  -- MK: md 1, ma 2, mb 3, fn 0
  (0b00011110010000001000001000100000, .vcmp false 1 1 2 .lt .i32),  -- VC: the word 0x1E408220 of Decoding by hand
  (0b00100001100100000000111111110000, .vadd false 100 1 127),  -- VR: MAJ 0x10, vd 100, va 1, vb 127, fn 0
  (0b10100100001001000100011111100000, .vaddS true 9 8 63),  -- VS: MAJ 0x12, vd 9, va 8, sb 63, fn 0
  (0b00100110000111000000011110000000, .vli false 7 0x80),  -- VI: MAJ 0x13, vd 7, va 0, fn 7, imm8 -128
  (0b00101000000001000001000000111010, .vsel false 1 2 3 5),  -- VSEL: vd 1, va 2, vb 3, m 5
  (0b00101100000010000010000001100011, .vfma false .f64 2 4 6),  -- VR: MAJ 0x16, vd 2, va 4, vb 6, fn 3
  (0b10110100000011000010100101000000, .vsqrt true 3 5 .h2),  -- SFU: vd 3, va 5, fn 2, type 2
  (0b00110110000110000001010000100001, .vcvt false 6 2 .e4m3 .f32 .dyn true),  -- VCVT: the word 0x36181421 of Decoding by hand
  (0b00111000000001000001000010000000, .vpack4 false 1 2 .pow2),  -- VBLK: vd 1, va 2, fn 0, block type 2
  (0b00111010000001000001000000110000, .vshfl false 1 2 3),  -- VR: MAJ 0x1D, vd 1, va 2, vb 3, fn 0
  (0b10111100000100001000000100110011, .ld true 4 8 9 .b128 .el),  -- M: MAJ 0x1E, v 4, s pair 8, vo 9, size 4, cache 3
  (0b01001010000001000010000001101010, .atom false 1 2 3 .fadd32),  -- A: MAJ 0x25, v 1, s pair 2, vo 3, aop 0x0A
  (0b01001110000010000100000010100100, .lr false 2 4 5 .b64),  -- LRSC: v 2, s pair 4, vo 5, fn 0, size 1
  (0b11010010000110010000000000000000, .bar true 200),  -- SYNC: fn 0, g 200
  (0b01010100100000000000000000000000, .cpyG2s false 16),  -- CPY: descriptor base 16, kind 0
  (0b01010111000010000000000000000000, .take false 33),  -- TAKE: sa 33
  (0b01011000010100000011001000100000, .mma false 2 (.m32, .k1) .bf16 8 true false),  -- MMA: the word 0x58503220 of Decoding by hand
  (0b01011110001111100101000000000000, .zld false 15 10),  -- ZOP: fn 1, z 15, s 10
  (0b01100000001000101000011011111110, .rank false 8 .n4 .bf16 6 63 true false),  -- RANK: va 8, nreg 2, type 2, sd 6, cutoff 64, cont 1, gate 0
  (0b01100011110011000000000000000000, .ldpal false 7 12)]  -- PAL: pal 7, sa 12, fn 0

/-- Words that are no instruction, with the reason of R98: the last three of "Decoding by hand", a major above 0x31, a nonzero unused field, an odd
scalar pair, and a hint with P = 1. -/
def notWords : List (Word × Reason) := [(0x1E4082A0, .reserved), (0x58501230, .reserved), (0x04000000, .park), (0x64000000, .reserved),
  (0x00000010, .field), (0x8C080000, .align), (0x82000000, .field)]

end Sys2Proof.Claims

open Sys2Proof Sys2Proof.Machine

/-! ### Arithmetic -/

/-- R326, R227, R336, R337, R340, R345, R346: a scalar form writes the value of its operation, or SCC its comparison, or a pair with its even
register first; the next word follows. -/
def Obligations.ScalarResults : Prop :=
  ∀ (s : State) (w : Wave) (i : Instr) (p : Bool), s.cur = some w →
    (∀ d o x y, Claims.scalarForm w i = some (p, d, o, x, y) → exec i s = .next (s.setCur ((w.setS d (o.eval x y)).step p))) ∧
    (∀ d x, Claims.scalarOther w i = some (p, d, x) → exec i s = .next (s.setCur ((w.setS d x).step p))) ∧
    (∀ d x, Claims.pairForm w i = some (p, d, x) →
      exec i s = .next (s.setCur (((w.setS d (x.setWidth 32)).setS (d + 1) ((x >>> 32).setWidth 32)).step p))) ∧
    (∀ b, Claims.compareForm w i = some (p, b) → exec i s = .next (s.setCur ({ w with scc := b }.step p)))

/-- R86, R336: a write to a scalar register is what the next read of it gives and no other register changes; s0 reads 0 whatever is written.
The premise is one that every wave of the machine meets. -/
def Obligations.ScalarRegisters : Prop :=
  ∀ (w : Wave) (d r : SReg) (x : Word), w.Ok →
    (w.setS d x).s r = if r = 0 then 0 else if r = d then x else w.s r

/-- R326, R327, R30: a mask form writes each lane's bit below W, and to m0 only lanes of the current fragment's MASK; MFF1 writes the number of
the lowest lane set, or all ones where none is. -/
def Obligations.MaskResults : Prop :=
  ∀ (s : State) (w : Wave) (p : Bool), s.cur = some w → w.Ok →
    (∀ (i : Instr) (d : MReg) (f : Nat → Bool), Claims.maskForm w i = some (p, d, f) → ∃ u : Wave,
      exec i s = .next (s.setCur (u.step p)) ∧ u = { w with mregs := u.mregs } ∧
      (∀ r : MReg, r ≠ d → u.m r = w.m r) ∧
      ∀ l, (u.m d).getLsbD l = (decide (l < w.width) && (d != 0 || w.frag.mask.getLsbD l) && f l)) ∧
    (∀ (a : MReg) (d : SReg), ∃ x : Word, exec (.mff1 p a d) s = .next (s.setCur ((w.setS d x).step p)) ∧
      (w.m a = 0 → x = 0xFFFFFFFF) ∧
      (w.m a ≠ 0 → (w.m a).getLsbD x.toNat = true ∧ ∀ l, l < x.toNat → (w.m a).getLsbD l = false))

/-- R358, R359, R360, R361, R369: a vector integer form writes its operation's value, to a register or a pair, in the lanes of EXEC. R31, R353,
R5: after such a write a lane of EXEC of the register reads the value back, of a pair its low word in the first register and its high word in the
next one; every other lane and register reads as before; a register at or above V discards the write and reads 0. -/
def Obligations.VectorResults : Prop :=
  (∀ (w : Wave) (d : VReg) (f : Nat → Word) (g : Nat → Word64) (r l : Nat), w.Ok →
    (w.vregs.length ≤ r → w.vn r l = 0 ∧ (w.setV d f).vn r l = 0 ∧ (w.setV64 d g).vn r l = 0) ∧
    (r < w.vregs.length → l < w.width →
      (w.setV d f).vn r l = (if w.exec.getLsbD l = true ∧ r = d.toNat then f l else w.vn r l) ∧
      (w.setV64 d g).vn r l = (if w.exec.getLsbD l = true ∧ r = d.toNat then (g l).setWidth 32
        else if w.exec.getLsbD l = true ∧ r = d.toNat + 1 then (g l >>> 32).setWidth 32 else w.vn r l))) ∧
  ∀ (s : State) (w : Wave) (i : Instr) (p : Bool) (d : VReg), s.cur = some w →
    (∀ o x y, Claims.vectorForm w i = some (p, d, o, x, y) → exec i s = .next (s.setCur ((w.setV d fun l => o.eval (x l) (y l)).step p))) ∧
    (∀ x, Claims.vectorOther w i = some (p, d, x) → exec i s = .next (s.setCur ((w.setV d x).step p))) ∧
    (∀ x, Claims.vectorPair w i = some (p, d, x) → exec i s = .next (s.setCur ((w.setV64 d x).step p)))

/-- R358: VBREV reverses the bits; VBFE takes the y[13:8] bits, at most 32, from bit y[4:0] on; VBFI puts them there. -/
def Obligations.VectorBitFields : Prop :=
  ∀ (s : State) (w : Wave) (p : Bool) (d a b : VReg), s.cur = some w → ∃ f g h : Nat → Word,
    exec (.vbrev p d a) s = .next (s.setCur ((w.setV d f).step p)) ∧
    exec (.vbfe p d a b) s = .next (s.setCur ((w.setV d g).step p)) ∧
    exec (.vbfi p d a b) s = .next (s.setCur ((w.setV d h).step p)) ∧
    ∀ l k, k < 32 →
      let pos := (w.v b l).toNat % 32
      let len := min ((w.v b l).toNat / 256 % 64) 32
      (f l).getLsbD k = (w.v a l).getLsbD (31 - k) ∧
      (g l).getLsbD k = (decide (k < len) && (w.v a l).getLsbD (k + pos)) ∧
      (h l).getLsbD k = if pos ≤ k ∧ k < pos + len then (w.v a l).getLsbD (k - pos) else (w.v d l).getLsbD k

/-- R108, R148, R363: VCMP sets the lanes of EXEC in which the condition holds, for each legal pair of condition and type, and clears the others. -/
def Obligations.VectorComparisons : Prop :=
  ∀ (s : State) (w : Wave) (p : Bool) (d : MReg) (a b : VReg) (c : VCond) (t : VType), s.cur = some w → w.Ok → ∃ x : Mask,
    exec (.vcmp p d a b c t) s = .next (s.setCur ((w.setM d x).step p)) ∧
    ∀ l, (w.exec.getLsbD l = false → x.getLsbD l = false) ∧
      ∀ v, w.exec.getLsbD l = true → Claims.compares w c t a b l = some v → x.getLsbD l = v

/-- R366, R367, R137, R141, R144, R145, R146: in F32, F64 and each element of the packed types a lane of EXEC holds the exact result of its
operation rounded once. The sum and the product of finite values are exact; and a finite value between the codes `c` and `c + 1` of a format goes
to one of them as the mode says, to the table of overflows where that code is no finite one. -/
def Obligations.FloatResults : Prop :=
  (∀ (s : State) (w : Wave) (i : Instr) (p : Bool) (k : FMaj) (d : VReg) (x y : Nat → Word64),
    s.cur = some w → Claims.floatForm w i = some (p, k, d, x, y) → ∃ f : Nat → Word64,
      exec i s = .next (s.setCur ((if k = .f64 then w.setV64 d f else w.setV d fun l => (f l).setWidth 32).step p)) ∧
      ∀ l, ∀ g ∈ Claims.parts k,
        Claims.floatOp g.1 (Claims.plainMode w none) (g.2 (x l)) (g.2 (y l)) (g.2 (Claims.operand w k d l)) i = some (g.2 (f l))) ∧
  (∀ (mode : RMode) (na nb : Bool) (ma mb : Nat) (ea eb : Int), let k := min ea eb
    (∃ n m e, FVal.add mode (.fin na ma ea) (.fin nb mb eb) = .fin n m e ∧
      let sum := Claims.signed na (ma * 2 ^ (ea - k).toNat) + Claims.signed nb (mb * 2 ^ (eb - k).toNat)
      (sum ≠ 0 → e = k ∧ Claims.signed n m = sum) ∧ (sum = 0 → m = 0 ∧ n = if na = nb then na else decide (mode = .rdn))) ∧
    FVal.mul (.fin na ma ea) (.fin nb mb eb) = .fin (na != nb) (ma * mb) (ea + eb)) ∧
  (∀ (f : Fmt) (mode : RMode) (draw : Nat) (neg : Bool) (m c : Nat) (e : Int),
    f ∈ [Fmt.f64, Fmt.f32, Fmt.f16, Fmt.bf16, Fmt.e5m2, Fmt.e4m3] →
    let k := min e (1 - (f.bias : Int) - f.fbits)
    let x := m * 2 ^ (e - k).toNat
    let lo := Claims.magnitude f k c
    let hi := Claims.magnitude f k (c + 1)
    (c ≤ f.maxCode → lo ≤ x → x < hi → let n := if x ≠ lo ∧ Claims.goesUp mode neg draw c x lo hi = true then c + 1 else c
      f.round mode draw (.fin neg m e) = if f.maxCode < n then Claims.overflowed f mode neg else f.withSign neg n) ∧
    (Claims.magnitude f k (f.maxCode + 1) ≤ x → f.round mode draw (.fin neg m e) = Claims.overflowed f mode neg))

/-- R365, R137, R142, R143, R150, R151: a conversion from or to a floating-point type writes the value converted in its mode, to a register or a
pair; a lane draws where stochastic rounding applies, and only there. -/
def Obligations.FloatConversions : Prop :=
  ∀ (s : State) (w : Wave) (p : Bool) (d a : VReg) (t u : CvtType) (r : CvtRnd) (sat : Bool), s.cur = some w →
    CvtType.intType t = none ∨ CvtType.intType u = none →
    let mode := Claims.modeOf w (Claims.fieldMode r)
    let wide := fun q => q = CvtType.i64 ∨ q = .ui64 ∨ q = .f64
    let drawn := mode = .sr ∧ (t = .f16 ∨ t = .bf16 ∨ t = .e4m3 ∨ t = .e5m2)
    ∃ (v : Wave) (f : Nat → Word64), exec (.vcvt p d a t u r sat) s = .next (s.setCur (v.step p)) ∧
      (wide t → { v with srState := w.srState } = w.setV64 d f) ∧
      (¬ wide t → { v with srState := w.srState } = w.setV d fun l => (f l).setWidth 32) ∧
      (∀ l, l < w.srState.length → (drawn ∧ w.exec.getLsbD l = true → v.srState.getD l 0 = Claims.nextDraw (w.srState.getD l 0)) ∧
        (¬ (drawn ∧ w.exec.getLsbD l = true) → v.srState.getD l 0 = w.srState.getD l 0)) ∧
      ∀ l, let go := fun x => Claims.converted t u mode sat (Claims.nextDraw (w.srState.getD l 0)).toNat x
        (wide u → f l = go (w.v64 a l).toNat) ∧ (¬ wide u → f l = go (w.v a l).toNat)

/-- R141, R145: rounding a value that the format holds gives its code back, in every mode; so no operation disturbs an exact result. -/
def Obligations.RoundingIsExactOnFormat : Prop :=
  ∀ (f : Fmt) (mode : RMode) (draw x : Nat), f ∈ [Fmt.f64, Fmt.f32, Fmt.f16, Fmt.bf16, Fmt.e5m2, Fmt.e4m3] → x < 2 * f.signBit →
    f.decode x ≠ .nan → f.round mode draw (f.decode x) = x

/-- R147: minimumNumber and maximumNumber. With one NaN the other operand, with two the canonical NaN; else the smaller or the larger, and of
the two zeros -0 is the smaller. -/
def Obligations.MinMaxNumbers : Prop :=
  ∀ (f : Fmt) (m : Bool) (a b : Nat),
    (f.decode a = .nan → f.decode b = .nan → f.pick m a b = f.nanCode) ∧
    (f.decode a = .nan → f.decode b ≠ .nan → f.pick m a b = b) ∧
    (f.decode a ≠ .nan → f.decode b = .nan → f.pick m a b = a) ∧
    (FVal.cmp (f.decode a) (f.decode b) = some .lt → f.pick m a b = if m then b else a) ∧
    (FVal.cmp (f.decode a) (f.decode b) = some .gt → f.pick m a b = if m then a else b) ∧
    (∀ e e', f.decode a = .fin true 0 e → f.decode b = .fin false 0 e' → f.pick false a b = a ∧ f.pick true a b = b ∧
      f.pick false b a = a ∧ f.pick true b a = b) ∧
    ∀ (s : State) (w : Wave) (p : Bool) (d x y : VReg), s.cur = some w →
      let i := fun k => if m then Instr.vfmax p k d x y else .vfmin p k d x y
      let two := fun g : Fmt => Host.Outcome.next (s.setCur ((w.setV d fun l => BitVec.ofNat 32 (g.pick m ((w.v x l).toNat % 65536) ((w.v y l).toNat % 65536) +
        65536 * g.pick m ((w.v x l).toNat / 65536) ((w.v y l).toNat / 65536))).step p))
      exec (i .f32) s = .next (s.setCur ((w.setV d fun l => BitVec.ofNat 32 (Fmt.f32.pick m (w.v x l).toNat (w.v y l).toNat)).step p)) ∧
      exec (i .f64) s = .next (s.setCur ((w.setV64 d fun l => BitVec.ofNat 64 (Fmt.f64.pick m (w.v64 x l).toNat (w.v64 y l).toNat)).step p)) ∧
      exec (i .h2) s = two .f16 ∧ exec (i .b2) s = two .bf16

/-- R149: conversion between integer types, of any width and signedness: the value modulo 2^width, or clamped. R137: of a narrow destination the
register's bits above the element hold its sign for I8 and I16 and are zero for the unsigned types. -/
def Obligations.IntegerConversion : Prop :=
  ∀ (t u : CvtType) (mode : RMode) (draw x n k : Nat) (sg su : Bool), CvtType.intType t = some (n, sg) → CvtType.intType u = some (k, su) →
    intOf n sg (convert t u mode false draw x).toNat = intOf n sg (intOf k su x % 2 ^ n).toNat ∧
    intOf n sg (convert t u mode true draw x).toNat = max (intMin n sg) (min (intOf k su x) (intMax n sg)) ∧
    (∀ sat, n < 64 → let y := convert t u mode sat draw x
      (sg = true → (y.setWidth 32).toInt = intOf n sg y.toNat) ∧ (sg = false → ((y.setWidth 32).toNat : Int) = intOf n sg y.toNat)) ∧
    ∀ (s : State) (w : Wave) (p : Bool) (d a : VReg) (r : CvtRnd) (sat : Bool), s.cur = some w → ∃ (m : RMode) (dr : Nat → Nat),
      let f := fun l => convert t u m sat (dr l) (if k = 64 then (w.v64 a l).toNat else (w.v a l).toNat)
      exec (.vcvt p d a t u r sat) s =
        .next (s.setCur ((if n = 64 then w.setV64 d f else w.setV d fun l => (f l).setWidth 32).step p))

/-- R91, R353, R366 and the rest: a short-class computing form always answers a next state, in which only its destination, only in lanes of
EXEC, has changed; all else of the machine, memory among it, is as before. The premise says that no fusion is due, which R41 has for every
wave that issues. -/
def Obligations.ShortFormsFrame : Prop :=
  ∀ (s : State) (w : Wave) (i : Instr) (p : Bool) (d : Claims.Dst),
    s.cur = some w → w.fuseDue = none → Claims.shortForm i = some (p, d) → ∃ v : Wave,
      exec i s = .next (s.setCur v) ∧ Claims.Leaves w v d ∧ (Claims.draws i = false → v.srState = w.srState) ∧
      ∀ a, (s.setCur v).peek a = s.peek a

/-! ### The end of a word, fragments, and branches -/

/-- R43, R301, R356: a wave leaves its fragment at the end of a word only outside a handler, with no outstanding result, where a switch was due or
a P = 1 word reaches the quantum, or is the 16th or a later word after an LR that deferred the switch; and it continues at the next LIVE entry in
rotation, leaving PC, EXEC and SCC in the entry it leaves. A switch that falls due at an LR waits for the SC or for 16 words, one at a CALL for
the word after, and while a fragment of the wave has issued a TRAMP and not yet its JMPI of s58 the quantum switches none. -/
def Obligations.FragmentSwitch : Prop :=
  ∀ (w : Wave) (p : Bool), w.Ok → w.fuseDue = none →
    ((w.step p).cur ≠ w.cur → w.inTrap = false ∧ w.pending = [] ∧
      (w.switchDue = true ∨ (p = true ∧ (w.qActive ≤ w.qcount + 1 ∨ ∃ n, w.defer = .lr n ∧ 15 ≤ n)))) ∧
    (∀ e, w.inTrap = false → w.pending = [] → p = true → w.nextLive = some e → e ≠ w.cur → Claims.noTramp w →
      ((w.defer = .none ∧ w.qActive ≤ w.qcount + 1) ∨ (w.defer = .call ∧ w.qActive ≤ w.qcount + 1) ∨ ∃ n, w.defer = .lr n ∧ 15 ≤ n) →
      (w.step p).cur = e ∧ (w.step p).pc = (w.fragAt e).pc ∧ (w.step p).scc = (w.fragAt e).scc ∧
      ((w.step p).fragAt w.cur).pc = w.pc + 4 ∧ ((w.step p).fragAt w.cur).scc = w.scc ∧ ((w.step p).fragAt w.cur).xmask = w.exec) ∧
    (w.switchDue = false →
      (∀ t, (w.jump .call t).cur = w.cur ∧ (w.jump .tramp t).cur = w.cur) ∧
      ((∀ n, w.defer = .lr n → n < 15) → (w.stepAs .lr p).cur = w.cur) ∧
      ((∃ n, w.defer = .lr n ∧ n < 15) ∨ w.defer = .tramp ∨ ¬ Claims.noTramp w → (w.step p).cur = w.cur) ∧
      (∀ n e, w.defer = .lr n → n < 16 → w.inTrap = false → w.pending = [] → w.nextLive = some e → Claims.noTramp w → (w.stepAs .sc p).cur = e) ∧
      (∀ t e, w.defer = .tramp → w.inTrap = false → w.pending = [] → w.nextLive = some e → Claims.noTramp w → w.qActive ≤ w.qcount + 1 →
        (w.jump .jmpi58 t).cur = e))

/-- R44: a SETC to c10 writes the value clamped to 8..4,096, and the new quantum applies from the next time a fragment becomes current. -/
def Obligations.QuantumRegister : Prop :=
  (∀ (s : State) (w : Wave) (p : Bool) (r : SReg), s.cur = some w →
    exec (.setc p r 10) s =
      .next (s.setCur ({ w with quantum := if (w.s r).toNat < 8 then 8 else if 4096 < (w.s r).toNat then 4096 else (w.s r).toNat }.step p))) ∧
  (∀ (w : Wave) (q : Nat), { w with quantum := q }.qActive = w.qActive) ∧
  (∀ (w : Wave) (e : Nat), (w.become e).qActive = w.quantum ∧ (w.become e).cur = e)

/-- R298, R300, R314, R333, R355: each branch goes to its target with its link, and the whole fragment with it; nothing else changes. -/
def Obligations.Branches : Prop :=
  ∀ (s : State) (w : Wave) (i : Instr) (t : VAddr) (l : Option SReg),
    s.Issues w → Claims.Goes w i t l → ∃ v : Wave,
      exec i s = .next (s.setCur v) ∧ Claims.Linked w v l ∧ { v.regs with sregs := [] } = { w.regs with sregs := [] } ∧
      (v.cur = w.cur → v.pc = t ∧ v.exec = w.exec ∧ v.scc = w.scc)

/-- R312, R313: a hint joins the pending hints with its value, and its run begins with it where none was pending; it changes nothing else.
R376: YIELD switches to the next LIVE fragment outside a handler, and the partition skips the wave for one cycle; no register changes. -/
def Obligations.HintsAndYield : Prop :=
  ∀ (s : State) (w : Wave), s.Issues w →
    (∀ i, ∃ v, exec (.hintImm i) s = .next (s.setCur v) ∧ v.hints = { w.hints with imm := some i, start := some (w.hints.start.getD w.pc) } ∧
      v.pc = w.pc + 4 ∧ v.regs = w.regs ∧ v.cur = w.cur ∧ v.scc = w.scc ∧ v.exec = w.exec) ∧
    (∀ o c, ∃ v, exec (.hintOrd o c) s = .next (s.setCur v) ∧
      v.hints = { w.hints with ord := some (o, c), start := some (w.hints.start.getD w.pc) } ∧
      v.pc = w.pc + 4 ∧ v.regs = w.regs ∧ v.cur = w.cur ∧ v.scc = w.scc ∧ v.exec = w.exec) ∧
    (∀ m e d, ∃ v, exec (.hintDep m e d) s = .next (s.setCur v) ∧
      v.hints = { w.hints with dep := some (m, if e then some d else none), start := some (w.hints.start.getD w.pc) } ∧
      v.pc = w.pc + 4 ∧ v.regs = w.regs ∧ v.cur = w.cur ∧ v.scc = w.scc ∧ v.exec = w.exec) ∧
    (∀ m, ∃ v, exec (.hintRnd m) s = .next (s.setCur v) ∧ v.hints = { w.hints with rnd := some m, start := some (w.hints.start.getD w.pc) } ∧
      v.pc = w.pc + 4 ∧ v.regs = w.regs ∧ v.cur = w.cur ∧ v.scc = w.scc ∧ v.exec = w.exec) ∧
    (∀ o, ∃ v, exec (.hintOff o) s = .next (s.setCur v) ∧ v.hints = { w.hints with off := some o, start := some (w.hints.start.getD w.pc) } ∧
      v.pc = w.pc + 4 ∧ v.regs = w.regs ∧ v.cur = w.cur ∧ v.scc = w.scc ∧ v.exec = w.exec) ∧
    (∃ v, exec .yield s = .next (s.setCur v) ∧ v.skipCycle = true ∧ v.regs = { w.regs with skipCycle := true } ∧
      (∀ e, w.inTrap = false → w.pending = [] → w.nextLive = some e → v.cur = e) ∧ (v.cur = w.cur → v.pc = w.pc + 4))

/-- R40, R204: SPLIT. With one side empty the fragment goes to the other; with two free entries both sides become fragments, side A current; with one
the lanes of side B are deferred; with none, and in a handler, the launch ends with SPLIT_DEPTH. -/
def Obligations.SplitForms : Prop :=
  ∀ (s : State) (w : Wave) (m : MReg) (o : BitVec 22), s.Issues w →
    let a := w.exec &&& w.m m
    let b := w.exec &&& ~~~ w.m m
    (w.inTrap = true → ∃ t, exec (.split m o) s = .next t ∧ Claims.DepthEnds s w t) ∧
    (w.inTrap = false →
      ((a = 0 ∨ b = 0) → ∃ v, exec (.split m o) s = .next (s.setCur v) ∧ v.regs = w.regs ∧
        (v.cur = w.cur → v.pc = if a = 0 ∧ w.exec ≠ 0 then w.pc + 8 else w.pc + 4)) ∧
      (∀ i j r, a ≠ 0 → b ≠ 0 → w.freeEntries = i :: j :: r → ∃ t v, exec (.split m o) s = .next t ∧ t.cur = some v ∧ Claims.SameMemory s t ∧
        v.regs = w.regs ∧ v.cur = i ∧ v.exec = a ∧ v.pc = w.pc + 4 ∧ v.scc = w.scc ∧
        (v.fragAt w.cur).state = .parent ∧ (v.fragAt w.cur).pc = Claims.branchTarget w o ∧ (v.fragAt w.cur).mask = w.exec ∧
        (v.fragAt i).state = .live ∧ (v.fragAt i).mask = a ∧ (v.fragAt i).rejoin = Claims.branchTarget w o ∧ (v.fragAt i).link = w.cur ∧
        (v.fragAt j).state = .live ∧ (v.fragAt j).pc = w.pc + 8 ∧ (v.fragAt j).mask = b ∧ (v.fragAt j).xmask = b ∧ (v.fragAt j).scc = w.scc ∧
        (v.fragAt j).rejoin = Claims.branchTarget w o ∧ (v.fragAt j).link = w.cur) ∧
      (∀ j, a ≠ 0 → b ≠ 0 → w.freeEntries = [j] → ∃ t v, exec (.split m o) s = .next t ∧ t.cur = some v ∧ Claims.SameMemory s t ∧
        v.regs = w.regs ∧ (v.fragAt w.cur).mask = a ∧ (v.fragAt j).state = .defer ∧ (v.fragAt j).pc = w.pc + 8 ∧ (v.fragAt j).mask = b ∧
        (v.fragAt j).xmask = b ∧ (v.fragAt j).scc = w.scc ∧ (v.fragAt j).rejoin = Claims.branchTarget w o ∧ (v.fragAt j).link = w.cur ∧
        (v.cur = w.cur → v.exec = a ∧ v.pc = w.pc + 4)) ∧
      (a ≠ 0 → b ≠ 0 → w.freeEntries = [] → ∃ t, exec (.split m o) s = .next t ∧ Claims.DepthEnds s w t))

/-- R41, R39, R43, R204: JOIN. Away from a join it only ends. With a deferred partner at this join the fragment is HELD, its EXEC and SCC in its
entry, and the partner runs. A fragment at its join is PARKED where another child of its parent is not, and the wave issues from its next LIVE
fragment. Where the parent is HELD, or its other children are all PARKED, however many, the parent runs with their lanes after its join, and the
parked entries are free; where no lane is left, the parent's entry is free too. In a handler a JOIN that would leave its fragment PARKED or HELD
ends the launch with SPLIT_DEPTH. `u` is the wave before the barriers of its block and its pins are looked at again (R38, R188). -/
def Obligations.JoinForms : Prop :=
  ∀ (s : State) (w : Wave) (p : Bool), s.Issues w →
    let up := w.frag.link
    let partner := (w.children w.cur).find? fun d => (w.fragAt d).state == .defer && (w.fragAt d).rejoin == w.pc
    let waits := (w.fragAt up).state ≠ .held ∧ ((w.fragAt up).state = .parent → ∃ k ∈ w.children up, k ≠ w.cur ∧ (w.fragAt k).state ≠ .parked)
    let after := fun u : Wave => Host.Outcome.next (((s.setCur u).recheck w.block).blockPins s.issuing)
    (partner = none → (w.cur = 0 ∨ w.frag.rejoin ≠ w.pc) →
      ∃ v, exec (.join p) s = .next (s.setCur v) ∧ v.regs = w.regs ∧ (v.cur = w.cur → v.pc = w.pc + 4 ∧ v.exec = w.exec ∧ v.scc = w.scc)) ∧
    (∀ d, partner = some d →
      (w.inTrap = true → ∃ t, exec (.join p) s = .next t ∧ Claims.DepthEnds s w t) ∧
      (w.inTrap = false → ∃ u : Wave, exec (.join p) s = after u ∧ u.regs = w.regs ∧ u.cur = d ∧
        u.pc = (w.fragAt d).pc ∧ u.scc = (w.fragAt d).scc ∧ u.exec = (w.fragAt d).xmask &&& w.lanes ∧ (u.fragAt d).state = .live ∧
        (u.fragAt w.cur).state = .held ∧ (u.fragAt w.cur).mask = w.exec ∧ (u.fragAt w.cur).xmask = w.exec ∧ (u.fragAt w.cur).scc = w.scc ∧
        (u.fragAt w.cur).pc = w.pc)) ∧
    (partner = none → w.cur ≠ 0 → w.frag.rejoin = w.pc →
      (waits → w.inTrap = true → ∃ t, exec (.join p) s = .next t ∧ Claims.DepthEnds s w t) ∧
      (waits → w.inTrap = false → ∃ u : Wave, exec (.join p) s = after u ∧ u.regs = w.regs ∧ (u.fragAt w.cur).state = .parked ∧
        (u.fragAt w.cur).mask = w.exec ∧ ∀ e, w.pending = [] → w.nextLive = some e → e ≠ w.cur →
          u.cur = e ∧ u.pc = (w.fragAt e).pc ∧ u.scc = (w.fragAt e).scc) ∧
      ((w.inTrap = false ∨ ¬ waits) → w.pending ≠ [] → ∃ u : Wave, exec (.join p) s = after u ∧ u.regs = w.regs ∧ u.cur = w.cur ∧
        (u.fragAt w.cur).state = .parked ∧ (u.fragAt w.cur).mask = w.exec ∧ u.fuseDue = some up) ∧
      (¬ waits → (w.fragAt up).state = .held ∨ (w.fragAt up).state = .parent → up ≠ w.cur → w.pending = [] →
        let lanes := fun l => w.exec.getLsbD l || ((w.fragAt up).state == .held && (w.fragAt up).mask.getLsbD l) ||
          (w.children up).any fun k => k != w.cur && (w.fragAt k).state == .parked && (w.fragAt k).mask.getLsbD l
        ∃ u : Wave, exec (.join p) s = after u ∧ u.regs = w.regs ∧
          (∀ k ∈ w.children up, k = w.cur ∨ (w.fragAt k).state = .parked → (u.fragAt k).state = .free) ∧
          ((∃ l, lanes l = true) → u.cur = up ∧ (u.fragAt up).state = .live ∧ u.pc = (w.fragAt up).pc + 4 ∧ u.scc = w.scc ∧
            ∀ l, u.exec.getLsbD l = (decide (l < w.width) && lanes l)) ∧
          ((∀ l, lanes l = false) → (u.fragAt up).state = .free)))

/-- R42, R307: EXIT completes: it takes the lanes of EXEC out of the fragment's MASK and sets EXEC to 0. Where some lanes are left the fragment
goes on at the next word. Where none is left it has arrived at its join, and no handler runs (R203). With a DEFER partner its entry becomes HELD with
MASK 0 and the PC of the partner's REJOIN, and the partner runs. Else its entry is free; the wave issues from its next LIVE fragment where the parent
still waits for another child; and where the parent is HELD, or its other children are all PARKED, the fusion of R41 is made: the parent runs with
their lanes after its join, and the parked entries are free; where no lane is left, the parent's entry is free too. Outstanding results delay the
fusion. Of a wave of one fragment no lane is left. `u` is as for JOIN. -/
def Obligations.ExitLanes : Prop :=
  ∀ (s : State) (w : Wave), s.Issues w →
    let up := w.frag.link
    let left := w.frag.mask &&& ~~~ w.exec
    let partner := (w.children w.cur).find? fun d => (w.fragAt d).state == .defer
    let waits := (w.fragAt up).state ≠ .held ∧ ((w.fragAt up).state = .parent → ∃ k ∈ w.children up, k ≠ w.cur ∧ (w.fragAt k).state ≠ .parked)
    ∃ u : Wave, exec .exit s = .next (((s.setCur u).recheck w.block).blockPins s.issuing) ∧
      { u.regs with inTrap := w.inTrap } = w.regs ∧
      (left ≠ 0 → (u.fragAt w.cur).mask = left ∧ u.inTrap = w.inTrap ∧ (u.cur = w.cur → u.exec = 0 ∧ u.pc = w.pc + 4 ∧ u.scc = w.scc)) ∧
      (left = 0 → u.inTrap = false) ∧
      (∀ d, left = 0 → partner = some d → u.cur = d ∧ u.pc = (w.fragAt d).pc ∧ u.scc = (w.fragAt d).scc ∧
        u.exec = (w.fragAt d).xmask &&& w.lanes ∧ (u.fragAt d).state = .live ∧ (u.fragAt w.cur).state = .held ∧ (u.fragAt w.cur).mask = 0 ∧
        (u.fragAt w.cur).pc = (w.fragAt d).rejoin) ∧
      (left = 0 → partner = none →
        (w.pending ≠ [] → (u.fragAt w.cur).state = .free ∧ u.cur = w.cur ∧ u.fuseDue = some up ∧ u.switchDue = true) ∧
        (waits → w.pending = [] → (u.fragAt w.cur).state = .free ∧ ∀ e, w.nextLive = some e → e ≠ w.cur →
          u.cur = e ∧ u.pc = (w.fragAt e).pc ∧ u.scc = (w.fragAt e).scc ∧ u.exec = (w.fragAt e).xmask &&& w.lanes) ∧
        (¬ waits → (w.fragAt up).state = .held ∨ (w.fragAt up).state = .parent → up ≠ w.cur → w.pending = [] →
          let lanes := fun l => ((w.fragAt up).state == .held && (w.fragAt up).mask.getLsbD l) ||
            (w.children up).any fun k => k != w.cur && (w.fragAt k).state == .parked && (w.fragAt k).mask.getLsbD l
          (∀ k ∈ w.children up, k = w.cur ∨ (w.fragAt k).state = .parked → (u.fragAt k).state = .free) ∧
          ((∃ l, lanes l = true) → u.cur = up ∧ (u.fragAt up).state = .live ∧ u.pc = (w.fragAt up).pc + 4 ∧ u.scc = w.scc ∧
            ∀ l, u.exec.getLsbD l = (decide (l < w.width) && lanes l)) ∧
          ((∀ l, lanes l = false) → (u.fragAt up).state = .free)) ∧
        (w.cur = 0 → (∀ e, e ≠ 0 → e < 8 → (w.fragAt e).state = .free) → u.noLanes = true))

/-! ### Control registers -/

/-- R34, R88, R89, R91, R230, R310: GETC samples at issue (of c11 and c12 the core's HZcopy), and the value is written when the long-class result
returns; to s0 nothing is left pending. -/
def Obligations.ReadingControlRegisters : Prop :=
  ∀ (s : State) (w : Wave) (p : Bool) (r : SReg) (c : CReg), s.cur = some w → ∃ (u : Wave) (x : Word),
    exec (.getc p r c) s = .next (s.setCur (u.step p)) ∧ { u with clockLatch := w.clockLatch } = (if r = 0 then w else w.later [.s r.toNat x]) ∧
    (∀ y, Claims.readsRegister s w c.toNat = some y → x = y) ∧
    (c = 0 → w.part < 4 → w.frags.length = 8 → (∀ f ∈ w.frags, f.state ≠ .free → f.state ≠ .parent → f.mask ≠ 0) →
      x.toNat = 1024 * (w.frags.countP fun f => f.state != .free) + 64 * (w.frags.countP fun f => f.state != .free && f.state != .parent) +
        16 * w.part + (if w.width = 16 then 0 else if w.width = 32 then 1 else 2)) ∧
    (c = 1 → w.index < 32 → 1 ≤ (s.launchOf w).desc.nwaves → (s.launchOf w).desc.nwaves ≤ 32 →
      x.toNat = 256 * ((s.launchOf w).desc.nwaves - 1) + w.index) ∧
    (∀ h : Stamp, h = (match (s.core (s.coreOf w)).hz.find? fun e => e.1 == s.funcOf w with
        | some e => e.2
        | none => (s.func (s.funcOf w)).hz) → (c = 11 → x = h.setWidth 32) ∧ (c = 12 → x = (h >>> 32).setWidth 32)) ∧
    (c = 24 → x = BitVec.ofNat 32 (s.cycle (s.coreOf w)) ∧ u.clockLatch = some (BitVec.ofNat 32 (s.cycle (s.coreOf w) / 2 ^ 32))) ∧
    (c = 25 → u.clockLatch = none ∧ ∀ y, w.clockLatch = some y → x = y) ∧ (c ≠ 24 → c ≠ 25 → u.clockLatch = w.clockLatch)

/-- R341, R143, R88: SETC writes c9, c13, c14 and c23, and c11 in a launch with HOWN; codes 6 and 7 of RNDMODE give RNE. R89, R230, R342: SETC of
c12 in a launch with HOWN asks for a raise to the value and its staged half where that is above HZ, and the word is outstanding until the
raise is complete; else it only ends. -/
def Obligations.WritingControlRegisters : Prop :=
  ∀ (s : State) (w : Wave) (p : Bool) (r : SReg), s.cur = some w →
    (∃ u : Wave, exec (.setc p r 9) s = .next (s.setCur (u.step p)) ∧
      u = { w with rndMode := if (w.s r).toNat % 8 < 6 then (w.s r).setWidth 3 else 0 }) ∧
    exec (.setc p r 13) s = .next (s.setCur ({ w with gate := w.s r }.step p)) ∧
    exec (.setc p r 14) s = .next (s.setCur ({ w with wakeTo := w.s r }.step p)) ∧
    (∃ u : Wave, exec (.setc p r 23) s = .next (s.setCur (u.step p)) ∧ u = { w with srSeed := w.s r, srState := u.srState } ∧
      ∀ l, l < w.width → u.srState.getD l 0 = (let x := w.s r ^^^ BitVec.ofNat 32 (l * 0x9E3779B9)
        if x = 0 then 0x9E3779B9 else x)) ∧
    ((s.launchOf w).desc.hown = true → exec (.setc p r 11) s = .next (s.setCur ({ w with hzStaged := w.s r }.step p))) ∧
    ((s.launchOf w).desc.hown = true →
      let h : Stamp := w.s r ++ w.hzStaged
      let f := s.funcOf w
      (h.toNat ≤ (s.func f).hz.toNat → exec (.setc p r 12) s = .next (s.setCur (w.step p))) ∧
      ((s.func f).hz.toNat < h.toNat → ∃ t : State, exec (.setc p r 12) s =
          .next (t.setCur ({ w with pending := w.pending ++ [Pending.mk .raise [] 0 none false 0 0] }.step p)) ∧
        t = s.modFunc f (fun g => { g with raises := g.raises ++ [Raise.mk h (some s.issuing) none] })))

/-! ### Traps -/

/-- R357, R299, R198, R205: TRAP and, without breakpoint stops, BRK take their traps with the immediate as the address: what is saved, where the
wave goes on, and when the launch ends instead. R89, R196, R341: SETC of a register that is not writable takes the trap SETC_RO with the
register's number as its address. -/
def Obligations.SoftwareTraps : Prop :=
  ∀ (s : State) (w : Wave) (p : Bool) (n : BitVec 9), s.Issues w → w.pending = [] →
    (∃ t, exec (.trap p n) s = .next t ∧ Claims.TakesTrap s w (Claims.waveCause w 0x0D (BitVec.ofNat 64 n.toNat)) t) ∧
    (((s.launchOf w).desc.dbg && (s.func (s.funcOf w)).fdbg.getLsbD 2) = false →
      ∃ t, exec (.brk p n) s = .next t ∧ Claims.TakesTrap s w (Claims.waveCause w 0x0C (BitVec.ofNat 64 n.toNat)) t) ∧
    (∀ (r : SReg) (c : CReg), Claims.writable (s.launchOf w).desc.hown c.toNat = false → ∃ t, exec (.setc p r c) s = .next t ∧
      Claims.TakesTrap s w (Claims.waveCause w 0x0B (BitVec.ofNat 64 c.toNat)) t)

/-- R97, R198: with long-class results outstanding a trap waits, and the wave's registers, PC and memory stay; TRAP_DELIVERY then delivers it. -/
def Obligations.TrapsWaitForResults : Prop :=
  (∀ (s : State) (w : Wave) (p : Bool) (n : BitVec 9), s.cur = some w → w.pending ≠ [] →
    exec (.trap p n) s = .next (s.setCur { w with trapPending := some ⟨0x0D, w.exec, BitVec.ofNat 64 n.toNat⟩, susp := none, stall := .none })) ∧
  (∀ (s : State) (w : Wave) (x : TrapInfo), s.Inv → s.cur = some w → w.trapPending = some x → w.pending = [] → s.runs s.issuing = true →
    ∃ t, exec (.trapDelivery s.issuing) s = .next t ∧ Claims.TakesTrap s w x t)

/-- R202: RETT restores EXEC from SAVEXEC within the fragment's MASK and goes on at the faulting run, after the faulting word, or at s62:s63;
outside a handler it takes the trap PROT at its own address. -/
def Obligations.ReturnFromTrap : Prop :=
  ∀ (s : State) (w : Wave) (n : RettMode), s.Issues w →
    (w.inTrap = true → ∃ v, exec (.rett n) s = .next (s.setCur v) ∧ v.exec = w.savExec &&& w.frag.mask &&& w.lanes ∧ v.inTrap = false ∧
      v.pc = (match n with
        | .retry => w.trapPc
        | .skip => w.skipPc
        | .resume => Claims.pairAddress w 62) ∧
      v.cur = w.cur ∧ v.frags = w.frags ∧ v.scc = w.scc ∧ { v.regs with inTrap := w.inTrap } = w.regs) ∧
    (w.inTrap = false → w.pending = [] → ∃ t, exec (.rett n) s = .next t ∧
      Claims.TakesTrap s w (Claims.waveCause w 0x03 (BitVec.ofNat 64 w.pc.toNat)) t)

/-! ### The scratchpad -/

/-- R322, R316: LDS reads each lane's bytes at issue, and the registers are written when the result returns. R351, R177: STS writes each lane's
bytes, of one byte the highest lane's. R294, R295, R297: ATOMS performs its lanes in ascending order, with the old values as a long-class
result. Every other byte of the scratchpad, memory, every other block and every other register is as before. -/
def Obligations.ScratchpadAccesses : Prop :=
  ∀ (s : State) (w : Wave) (p : Bool) (v : VReg) (b : SReg) (o : VReg), s.Issues w → w.hints.ord = none →
    (∀ (z : MSize) (c : Cache), (∀ l ∈ w.active, Claims.Inside s w b o (MSize.bytes z) l) →
      (∃ x : Pending, exec (.lds p v b o z c) s = .next (s.setCur ((w.pendRead w.pc x).step p)) ∧ x.tag = .ready ∧ x.sf = 0 ∧
        Claims.Loads w v z (fun l k => (s.blockOf w).scratch.get (Claims.laneOffset w b o l + k)) x.writes) ∧
      (∃ x : Scratch, exec (.sts p v b o z c) s = .next ((s.modBlock w.block fun g => { g with scratch := x }).setCur (w.step p)) ∧
        Claims.Stored w.active (Claims.laneOffset w b o) (MSize.bytes z) (Claims.laneByte w v) (s.blockOf w).scratch.get x.get ∧
        x.size = (s.blockOf w).scratch.size ∧ x.fills = (s.blockOf w).scratch.fills)) ∧
    (∀ op : AtomOp, (∀ l ∈ w.active, Claims.Inside s w b o (Claims.atomSize op) l) → ∃ (x : Scratch) (y : Pending),
      exec (.atoms p v b o op) s = .next ((s.modBlock w.block fun g => { g with scratch := x }).setCur ((w.pendRead w.pc y).step p)) ∧
      y.tag = .ready ∧ y.sf = 0 ∧
      Claims.Olds w v (Claims.atomSize op) (Claims.atomAll op w v (Claims.laneOffset w b o) w.active (s.blockOf w).scratch.get).1 y.writes ∧
      ∀ a, x.get a = (Claims.atomAll op w v (Claims.laneOffset w b o) w.active (s.blockOf w).scratch.get).2 a)

/-! ### Addresses that trap -/

/-- R160, R196, R322: a lane-wise form of which every lane is misaligned takes the trap MISALIGN with those lanes and the address of the lowest;
a global base of 2^52 or more takes PROT with the base; a scratchpad access beyond the allocation takes PROT with its offset. R198, R199: where some
lanes fail, each for its own cause, and the others pass, the trap has the lowest code among them, exactly the lanes of that code, and the address
of the lowest of these. -/
def Obligations.AddressTraps : Prop :=
  ∀ (s : State) (w : Wave) (i : Instr) (b : SReg) (o : VReg) (n f : Nat),
    s.Issues w → w.pending = [] → w.active.head? = some f →
    (Claims.globalForm i = some (b, o, n) →
      ((w.s64 b).toNat < 2 ^ 52 → (∀ l ∈ w.active, Claims.laneAddress w b o l % n ≠ 0) →
        ∃ t, exec i s = .next t ∧ Claims.TakesTrap s w (Claims.waveCause w 0x04 (BitVec.ofNat 64 (Claims.laneAddress w b o f))) t) ∧
      (2 ^ 52 ≤ (w.s64 b).toNat → ∃ t, exec i s = .next t ∧ Claims.TakesTrap s w (Claims.waveCause w 0x03 (w.s64 b)) t)) ∧
    (Claims.scratchForm i = some (b, o, n) →
      ((∀ l ∈ w.active, Claims.laneOffset w b o l % n ≠ 0) →
        ∃ t, exec i s = .next t ∧ Claims.TakesTrap s w (Claims.waveCause w 0x04 (BitVec.ofNat 64 (Claims.laneOffset w b o f))) t) ∧
      ((∀ l ∈ w.active, Claims.laneOffset w b o l % n = 0 ∧ ¬ Claims.Inside s w b o n l) →
        ∃ t, exec i s = .next t ∧ Claims.TakesTrap s w (Claims.waveCause w 0x03 (BitVec.ofNat 64 (Claims.laneOffset w b o f))) t)) ∧
    (Claims.globalForm i = some (b, o, n) ∨ Claims.scratchForm i = some (b, o, n) → w.pinLost = 0 →
      (∀ l ∈ w.active, (∃ c a, Claims.LaneFails s w i l c a) ∨ Claims.LanePasses s w i l) →
      ∀ c, (∃ l ∈ w.active, ∃ a, Claims.LaneFails s w i l c a) → (∀ l ∈ w.active, ∀ d a, Claims.LaneFails s w i l d a → c ≤ d) →
      ∃ (x : TrapInfo) (t : State), exec i s = .next t ∧ Claims.TakesTrap s w x t ∧ x.cause = BitVec.ofNat 8 c ∧
        (∀ l, x.lanes.getLsbD l = true ↔ l ∈ w.active ∧ ∃ a, Claims.LaneFails s w i l c a) ∧
        ∀ l ∈ w.active, ∀ a, Claims.LaneFails s w i l c a → (∀ k ∈ w.active, k < l → ∀ d, ¬ Claims.LaneFails s w i k c d) → x.addr = a)

/-- R163, R164, R96: an LD or ST whose pages the core's cache does not hold waits for its translation, with nothing changed; a page without the
right takes the trap PROT with its address. -/
def Obligations.AccessRights : Prop :=
  ∀ (s : State) (w : Wave) (p : Bool) (v : VReg) (b : SReg) (o : VReg) (z : MSize) (c : Cache) (f : Nat),
    s.Issues w → w.active.head? = some f → (w.s64 b).toNat < 2 ^ 52 → (∀ l ∈ w.active, Claims.laneAddress w b o l % MSize.bytes z = 0) →
    let tlb := (s.core (s.coreOf w)).tlb
    let page := fun l => findTlb tlb (s.funcOf w) (Claims.laneAddress w b o l / 65536)
    ((∃ l ∈ w.active, page l = none) →
      exec (.ld p v b o z c) s = .next (s.setCur { w with susp := some (.ld p v b o z c) }) ∧
      exec (.st p v b o z c) s = .next (s.setCur { w with susp := some (.st p v b o z c) })) ∧
    (w.pending = [] → (∀ l ∈ w.active, ∃ e, page l = some e ∧ e.leaf.rd = false) → ∃ t, exec (.ld p v b o z c) s = .next t ∧
      Claims.TakesTrap s w (Claims.waveCause w 0x03 (BitVec.ofNat 64 (Claims.laneAddress w b o f))) t) ∧
    (w.pending = [] → (∀ l ∈ w.active, ∃ e, page l = some e ∧ (e.leaf.w = false ∨ s.verifiedPage e.page = true)) →
      ∃ t, exec (.st p v b o z c) s = .next t ∧
        Claims.TakesTrap s w (Claims.waveCause w 0x03 (BitVec.ofNat 64 (Claims.laneAddress w b o f))) t)

/-! ### Global memory -/

/-- R317, R316, R343, R344: on a quiet memory path the outstanding result of LD is what memory holds at each lane's place, and that of SLD what it
holds at the address, in one or two scalars; memory is unchanged. -/
def Obligations.GlobalLoads : Prop :=
  ∀ (s : State) (w : Wave) (p : Bool), s.Issues w → Claims.Quiet s w → w.hints.ord = none →
    (∀ (v : VReg) (b : SReg) (o : VReg) (z : MSize) (c : Cache) (place : Nat → Nat), Claims.AllReach s w .load b o (MSize.bytes z) place →
      ∃ (t : State) (x : Pending), exec (.ld p v b o z c) s = .next t ∧ x.tag = .ready ∧
        Claims.Loads w v z (fun l k => s.peek (place l + k)) x.writes ∧ Claims.OnlyWave s t ((w.pendRead w.pc x).step p) ∧ t.mem = s.mem) ∧
    (∀ (d b : SReg) (o : BitVec 10) (z : WSize) (pa : Nat), (w.s64 b).toNat < 2 ^ 52 → Claims.scalarAddress w b o % WSize.bytes z = 0 →
      Claims.Reaches s w .load (Claims.scalarAddress w b o) pa → ∃ (t : State) (x : Pending),
        exec (.sld p d b o z) s = .next t ∧ x.tag = .ready ∧
        x.writes = (List.range (WSize.regs z)).map (fun k => .s (d.toNat + k) (Claims.loaded .b32 (fun j => s.peek (pa + 4 * k + j)) 0)) ∧
        Claims.OnlyWave s t ((w.pendRead w.pc x).step p) ∧ t.mem = s.mem)

/-- R349, R170, R344, R174, R177: a relaxed ST, STC and SST complete with memory unchanged and no register written, and their bytes are on their way:
in the write-combining buffer of the wave's partition, dirty in its tower's remote cache, or in a request to their home stands, of each byte stored,
the highest lane's value, and no other byte; STC's stand in requests. The registers of STC's pair are outstanding, as R226 says. -/
def Obligations.GlobalStores : Prop :=
  ∀ (s : State) (w : Wave) (p : Bool), s.Issues w → Claims.Quiet s w → w.hints.ord = none →
    (∀ (v : VReg) (b : SReg) (o : VReg) (z : MSize) (c : Cache) (q : BitVec 2) (place : Nat → Nat),
      Claims.AllReach s w .store b o (MSize.bytes z) place →
      (∃ (t : State) (u : Wave), exec (.st p v b o z c) s = .next t ∧ t.mem = s.mem ∧ t.cur = some u ∧
        { u.regs with keepOut := [] } = w.regs ∧ (u.cur = w.cur → u.pc = w.pc + 4) ∧
        Claims.Stored w.active place (MSize.bytes z) (Claims.laneByte w v) s.peek (Claims.onceDone t) ∧
        ∀ a, Claims.onWay t a ≠ none → ∃ l ∈ w.active, place l ≤ a ∧ a < place l + MSize.bytes z) ∧
      (∃ (t : State) (u : Wave) (x : Pending), exec (.stc p v b o z q) s = .next t ∧ t.mem = s.mem ∧ t.cur = some u ∧
        { u.regs with keepOut := [] } = (w.pend x).regs ∧ (u.cur = w.cur → u.pc = w.pc + 4) ∧
        Claims.Stored w.active place (MSize.bytes z) (Claims.laneByte w v) s.peek (Claims.onceDone t) ∧ (t.partOf u).wc = [] ∧
        (∀ r ∈ (t.tower (towerOf (t.coreOf u))).remote, r.dirty = []) ∧
        (∀ r ∈ t.reqs, ∀ x ∈ r.bytes, ∃ l ∈ w.active, place l ≤ x.1 ∧ x.1 < place l + MSize.bytes z) ∧ (w.active ≠ [] → ∃ ids, ids ≠ [] ∧
          x.tag = .stc ids (48 + 2 * q.toNat) 0) ∧
        (w.active = [] → x.writes = [.s (48 + 2 * q.toNat) (w.sf.setWidth 32), .s (49 + 2 * q.toNat) ((w.sf >>> 32).setWidth 32)]))) ∧
    (∀ (d b : SReg) (o : BitVec 10) (z : WSize) (pa : Nat), (w.s64 b).toNat < 2 ^ 52 → Claims.scalarAddress w b o % WSize.bytes z = 0 →
      Claims.Reaches s w .store (Claims.scalarAddress w b o) pa → ∃ (t : State) (v : Wave),
        exec (.sst p d b o z) s = .next t ∧ t.mem = s.mem ∧ t.cur = some v ∧ { v.regs with keepOut := [] } = w.regs ∧
        (v.cur = w.cur → v.pc = w.pc + 4) ∧
        Claims.Stored [0] (fun _ => pa) (WSize.bytes z) (fun _ => Claims.scalarByte w d) s.peek (Claims.onceDone t) ∧
        ∀ a, Claims.onWay t a ≠ none → pa ≤ a ∧ a < pa + WSize.bytes z)

/-- R180, R349, R177, R226: with HINT.ORD ACQREL at DV the bytes of ST and STC are on their way to their homes when the word has ended, and every
later access of the wave is held until they are performed, for an acquire at DV to follow. Performed, they stand in memory, of one byte the highest
lane's, with every other byte of memory as before and the wave's requests gone; the pair of STC receives a stamp that no line stored to
exceeds in its home. (Lanes that meet in a line through pages of two keys are left out: log 8.) -/
def Obligations.PublishedStores : Prop :=
  ∀ (s : State) (w : Wave) (p : Bool) (v : VReg) (b : SReg) (o : VReg) (z : MSize) (c : Cache) (q : BitVec 2) (place : Nat → Nat),
    s.Issues w → Claims.Quiet s w → Claims.Unregistered s → w.hints.ord = some (.acqrel, .dv) →
    Claims.AllReach s w .store b o (MSize.bytes z) place → Claims.Plain s w b o place →
    (∃ (t : State) (u : Wave) (h : Hold), exec (.st p v b o z c) s = .next t ∧ t.mem = s.mem ∧ t.cur = some u ∧ { u.regs with holds := [] } = w.regs ∧
      u.holds = [h] ∧ h.pred.getLsbD 6 = true ∧ h.succ = 0x1FF ∧ h.scope = .dv ∧ h.acquire = true ∧ (w.active ≠ [] → ¬ Claims.Performed t u h) ∧
      let d := t.performWhere fun _ => true
      Claims.Stored w.active place (MSize.bytes z) (Claims.laneByte w v) s.peek d.peek ∧ d.reqs = [] ∧ d.holdDone s.issuing h = true) ∧
    (w.active ≠ [] → ∃ (t : State) (h : Hold), exec (.stc p v b o z q) s = .next t ∧ t.mem = s.mem ∧ (t.cur.map fun u => u.holds) = some [h] ∧
      h.pred.getLsbD 6 = true ∧ h.succ = 0x1FF ∧ h.scope = .dv ∧ h.acquire = true ∧
      let d := t.performWhere fun _ => true
      Claims.Stored w.active place (MSize.bytes z) (Claims.laneByte w v) s.peek d.peek ∧ d.reqs = [] ∧
      ∃ (u : Wave) (x : Stamp) (y : Pending), d.cur = some u ∧ u.pending = [y] ∧ y.tag = .ready ∧
        y.writes = [.s (48 + 2 * q.toNat) (x.setWidth 32), .s (49 + 2 * q.toNat) ((x >>> 32).setWidth 32)] ∧ y.sf = x ∧
        ∀ l ∈ w.active, ∀ k, (d.tower (homeOf (place l))).homeLine (lineOf (place l)) = some k → k.stamp.toNat ≤ x.toNat)

/-- R294, R295, R296: on a quiet memory path ATOM of lanes on one line performs its lanes at the home in ascending order, with the old values
as its outstanding result; every other byte of memory is as before. (Lanes through pages of two keys are left out: log 8.) -/
def Obligations.GlobalAtomics : Prop :=
  ∀ (s : State) (w : Wave) (p : Bool) (v : VReg) (b : SReg) (o : VReg) (op : AtomOp) (place : Nat → Nat) (line : Nat),
    s.Issues w → Claims.Quiet s w → Claims.Unregistered s → w.hints.ord = none →
    Claims.AllReach s w .atom b o (Claims.atomSize op) place → (∀ l ∈ w.active, lineOf (place l) = line) → Claims.Plain s w b o place →
    ∃ (t : State) (x : Pending),
      exec (.atom p v b o op) s = .next t ∧ x.tag = .ready ∧
      Claims.Olds w v (Claims.atomSize op) (Claims.atomAll op w v place w.active s.peek).1 x.writes ∧
      Claims.WavesBut s t ((w.pendRead w.pc x).step p) ∧ ∀ a, t.peek a = (Claims.atomAll op w v place w.active s.peek).2 a

/-- R324, R325, R338, R339: LR of a lane reads memory and takes a reservation for its bytes at the home, which holds 16 for a line; SC with that
reservation stores, with status 0, and ends every reservation that its bytes meet; without it SC changes no byte, with status 1. R207 (log 17:
DEDUCED): where a reservation of another wave of a resident block on those bytes is older, and its sequence may still be a constrained one, the SC
waits for it. -/
def Obligations.Reservations : Prop :=
  ∀ (s : State) (w : Wave) (p : Bool) (v : VReg) (b : SReg) (o : VReg) (z : WSize) (l : Nat) (place : Nat → Nat),
    s.Issues w → Claims.Quiet s w → Claims.Unregistered s → w.hints.ord = none → w.pinLost = 0 → w.active = [l] →
    Claims.AllReach s w .atom b o (WSize.bytes z) place → Claims.Plain s w b o place →
    let mine := Resv.mk s.issuing l (place l) (WSize.bytes z) none
    (∃ (t : State) (x : Pending), exec (.lr p v b o z) s = .next t ∧ t.mem = s.mem ∧ x.tag = .ready ∧
      Claims.Loads w v (WSize.msize z) (fun _ k => s.peek (place l + k)) x.writes ∧
      t.waves = s.waves.set s.issuing ((w.pendRead w.pc x).stepAs .lr p) ∧
      ((s.resvs.filter fun r => r.pin.isNone && lineOf r.addr == lineOf (place l)).length < 16 → mine w.retired ∈ t.resvs)) ∧
    (∀ (n : Nat) (old new : List Resv), s.resvs = old ++ mine n :: new → (∀ r ∈ old, r.wave = s.issuing → r.lane ≠ l) →
      let first := fun (r : Resv) => r.wave ≠ s.issuing ∧ r.pin = none ∧ r.addr < place l + WSize.bytes z ∧ place l < r.addr + r.size ∧
        (s.wave r.wave).ended = false ∧ (s.blockOf (s.wave r.wave)).status = .resident ∧ (s.wave r.wave).frag.state = .live ∧
          (s.wave r.wave).retired ≤ r.since + 16
      ((∃ r ∈ old, first r) → exec (.sc p v b o z) s = .next (s.setCur { w with stall := .retry, susp := none })) ∧
      ((∀ r ∈ old, ¬ first r) → ∃ (t : State) (x : Pending), exec (.sc p v b o z) s = .next t ∧ x.tag = .ready ∧
        Claims.Loads w v .b32 (fun _ _ => 0) x.writes ∧ Claims.WavesBut s t ((w.pendRead w.pc x).stepAs .sc p) ∧
        Claims.Stored [l] place (WSize.bytes z) (Claims.laneByte w v) s.peek t.peek ∧
        ∀ r ∈ t.resvs, r.pin = none → ∀ a, r.addr ≤ a → a < r.addr + r.size → a < place l ∨ place l + WSize.bytes z ≤ a)) ∧
    ((∀ n, mine n ∉ s.resvs) → ∃ (t : State) (x : Pending), exec (.sc p v b o z) s = .next t ∧ x.tag = .ready ∧
      Claims.Loads w v .b32 (fun _ k => if k = 0 then 1 else 0) x.writes ∧ t.waves = s.waves.set s.issuing ((w.pendRead w.pc x).stepAs .sc p) ∧
      t.mem = s.mem)

/-- R223, R224, R225, R228: LDAS of registered pages that its stamp may name reads, once the homes' counts have passed the stamp's, the line as
of the stamp: memory where no record is newer, else the image of the oldest newer record. -/
def Obligations.AsOfLoads : Prop :=
  ∀ (s : State) (w : Wave) (p : Bool) (v : VReg) (b : SReg) (o : VReg) (z : MSize) (q : BitVec 2) (place : Nat → Nat)
    (img : Nat → Nat → Byte),
    s.Issues w → Claims.Quiet s w → Claims.AllReach s w .asof b o (MSize.bytes z) place →
    let x := w.s64 (48 + 2 * q.setWidth 6)
    (∀ l ∈ w.active, ∃ k e, s.keepOf (place l) = some k ∧ k.ks ≤ x ∧ s.hzCopy (s.coreOf w) (s.funcOf w) ≤ x ∧
      x.toNat / 4 ≤ (s.core (s.coreOf w)).now + 2 ^ 24 ∧ x.toNat / 4 < (s.tower (homeOf (place l))).count ∧
      findTlb (s.core (s.coreOf w)).tlb (s.funcOf w) (Claims.laneAddress w b o l / 65536) = some e ∧
      Claims.AsOf s k (lineOf (place l)) x (img l) e.leaf.key (place l)) →
    ∃ (t : State) (y : Pending), exec (.ldas p v b o z q) s = .next t ∧ y.tag = .ready ∧
      Claims.Loads w v z (fun l k => img l (place l - lineOf (place l) + k)) y.writes ∧
      t.waves = s.waves.set s.issuing ((w.pendRead w.pc y).step p) ∧ t.mem = s.mem

/-- R330, R331: PREF always ends, and takes no trap; with no store on its way it changes no byte of memory and nothing of the wave.
R183, R184, R219: FENCE with an empty set only ends. Otherwise it ends too, with no register written; where it publishes, no byte of the wave is
buffered. Its order is then under way, or everything that it awaits has been performed; with nothing to await it is done at once, the block floor
not below the wave's SF after a release, nor SF below the block floor after an acquire. -/
def Obligations.PrefetchesAndFences : Prop :=
  ∀ (s : State) (w : Wave) (p : Bool) (a b : BitVec 8) (c : Scope), s.Issues w →
    (∀ (x : SReg) (o : VReg) (l : PrefLevel) (k : PrefClass), ∃ t, exec (.pref p x o l k) s = .next t ∧
      (s.reqs = [] → (∀ u ∈ s.towers, ∀ r ∈ u.remote, r.dirty = []) → t.mem = s.mem ∧ Claims.OnlyWave s t (w.step p))) ∧
    ((a = 0 ∨ b = 0) → exec (.fence p a b c) s = .next (s.setCur (w.step p))) ∧
    (a ≠ 0 → b ≠ 0 → ∃ (t : State) (v : Wave), exec (.fence p a b c) s = .next t ∧ t.cur = some v ∧ v.sregs = w.sregs ∧ v.vregs = w.vregs) ∧
    (a ≠ 0 → b ≠ 0 → w.awaiting = false → ∃ (t : State) (v : Wave) (h : Hold), exec (.fence p a b c) s = .next t ∧ t.cur = some v ∧
      t.issuing = s.issuing ∧
      { v.regs with sf := w.sf, holds := w.holds, keepOut := w.keepOut, pending := w.pending } = w.regs ∧ (v.cur = w.cur → v.pc = w.pc + 4) ∧
      (a &&& 0x55 ≠ 0 → ∀ x, t.wcByte s.issuing x = none) ∧
      h.pend = w.pending.length ∧ s.nextReq ≤ h.req ∧ h.op = s.nextOp ∧ h.pred = a ∧ h.succ = b.setWidth 9 ∧ h.scope = c ∧
      h.publish = decide (a &&& 0x55 ≠ 0) ∧ h.acquire = decide (b &&& 0xA8 ≠ 0) ∧ (h ∈ v.holds ∨ Claims.Performed t v h)) ∧
    (a ≠ 0 → b ≠ 0 → Claims.Quiet s w → w.outM = [] → w.outK = [] → w.outD = [] → ∃ t v, exec (.fence p a b c) s = .next t ∧ t.mem = s.mem ∧
      t.cur = some v ∧ { v.regs with sf := w.sf } = w.regs ∧ (v.cur = w.cur → v.pc = w.pc + 4) ∧
      (c ≠ .wv → a &&& 0x55 ≠ 0 → w.sf.toNat ≤ (t.block w.block).bsf.toNat) ∧
      (c ≠ .wv → b &&& 0xAA ≠ 0 → (s.block w.block).bsf.toNat ≤ v.sf.toNat))

/-! ### Long-class vector forms and block formats -/

/-- R91, R145, R152, R153, R361, R362, R364, R366: a long-class vector form's result is outstanding, for its register or pair, in the lanes of EXEC;
the cross-lane forms read any lane; quotients and roots of every type are rounded once, and so are reciprocals; every special function has the special
values of R153; VREADL writes a scalar, and VWRITEL one lane. -/
def Obligations.LongVectorForms : Prop :=
  ∀ (s : State) (w : Wave) (p : Bool), s.cur = some w → w.Ok →
    (∀ (i : Instr) (d : VReg) (pair : Bool), Claims.longForm i = some (p, d, pair) → ∃ g : Nat → Nat → Word,
      exec i s = .next (s.setCur ((w.later ((List.range (if pair then 2 else 1)).map fun k =>
        .v (d.toNat + k) w.exec (w.perLane (g k)))).step p)) ∧
      (∀ l x, Claims.longValue w l i = some x → g 0 l = x) ∧
      (∀ k a b code, Claims.longFloat w i = some (k, a, b, code) → ∀ l, ∀ f ∈ Claims.parts k, ∀ x,
        code f.1 (f.1.decode (f.2 (Claims.operand w k a l))) (f.1.decode (f.2 (Claims.operand w k b l))) = some x → f.2 (g 1 l ++ g 0 l) = x)) ∧
    (∀ (r : SReg) (a : VReg) (k : BitVec 7), exec (.vreadl p r a k) s =
      .next (s.setCur ((if r = 0 then w else w.later [.s r.toNat (w.v a (k.toNat % w.width))]).step p))) ∧
    (∀ (d : VReg) (r : SReg) (k : BitVec 7), ∃ m : Mask,
      exec (.vwritel p d r k) s = .next (s.setCur ((w.later [.v d.toNat m (w.perLane fun _ => w.s r)]).step p)) ∧
      ∀ l, m.getLsbD l = (w.exec.getLsbD l && decide (l = k.toNat % w.width)))

/-- R138, R139, R140, R368: VPACK4 and VUNPK4 take the trap WIDTH at W = 16. Else VPACK4 writes, in the fifth lane of each 32, the type and the
least scale under which its elements fit, and in the first four the codes: with RNE each nearest to its element, and all 0 under scale 63. VUNPK4
writes the value of each code under the block's own type and scale. (That -0.0 packs to 0b1000 is log 35: DESIGN CHOICE.) -/
def Obligations.BlockFormats : Prop :=
  ∀ (s : State) (w : Wave) (p : Bool) (d a : VReg) (t : BlkType), s.Issues w →
    (w.width = 16 → w.pending = [] → ∀ i ∈ [Instr.vpack4 p d a t, Instr.vunpk4 p d a t],
      ∃ u, exec i s = .next u ∧ Claims.TakesTrap s w (Claims.waveCause w 0x0A 0) u) ∧
    (w.width ≠ 16 →
      (∃ (f : Nat → Word) (u : Wave), exec (.vpack4 p d a t) s = .next (s.setCur (u.step p)) ∧
        { u with srState := w.srState } = w.setV d f ∧ (w.hints.rnd = none → u.srState = w.srState) ∧
        ∀ g, 32 * g + 32 ≤ w.width → ∃ e, (f (32 * g + 4)).toNat = 64 * (BlkType.code t).toNat + e ∧ Claims.ScaleOf w t a (32 * g) e ∧
          (∀ j, 4 < j → j < 32 → f (32 * g + j) = 0) ∧
          ∀ i, i < 32 → let code := (f (32 * g + i / 8)).toNat / 16 ^ (i % 8) % 16
            (e = 63 → code = 0) ∧ (w.hints.rnd = none → e < 63 → ∀ n m x, Claims.packed w a (32 * g + i) = .fin n m x →
              ∃ c, Claims.nearestCode t e n m x c ∧ code = Claims.blockCode t n c)) ∧
      (∃ f : Nat → Word, exec (.vunpk4 p d a t) s = .next (s.setCur ((w.setV d f).step p)) ∧
        ∀ l, let byte := (w.v a (l / 32 * 32 + 4)).toNat % 256
          let code := (w.v a (l / 32 * 32 + l % 32 / 8)).toNat / 16 ^ (l % 8) % 16
          f l = BitVec.ofNat 32 (Fmt.f32.round .rne 0 (Claims.blockElem byte code))))

/-! ### Barriers and waits -/

/-- R37, R38, R292, R293, R373: a wave that is no member of the group takes the trap PROT with its number. A second arrival in one phase waits to
issue again. Where an arrival is the last, the phase flips, the marks are cleared and the word ends; else ARRIVE ends with the arrival
marked, and BAR waits for the phase. WAITB waits while the phase has the value that it names. (That a wave which has not ended and holds no fragment in
state LIVE or WAIT counts as not arrived, unless every entry is free, is log 12: DEDUCED, no rule of the spec.) -/
def Obligations.GroupForms : Prop :=
  ∀ (s : State) (w : Wave) (p h : Bool) (g : BitVec 8), s.Issues w → Claims.Quiet s w →
    let b := s.blockOf w
    let marked := (g.toNat, w.index, w.cur) ∈ b.marks
    ((s.launchOf w).isMember g.toNat w.index = false → ∀ i ∈ [Instr.bar p g, Instr.arrive p g, Instr.waitb p g h],
      ∃ t, exec i s = .next t ∧ Claims.TakesTrap s w (Claims.waveCause w 0x03 (BitVec.ofNat 64 g.toNat)) t) ∧
    ((s.launchOf w).isMember g.toNat w.index = true →
      (marked → ∀ i ∈ [Instr.bar p g, Instr.arrive p g], ∃ t v, exec i s = .next t ∧ t.cur = some v ∧
        Claims.Waits w v (.rearm g.toNat (b.phase g.toNat) false)) ∧
      (¬ marked → Claims.AllArrived s w g.toNat → ∀ i ∈ [Instr.bar p g, Instr.arrive p g], ∃ t v, exec i s = .next t ∧ t.cur = some v ∧
        Claims.Ends w v ∧ (t.block w.block).phase g.toNat = !b.phase g.toNat ∧ ∀ x ∈ (t.block w.block).marks, x.1 ≠ g.toNat) ∧
      (¬ marked → ¬ Claims.AllArrived s w g.toNat →
        (∃ t v, exec (.arrive p g) s = .next t ∧ t.cur = some v ∧ Claims.Ends w v ∧ (t.block w.block).phases = b.phases ∧
          (t.block w.block).marks = b.marks ++ [(g.toNat, w.index, w.cur)]) ∧
        (∃ t v, exec (.bar p g) s = .next t ∧ t.cur = some v ∧ Claims.Waits w v (.bar g.toNat (b.phase g.toNat) false) ∧
          (t.block w.block).phases = b.phases ∧ (t.block w.block).marks = b.marks ++ [(g.toNat, w.index, w.cur)])) ∧
      (∃ t v, exec (.waitb p g h) s = .next t ∧ t.cur = some v ∧ t.blocks = s.blocks ∧
        if b.phase g.toNat = h then Claims.Waits w v (.waitb g.toNat h false) else Claims.Ends w v))

/-- R371, R62: on a quiet memory path WAITA and WAITBIT read the word or bit; met, they end with SCC = 1, else their fragment waits, with the time
limit of c14. R159, R196: WAITA's scratchpad offset traps as an access of four bytes. R191, R375: WAITC ends where at most `n` operations
of the class are outstanding, or all that are belong to the `n` issued last; else it waits for the others. -/
def Obligations.WaitForms : Prop :=
  ∀ (s : State) (w : Wave) (p : Bool), s.Issues w →
    let r := { w with readPc := w.pc }
    (∀ (a v : SReg) (c : WCond), let x := (w.s a).toNat
      let size := (s.blockOf w).scratch.size
      let wait := WaitFor.waita c (w.s v) .scratch x 0 w.wakeTo.toNat
      (w.pending = [] → x % 4 ≠ 0 → ∃ t, exec (.waita p a v c .scratch) s = .next t ∧
        Claims.TakesTrap s w (Claims.waveCause w 0x04 (BitVec.ofNat 64 x)) t) ∧
      (w.pending = [] → x % 4 = 0 → size < x + 4 → ∃ t, exec (.waita p a v c .scratch) s = .next t ∧
        Claims.TakesTrap s w (Claims.waveCause w 0x03 (BitVec.ofNat 64 x)) t) ∧
      (x % 4 = 0 → x + 4 ≤ size → Claims.Quiet s w → ∃ t u, exec (.waita p a v c .scratch) s = .next t ∧ t.cur = some u ∧
        (Claims.meets c (Claims.wordOf (s.blockOf w).scratch.get x) (w.s v) → Claims.Ends r u ∧ (u.cur = w.cur → u.scc = true)) ∧
        (¬ Claims.meets c (Claims.wordOf (s.blockOf w).scratch.get x) (w.s v) → Claims.Waits r u wait))) ∧
    (∀ (a v : SReg) (c : WCond) (pa : Nat), Claims.Quiet s w → (w.s64 a).toNat < 2 ^ 52 → (w.s64 a).toNat % 4 = 0 →
      Claims.Reaches s w .load (w.s64 a).toNat pa → ∃ t u, exec (.waita p a v c .global) s = .next t ∧ t.cur = some u ∧ t.mem = s.mem ∧
        (Claims.meets c (Claims.wordOf s.peek pa) (w.s v) → Claims.Ends r u ∧ (u.cur = w.cur → u.scc = true)) ∧
        (¬ Claims.meets c (Claims.wordOf s.peek pa) (w.s v) → ∃ e, Claims.page s w (w.s64 a).toNat = some e ∧
          Claims.Waits r u (.waita c (w.s v) .global pa e.leaf.key w.wakeTo.toNat))) ∧
    (∀ (b i : SReg) (pa : Nat), Claims.Quiet s w → (w.s64 b).toNat < 2 ^ 52 →
      let va := ((w.s64 b).toNat + 8 * ((w.s64 i).toNat / 64)) % 2 ^ 52
      let n := (w.s64 i).toNat % 64
      va % 8 = 0 → Claims.Reaches s w .load va pa → ∃ t u, exec (.waitbit p b i) s = .next t ∧ t.cur = some u ∧ t.mem = s.mem ∧
        ((s.peek (pa + n / 8)).getLsbD (n % 8) = true → Claims.Ends r u ∧ (u.cur = w.cur → u.scc = true)) ∧
        ((s.peek (pa + n / 8)).getLsbD (n % 8) = false → ∃ e, Claims.page s w va = some e ∧
          Claims.Waits r u (.waitbit pa n e.leaf.key w.wakeTo.toNat))) ∧
    (∀ (cls : EClass) (n : BitVec 6),
      (w.counter cls ≤ n.toNat → exec (.waitc p cls n) s = .next (s.setCur (w.step p))) ∧
      (n.toNat < w.counter cls →
        let last := (w.recent.filter fun x => x.1 == cls).take n.toNat
        let ops := (w.out cls).filter fun o => !last.contains (cls, o)
        (ops = [] → exec (.waitc p cls n) s = .next (s.setCur (w.step p))) ∧
        (ops ≠ [] → ∃ t u, exec (.waitc p cls n) s = .next t ∧ t.cur = some u ∧
          (u.fragAt w.cur).state = .wait ∧ (u.fragAt w.cur).wait = some (.waitc cls ops))))

/-! ### Engine requests -/

/-- R302, R303, R305, R306, R379: a copy whose operands are aligned, inside the allocation and translated is in flight, counted on C, with its
operands read at issue; so is a ZLD or ZST, which counts on none. No byte of memory and no register has changed. With 63 copies
outstanding, whatever else is, the word stalls; an operand that the table of R302 does not allow traps MISALIGN with its value, and a base of 2^52 or
more of ZLD and ZST traps PROT. -/
def Obligations.EngineRequests : Prop :=
  ∀ (s : State) (w : Wave), s.Issues w →
    (∀ (i : Instr) (p : Bool) (d : SReg) (kind : Nat), Claims.copyForm i = some (p, d, kind) →
      (Claims.copyAligned w d kind → Claims.copyInside s w d kind → Claims.copyReaches s w d kind →
        (Claims.Quiet s w → w.counter .c < 63 → ∃ (t : State) (v : Wave) (op : CopyOp), exec i s = .next t ∧ t.copies = [op] ∧ op.id = s.nextOp ∧
          op.wave = s.issuing ∧ op.block = w.block ∧ op.kind = kind ∧ op.n = (w.s (d + 4)).toNat ∧ op.notify = (w.s (d + 5)).toNat ∧
          op.value = w.s (d + 6) ∧ op.sf = w.sf ∧
          (op.src = if kind = 1 then (w.s64 d).toNat else (w.s64 d).toNat % 2 ^ 52) ∧
          (op.dst = if kind = 0 ∨ kind = 3 then (w.s64 (d + 2)).toNat else (w.s64 (d + 2)).toNat % 2 ^ 52) ∧
          (kind ≠ 1 → kind ≠ 3 → Claims.Mapped s w op.map (w.s64 d).toNat op.n) ∧
          (kind ≠ 0 → kind ≠ 3 → Claims.Mapped s w op.map (w.s64 (d + 2)).toNat op.n) ∧
          op.stamp = (if kind = 4 then w.s64 (48 + 2 * BitVec.ofNat 6 ((w.s (d + 7)).toNat % 4)) else 0) ∧ op.moved = 0 ∧ op.top = 0 ∧
          t.mem = s.mem ∧ t.blocks = s.blocks ∧ t.waves = s.waves.set s.issuing v ∧ v.outC = w.outC ++ [op.id] ∧
          v.recent.head? = some (.c, op.id) ∧
          { v.regs with outC := w.outC, recent := w.recent } = w.regs ∧ (v.cur = w.cur → v.pc = w.pc + 4)) ∧
        (Claims.noKeepOut s w → 63 ≤ w.counter .c → exec i s = .next (s.setCur { w with stall := .counter, susp := none }))) ∧
      (∀ x, w.pending = [] → Claims.copyMisaligned w d kind x →
        ∃ t, exec i s = .next t ∧ Claims.TakesTrap s w (Claims.waveCause w 0x04 x) t)) ∧
    (∀ (p load : Bool) (z : ZReg) (r : SReg), let i := if load then Instr.zld p z r else Instr.zst p z r
      z.toNat < (s.blockOf w).tiles.length →
      (w.pending = [] → 2 ^ 52 ≤ (w.s64 r).toNat → ∃ t, exec i s = .next t ∧ Claims.TakesTrap s w (Claims.waveCause w 0x03 (w.s64 r)) t) ∧
      (Claims.Quiet s w → (w.s64 r).toNat < 2 ^ 52 → (w.s64 r).toNat % 128 = 0 → ((s.blockOf w).tile z.toNat).matrix = false →
        (∀ k, k < 4096 → ∃ pa, Claims.Reaches s w (if load then .load else .store) (((w.s64 r).toNat + k) % 2 ^ 52) pa) →
        ∃ (t : State) (v : Wave) (op : XferOp), exec i s = .next t ∧ t.xfers = [op] ∧ op.id = s.nextOp ∧ op.wave = s.issuing ∧
          op.block = w.block ∧ op.z = z.toNat ∧ op.isLoad = load ∧ op.addr = (w.s64 r).toNat ∧ op.sf = w.sf ∧
          Claims.Mapped s w op.map (w.s64 r).toNat 4096 ∧ t.mem = s.mem ∧
          t.blocks = s.blocks ∧ t.waves = s.waves.set s.issuing v ∧ v.regs = w.regs ∧ (v.cur = w.cur → v.pc = w.pc + 4)))

/-- R66, R67, R354: the market of a launch. A request joins the queue behind those that came before it; the oldest is answered with the next tile
number, which no other request receives, at the coordinates of its order; after the last tile, and in a launch without a market, with the end
token, however often it is asked. Word 1 is the ticket k + 1, with the end token MKX × MKY + 1, and 1 without a market. TAKE of a misaligned
address traps MISALIGN, and beyond the allocation PROT. -/
def Obligations.Market : Prop :=
  (∀ (s : State) (w : Wave) (p : Bool) (a : SReg), s.Issues w → (w.s a).toNat % 8 = 0 → (w.s a).toNat + 8 ≤ (s.blockOf w).scratch.size →
    w.counter .d < 63 → ∃ t v, exec (.take p a) s = .next t ∧ t.waves = s.waves.set s.issuing v ∧ v.outD = w.outD ++ [s.nextOp] ∧
      { v.regs with outD := w.outD, recent := w.recent } = w.regs ∧ (v.cur = w.cur → v.pc = w.pc + 4) ∧ t.blocks = s.blocks ∧ t.mem = s.mem ∧
      (t.launchOf w).takes = (s.launchOf w).takes ++ [TakeReq.mk s.issuing (w.s a).toNat s.nextOp]) ∧
  (∀ (s : State) (w : Wave) (p : Bool) (a : SReg), s.Issues w → w.pending = [] →
    ((w.s a).toNat % 8 ≠ 0 → ∃ t, exec (.take p a) s = .next t ∧
      Claims.TakesTrap s w (Claims.waveCause w 0x04 (BitVec.ofNat 64 (w.s a).toNat)) t) ∧
    ((w.s a).toNat % 8 = 0 → (s.blockOf w).scratch.size < (w.s a).toNat + 8 → ∃ t, exec (.take p a) s = .next t ∧
      Claims.TakesTrap s w (Claims.waveCause w 0x03 (BitVec.ofNat 64 (w.s a).toNat)) t)) ∧
  (∀ (s : State) (li : Nat) (q : TakeReq) (r : List TakeReq), li < s.launches.length → (s.launch li).takes = q :: r →
    let d := (s.launch li).desc
    let k := (s.launch li).nextTile
    let bi := (s.wave q.wave).block
    let more := d.morder ≠ 0 ∧ k < d.mkx * d.mky
    ∃ t, exec (.marketAnswer li) s = .next t ∧ (t.launch li).takes = r ∧ t.mem = s.mem ∧
      (more → (t.launch li).nextTile = k + 1) ∧ (¬ more → (t.launch li).nextTile = k) ∧
      (bi < s.blocks.length →
        let x := if d.morder = 2 ∧ k / d.mkx % 2 = 1 then d.mkx - 1 - k % d.mkx else k % d.mkx
        (more → k / d.mkx < 65536 → x < 65536 → Claims.wordOf (t.block bi).scratch.get q.addr = BitVec.ofNat 32 (k / d.mkx * 65536 + x)) ∧
        (¬ more → Claims.wordOf (t.block bi).scratch.get q.addr = 0xFFFFFFFF) ∧
        Claims.wordOf (t.block bi).scratch.get (q.addr + 4) =
          BitVec.ofNat 32 (if more then k + 1 else if d.morder = 0 then 1 else d.mkx * d.mky + 1) ∧
        (∀ a, a < q.addr ∨ q.addr + 8 ≤ a → (t.block bi).scratch.get a = (s.block bi).scratch.get a)) ∧
      (q.wave < s.waves.length → (t.wave q.wave).outD = (s.wave q.wave).outD.filter fun o => o != q.op))

/-! ### The matrix engine -/

/-- R241, R243, R244, R245, R250, R251, R265, R309: a matrix word of a wave that is a gang of one, on an array that its block may hold and with
operands that pass its checks, enters the queue, counted on M; with 63 outstanding, alone or in a gang, or on an array that another block holds, it
stalls; an operand that fails its checks traps with its own cause and address. A member of a gang waits at the latch for the others. R252: the last
member's word completes the rendezvous. Where the words or their HINT.DEP differ every member traps GANG_MISMATCH with the group, and no operation
issues; where they are the same the checks run once with the lead's registers, a failing one traps every member, and else one operation enters the
queue, which every member's M counts. GANG sets the gang, for a group of two to six waves of which the wave is a member, once M is 0; else it traps
PROT. -/
def Obligations.MatrixWords : Prop :=
  ∀ (s : State) (w : Wave), s.Issues w →
    let c := s.coreOf w
    (∀ (i : Instr) (p : Bool) (k : MatKind), Claims.MatrixWord (s.blockOf w) w i p k →
      (w.gang = none → ((s.core c).array.holder = none ∨ (s.core c).array.holder = some w.block) → w.counter .m < 63 →
        ∃ (t : State) (v : Wave) (op : MatOp), exec i s = .next t ∧ t.waves = s.waves.set s.issuing v ∧ op.id = s.nextOp ∧
          v.outM = w.outM ++ [op.id] ∧ { v.regs with outM := w.outM, recent := w.recent } = w.regs ∧ (v.cur = w.cur → v.pc = w.pc + 4) ∧
          (t.core c).array.queue = (s.core c).array.queue ++ [op] ∧ (t.core c).array.holder = some w.block ∧ op.kind = k ∧
          op.block = w.block ∧ op.waves = [s.issuing] ∧ op.begun = false ∧ t.mem = s.mem ∧ t.blocks = s.blocks) ∧
      (w.gang = none → (∃ b, (s.core c).array.holder = some b ∧ b ≠ w.block) →
        exec i s = .next (s.setCur { w with stall := .array, susp := none })) ∧
      (63 ≤ w.counter .m → ((s.core c).array.holder = none ∨ (s.core c).array.holder = some w.block ∨ w.gang ≠ none) →
        exec i s = .next (s.setCur { w with stall := .counter, susp := none })) ∧
      (∀ g, Claims.Gathered s w i g → Claims.AllSame s w i g → ∀ lead, (s.gangMembers w.block g).head? = some lead →
        Claims.MatrixWord (s.blockOf w) (s.wave lead) i p k → ((s.core c).array.holder = none ∨ (s.core c).array.holder = some w.block) →
        (∀ j ∈ s.gangMembers w.block g, Claims.Quiet s (s.wave j)) → ∃ (t : State) (op : MatOp), exec i s = .next t ∧ op.id = s.nextOp ∧
          t.nextOp = s.nextOp + 1 ∧ (t.core c).array.queue = (s.core c).array.queue ++ [op] ∧ (t.core c).array.holder = some w.block ∧
          op.kind = k ∧ op.block = w.block ∧ op.waves = s.gangMembers w.block g ∧ op.gang = some g ∧ op.begun = false ∧ t.mem = s.mem ∧
          (∀ e ∈ (t.block w.block).latch, e.group ≠ g) ∧
          ∀ j ∈ s.gangMembers w.block g, let v := t.wave j
            let u := s.wave j
            v.outM = u.outM ++ [op.id] ∧ { v.regs with outM := u.outM, recent := u.recent, sf := u.sf } = u.regs ∧
              (u.fuseDue = none → v.cur = u.cur → v.pc = u.pc + 4)) ∧
      (∀ g, w.gang = some g → w.counter .m < 63 →
        (∃ j ∈ s.gangMembers w.block g, j ≠ s.issuing ∧ ∀ e ∈ (s.blockOf w).latch, e.group = g → e.wave ≠ j) →
        ∃ t v, exec i s = .next t ∧ t.cur = some v ∧ v.stall = .latch ∧ v.pc = w.pc ∧ v.regs = w.regs ∧
          ∃ e ∈ (t.blockOf w).latch, e.group = g ∧ e.wave = s.issuing)) ∧
    (∀ (i : Instr) (x : BitVec 8) (a : Word64), ((s.core c).array.holder = none ∨ (s.core c).array.holder = some w.block) →
      (Claims.MatrixFails (s.blockOf w) w i x a → w.gang = none → w.counter .m < 63 → w.pending = [] →
        ∃ t, exec i s = .next t ∧ Claims.TakesTrap s w (Claims.waveCause w x a) t) ∧
      (∀ g lead, Claims.Gathered s w i g → Claims.AllSame s w i g → (s.gangMembers w.block g).head? = some lead →
        Claims.MatrixFails (s.blockOf w) (s.wave lead) i x a → (s.launchOf w).desc.trapVec ≠ 0 →
        (∀ j ∈ s.gangMembers w.block g, Claims.Quiet s (s.wave j) ∧ (s.wave j).inTrap = false) →
        ∃ t, exec i s = .next t ∧ Claims.EachTraps s t w g x a ∧ (t.core c).array.queue = (s.core c).array.queue)) ∧
    (∀ (i : Instr) (g : Nat), Claims.isMatrixWord i = true → Claims.Gathered s w i g →
      ¬ Claims.AllSame s w i g → (s.launchOf w).desc.trapVec ≠ 0 →
      (∀ j ∈ s.gangMembers w.block g, (s.wave j).pending = [] ∧ (s.wave j).inTrap = false) →
      ∃ t, exec i s = .next t ∧ Claims.EachTraps s t w g 0x09 (BitVec.ofNat 64 g) ∧ (t.core c).array.queue = (s.core c).array.queue) ∧
    (∀ (p : Bool) (g : BitVec 8), let l := s.launchOf w
      let n := ((s.blockOf w).waves.filter fun j => l.isMember g.toNat (s.wave j).index).length
      (l.isMember g.toNat w.index = true → 2 ≤ n → n ≤ 6 → w.outM = [] →
        exec (.gang p g) s = .next (s.setCur ({ w with gang := some g.toNat }.step p))) ∧
      (l.isMember g.toNat w.index = true → 2 ≤ n → n ≤ 6 → w.outM ≠ [] →
        exec (.gang p g) s = .next (s.setCur { w with stall := .gang, susp := none })) ∧
      (w.pending = [] → (l.isMember g.toNat w.index = false ∨ n < 2 ∨ 6 < n) →
        ∃ t, exec (.gang p g) s = .next t ∧ Claims.TakesTrap s w (Claims.waveCause w 0x03 (BitVec.ofNat 64 g.toNat)) t))

/-- R250, R253, R264, R266: a matrix operation begins exactly where nothing earlier holds it back, for the cycles of its kind. (That an LDSTAT begins
only when an earlier LDSTAT has passed its last bytes is log 19: DESIGN CHOICE, no rule of the spec.) R243, R244, R245, R265: one that may complete
leaves the queue, and M falls for every wave that it counts on. SWAPS exchanges the planes; LDSTAT loads the shadow plane column by column; MMA and
RMMA put their output into the rows of the block's tiles, from the active plane. R155, R156, R246: an MMA of I8 adds the sum of products modulo 2^32,
of the other types one exact sum for each group with one rounding, in ascending order. R157: an RMMA adds the product of each arrival in the window,
in ascending rank. (With no arrival the accumulator stays as it is, the payload of a NaN too: log 35: DESIGN CHOICE.) -/
def Obligations.MatrixEffects : Prop :=
  (∀ (s : State) (c k : Nat) (o : MatOp), c < s.cores.length → (s.core c).array.queue[k]? = some o →
    (Claims.Begins s c k o → ∃ (t : State) (n : Nat), exec (.matrixOpBegin c k) s = .next t ∧
      (t.core c).array.queue[k]? = some { o with begun := true, beginAt := s.cycle c, cycles := n } ∧ t.waves = s.waves ∧ t.blocks = s.blocks ∧
      t.mem = s.mem ∧ (o.kind = .swaps → n = 2) ∧ (∀ kc ty m b x, o.kind = .ldstat kc ty m b x → n = (Claims.matrixBytes ty kc 32 + 255) / 256) ∧
      (∀ z m kc ty acc sp a, o.kind = .mma z m kc ty acc sp a → n = 8 * 2 ^ (MRows.code m).toNat) ∧
      (∀ z p ty r acc a x, o.kind = .rmma z p ty r acc a x → r ≤ n)) ∧
    (¬ Claims.Begins s c k o → exec (.matrixOpBegin c k) s = .next s) ∧
    (s.mayEnd c k = true → ∃ t, exec (.matrixOpComplete c k) s = .next t ∧ (t.core c).array.queue = (s.core c).array.queue.eraseIdx k ∧
      t.mem = s.mem ∧ (∀ j ∈ o.waves, j < s.waves.length → o.id ∉ (t.wave j).outM) ∧
      (o.kind = .swaps → (t.core c).array.active = (s.core c).array.shadow ∧ (t.core c).array.shadow = (s.core c).array.active ∧ t.blocks = s.blocks) ∧
      (∀ kc ty m b x, o.kind = .ldstat kc ty m b x → (t.core c).array.active = (s.core c).array.active ∧ t.blocks = s.blocks ∧
        (t.core c).array.shadow = loadPlane (s.block o.block).scratch.get ty kc m b x) ∧
      (∀ z m kc ty acc sp a, o.kind = .mma z m kc ty acc sp a → o.sums = [] → (t.core c).array.active = (s.core c).array.active ∧
        t.blocks = s.blocks.modify o.block fun b => b.mma (s.core c).array.active z m kc ty acc sp a) ∧
      (∀ z p ty r acc a x, o.kind = .rmma z p ty r acc a x → o.sums = [] → (t.core c).array.active = (s.core c).array.active ∧
        t.blocks = s.blocks.modify o.block fun b => b.rmma (s.core c).array.active z p ty r acc a x))) ∧
  (∀ (f : Nat → Byte) (t : MType) (k : KCode) (m : Bool) (b x n r e : Nat), t ≠ .blk4 → n < 32 → r < Claims.storedElems t k →
    e < Claims.elemBits t / 8 → (((loadPlane f t k m b x).weight.getD n []).getD (r * (Claims.elemBits t / 8) + e) 0) =
      f (b + (32 * r + n) * (Claims.elemBits t / 8) + e)) ∧
  (∀ (f : Nat → Byte) (k : KCode) (m : Bool) (b x n r : Nat), n < 32 → r < Claims.storedElems .blk4 k →
    (colByte (loadPlane f .blk4 k m b x).weight n (r / 2)).toNat / 16 ^ (r % 2) % 16 = (f (b + 16 * r + n / 2)).toNat / 16 ^ (n % 2) % 16 ∧
    colByte (loadPlane f .blk4 k m b x).scale n (r / 32) = f (b + 16 * Claims.storedElems .blk4 k + 32 * (r / 32) + n)) ∧
  (∀ (b : Block) (pl : Plane) (z : Nat) (m : MRows) (k : KCode) (t : MType) (acc sp : Bool) (a i j : Nat), i < 32 → j < 32 →
    (∀ y ∈ (if t = .f64 then [z, z + 1] else [z]), y < b.tiles.length ∧ (b.tile y).words.length = 1024) → (sp = true → t ≠ .f64 ∧ t ≠ .f32) →
    let rows := 8 * 2 ^ (MRows.code m).toNat
    let n := Claims.storedElems t k
    let wide := t == .f64
    let start := if acc then Claims.tileNat b z i j wide else 0
    let new := Claims.tileNat (b.mma pl z m k t acc sp a) z i j wide
    let row := Claims.rowOfA t rows n a i b.scratch.get
    (rows ≤ i → new = Claims.tileNat b z i j wide) ∧
    (i < rows → t = .i8 → new = (BitVec.ofInt 32 (start +
      ((List.range n).map fun q => (row.1 q).toInt * (colByte pl.weight j q).toInt).sum)).toNat) ∧
    (i < rows → t ≠ .i8 → new = Claims.products t sp n (Claims.element t row.1 row.2)
      (Claims.element t (colByte pl.weight j) (colByte pl.scale j)) start) ∧
    ∀ y, y ≠ z → (t = .f64 → y ≠ z + 1) → (b.mma pl z m k t acc sp a).tile y = b.tile y) ∧
  (∀ (b : Block) (pl : Plane) (z p : Nat) (t : WType) (r : Nat) (acc : Bool) (a kbase i j n : Nat), z < b.tiles.length → i < 32 → j < 32 →
    (b.tile z).words.length = 1024 →
    let new := Claims.tileNat (b.rmma pl z p t r acc a kbase) z i j false
    let entry := fun q => leNat b.scratch.get (a + 128 * i + 2 * q) 2
    n ≤ 64 → (∀ q, q < n → entry q < 0x8000) → (n = 64 ∨ 0x8000 ≤ entry n) →
    (r ≤ i → new = Claims.tileNat b z i j false) ∧
    (i < r → new = Claims.arrivals (fun q => Fmt.f32.decode ((b.pals.getD p []).getD q 0).toNat)
      (Claims.element (Claims.weights t) (colByte pl.weight j) fun _ => 0) entry kbase (Claims.storedElems (Claims.weights t) .k1) n
      (if acc then Claims.tileNat b z i j false else 0)) ∧
    ∀ y, y ≠ z → (b.rmma pl z p t r acc a kbase).tile y = b.tile y)

/-! ### Tiles -/

/-- R247, R248, R377 to R381: a tile form on a slot that the block does not have traps PROT, and, but for ZGIVE and ZTAKE, one whose token stands on
the matrix side traps TOKEN: ZLD and ZST once their addresses have passed their checks. A form on a slot with an outstanding ZLD or ZST waits for it.
ZZERO writes 0 to the slot; ZRD reads its row, or two, as a long-class result; ZWR writes the lanes of EXEC; ZGIVE and ZTAKE move the token, ZTAKE
once no matrix operation that writes the slot is in the queue. -/
def Obligations.TileForms : Prop :=
  ∀ (s : State) (w : Wave) (p : Bool) (z : ZReg) (r : SReg) (v : VReg), s.Issues w → (w.width = 16 ∨ w.width = 32 ∨ w.width = 64) →
    let b := s.blockOf w
    let put := fun (t : Tile) (u : Wave) => (s.modBlock w.block fun g => { g with tiles := g.tiles.set z.toNat t }).setCur u
    (w.pending = [] → b.tiles.length ≤ z.toNat →
      ∀ i, Claims.tileForm i = some (z, true) ∨ Claims.tileForm i = some (z, false) →
        ∃ t, exec i s = .next t ∧ Claims.TakesTrap s w (Claims.waveCause w 0x03 (BitVec.ofNat 64 z.toNat)) t) ∧
    (w.pending = [] → z.toNat < b.tiles.length → (b.tile z.toNat).matrix = true →
      ∀ i ∈ [Instr.zzero p z, Instr.zrd p z r v, Instr.zwr p z r v],
        ∃ t, exec i s = .next t ∧ Claims.TakesTrap s w (Claims.waveCause w 0x08 (BitVec.ofNat 64 z.toNat)) t) ∧
    (∀ load : Bool, let i := if load then Instr.zld p z r else Instr.zst p z r
      z.toNat < b.tiles.length → (w.s64 r).toNat < 2 ^ 52 → (w.s64 r).toNat % 128 = 0 →
      (∀ k, k < 4096 → ∃ pa, Claims.Reaches s w (if load then .load else .store) (((w.s64 r).toNat + k) % 2 ^ 52) pa) →
      (w.pending = [] → (b.tile z.toNat).matrix = true →
        ∃ t, exec i s = .next t ∧ Claims.TakesTrap s w (Claims.waveCause w 0x08 (BitVec.ofNat 64 z.toNat)) t) ∧
      ((b.tile z.toNat).matrix = false → (∃ x ∈ s.xfers, x.block = w.block ∧ x.z = z.toNat) →
        exec i s = .next (s.setCur { w with stall := .tile, susp := none }))) ∧
    (z.toNat < b.tiles.length → (∃ x ∈ s.xfers, x.block = w.block ∧ x.z = z.toNat) →
      exec (.zgive p z) s = .next (s.setCur { w with stall := .tile, susp := none }) ∧
      exec (.ztake p z) s = .next (s.setCur { w with stall := .ztake, susp := none }) ∧
      ((b.tile z.toNat).matrix = false → ∀ i ∈ [Instr.zzero p z, Instr.zrd p z r v, Instr.zwr p z r v],
        exec i s = .next (s.setCur { w with stall := .tile, susp := none }))) ∧
    (z.toNat < b.tiles.length → (∀ x ∈ s.xfers, x.block = w.block → x.z ≠ z.toNat) →
      (exec (.zgive p z) s = .next (put { b.tile z.toNat with matrix := true } (w.step p))) ∧
      ((∀ o ∈ (s.core (s.coreOf w)).array.queue, o.block = w.block → z.toNat ∉ o.kind.slots) →
        exec (.ztake p z) s = .next (put { b.tile z.toNat with matrix := false } (w.step p))) ∧
      ((∃ o ∈ (s.core (s.coreOf w)).array.queue, o.block = w.block ∧ z.toNat ∈ o.kind.slots) →
        exec (.ztake p z) s = .next (s.setCur { w with stall := .ztake, susp := none })) ∧
      ((b.tile z.toNat).matrix = false →
        (exec (.zzero p z) s = .next (put ⟨List.replicate 1024 0, false⟩ (w.step p))) ∧
        (∃ g : Nat → Nat → Word, exec (.zrd p z r v) s = .next (s.setCur ((w.laterAt (s.cycle (s.coreOf w) + 8) ((List.range (if w.width = 16 then 2 else 1)).map fun k =>
            .v (v.toNat + k) w.exec (w.perLane (g k)))).step p)) ∧
          ∀ k l, l < w.width → g k l = (b.tile z.toNat).words.getD (Claims.tileWord w.width ((w.s r).toNat % 32) k l) 0) ∧
        (∃ ws : List Word, exec (.zwr p z r v) s = .next (put ⟨ws, false⟩ (w.step p)) ∧ ws.length = 1024 ∧
          (∀ k l, k < (if w.width = 16 then 2 else 1) → l ∈ w.active →
            ws.getD (Claims.tileWord w.width ((w.s r).toNat % 32) k l) 0 = w.vn (v.toNat + k) l) ∧
          (∀ n, (∀ k l, k < (if w.width = 16 then 2 else 1) → l ∈ w.active → n ≠ Claims.tileWord w.width ((w.s r).toNat % 32) k l) →
            ws.getD n 0 = (b.tile z.toNat).words.getD n 0))))

/-! ### Rank -/

/-- R258, R262, R263, R268, R332: RANK, LDPAL and RKREC, with aligned operands inside the allocation and counts within their limits, enter the
rank engine, counted on K; RKREC leaves its registers outstanding. RANK's candidates are exactly the elements of the lanes of EXEC that are no NaN and,
gated, above c13, each once, with its bits and its index. RANK of more than 256 elements, or beyond index 4,095, and RKREC of a register that is no
multiple of 256 / W take the trap WIDTH; an operand that is misaligned or beyond the allocation takes MISALIGN or PROT, but for RANK with cont. -/
def Obligations.RankWords : Prop :=
  ∀ (s : State) (w : Wave) (p : Bool), s.Issues w →
    (∀ (a : VReg) (n : NReg) (t : RType) (d : SReg) (c : BitVec 6) (o g : Bool),
      let e := w.width * 2 ^ (NReg.code n).toNat
      let base := (w.s (d + 1)).toNat
      (w.pending = [] → (256 < e ∨ 4096 < base + e) →
        ∃ u, exec (.rank p a n t d c o g) s = .next u ∧ Claims.TakesTrap s w (Claims.waveCause w 0x0A 0) u) ∧
      (∀ x y, w.pending = [] → e ≤ 256 → base + e ≤ 4096 → o = false → Claims.operandFails (s.blockOf w).scratch.size (w.s d).toNat 128 x y →
        ∃ u, exec (.rank p a n t d c o g) s = .next u ∧ Claims.TakesTrap s w (Claims.waveCause w x y) u) ∧
      (e ≤ 256 → base + e ≤ 4096 → w.counter .k < 63 → (o = false → Claims.rankOperand s w (w.s d).toNat 128) → ∃ u v cands,
        exec (.rank p a n t d c o g) s = .next u ∧ Claims.RankEntered s u w v (.rank cands (c.toNat + 1) o (w.s d).toNat) [] ∧
        (cands.map fun x => x.index).Nodup ∧
        ∀ x, x ∈ cands ↔ ∃ k l, k < 2 ^ (NReg.code n).toNat ∧ l < w.width ∧ w.exec.getLsbD l = true ∧
          x = RankElem.mk t (base + k * w.width + l) (Claims.rankBits t (w.vn (a.toNat + k) l)) ∧ Claims.isNumber x ∧
          (g = true → Claims.passes w.gate t x.bits))) ∧
    (∀ (l : PalReg) (a : SReg),
      (w.counter .k < 63 → Claims.rankOperand s w (w.s a).toNat 256 → ∃ u v,
        exec (.ldpal p l a) s = .next u ∧ Claims.RankEntered s u w v (.ldpal l.toNat (w.s a).toNat) []) ∧
      (∀ x y, w.pending = [] → Claims.operandFails (s.blockOf w).scratch.size (w.s a).toNat 256 x y →
        ∃ u, exec (.ldpal p l a) s = .next u ∧ Claims.TakesTrap s w (Claims.waveCause w x y) u)) ∧
    (∀ (l : PalReg) (a : SReg) (d : VReg) (t : PType), let x := (w.s a).toNat % 2 ^ 20
      (w.counter .k < 63 → Claims.rankOperand s w x 128 → d.toNat % (256 / w.width) = 0 → ∃ u v y,
        exec (.rkrec p l a d t) s = .next u ∧
        Claims.RankEntered s u w v (.rkrec l.toNat x ((w.s a).toNat / 2 ^ 20) d.toNat t w.exec) [y] ∧ y.tag = .rank s.nextOp) ∧
      (w.pending = [] → d.toNat % (256 / w.width) ≠ 0 →
        ∃ u, exec (.rkrec p l a d t) s = .next u ∧ Claims.TakesTrap s w (Claims.waveCause w 0x0A 0) u) ∧
      (∀ y z, w.pending = [] → d.toNat % (256 / w.width) = 0 → Claims.operandFails (s.blockOf w).scratch.size x 128 y z →
        ∃ u, exec (.rkrec p l a d t) s = .next u ∧ Claims.TakesTrap s w (Claims.waveCause w y z) u))

/-- R258, R259: merging numbers into a held state that stands in rank order keeps the best: the result stands in rank order, has no more than C
elements, all of them held or candidates, and none that was left out comes before one that was kept. -/
def Obligations.RankOrder : Prop :=
  ∀ (held cands : List RankElem) (c : Nat), (∀ x ∈ held ++ cands, Claims.isNumber x) → held.Pairwise Claims.rankFirst →
    (rankMerge held cands c).Pairwise Claims.rankFirst ∧ (rankMerge held cands c).length = min c (held.length + cands.length) ∧
    ∃ rest, (rankMerge held cands c ++ rest).Perm (held ++ cands) ∧ ∀ x ∈ rankMerge held cands c, ∀ y ∈ rest, Claims.rankFirst x y

/-! ### Events of waves and engines -/

/-- R91, R92, R217: a long-class result that is ready writes its registers, only lanes that it names, and SF rises. R224: a home answers an as-of
load once its count has passed. R96, R161, R164: a suspended load goes on with its walks: unmapped pages trap PAGE, mapped ones load what
memory holds. R72, R101: a fetch takes the word at PC, or ends the launch with REJECT_SCAN. R28, R170, R325: a wave ends with nothing
buffered and no reservation. R62, R371: a waiting fragment goes on with SCC 1 when its word meets its condition, or has met it at a store event, and
with 0 at its limit. R73: of the
overdue waves the one that has waited longest issues, or no word that needs the datapath which holds it back; a core cycle counts up for a candidate
not issued. R79, R285: the end of a wave's slice, whose timer stands still while its partition is stopped. -/
def Obligations.WaveEvents : Prop :=
  (∀ (w : Wave) (r : Nat) (m : Mask) (xs : List Word) (q l : Nat), (w.applyWrite (.v r m xs)).vn q l =
    if q = r ∧ l < (w.vregs.getD q []).length ∧ m.getLsbD l = true then xs.getD l 0 else w.vn q l) ∧
  (∀ (s : State) (cs : List Cand) (x : Cand), x ∈ cs → 896 ≤ (s.wave x.wave).waitCount →
    (∀ y ∈ cs, y = x ∨ (s.wave y.wave).waitCount < (s.wave x.wave).waitCount ∨
      ((s.wave y.wave).waitCount = (s.wave x.wave).waitCount ∧ (s.wave x.wave).slot < (s.wave y.wave).slot)) →
    (x.blocked = false → (s.wave x.wave).skipCycle = false → s.choosePart cs = some x.wave) ∧
    (x.blocked = true → ∀ j, s.choosePart cs = some j → ∃ y ∈ cs, y.wave = j ∧ y.blocked = false ∧ y.next.vector = false)) ∧
  (∀ (s : State) (core part : Nat) (cs : List Cand) (issued : Option Nat) (i : Nat), i < s.waves.length → s.partKey i = 4 * core + part →
    let w := (s.countWaits core part cs issued).wave i
    ((∃ c ∈ cs, c.wave = i) → issued ≠ some i → w.waitCount = (s.wave i).waitCount + 1) ∧
    (((∀ c ∈ cs, c.wave ≠ i) ∨ issued = some i) → w.waitCount = 0)) ∧
  (∀ (s : State) (i : Nat) (w : Wave), s.Inv → i < s.waves.length → s.wave i = w → s.runs i = true →
    (∀ k x, w.pending[k]? = some x → (x.tag = .ready ∨ ∃ c, x.tag = .timed c ∧ c ≤ s.cycle (s.coreOf w)) →
      ∃ t, exec (.longResultReturn i k) s = .next t ∧
      (t.wave i).sregs = (x.writes.foldl Wave.applyWrite w).sregs ∧ (t.wave i).vregs = (x.writes.foldl Wave.applyWrite w).vregs ∧
      (t.wave i).pending.length + 1 = w.pending.length ∧ w.sf.toNat ≤ (t.wave i).sf.toNat ∧ x.sf.toNat ≤ (t.wave i).sf.toNat) ∧
    (∀ k x l a, w.pending[k]? = some x → x.tag = .asof l a → Claims.Still s →
      (∀ y ∈ l.bytes, a.toNat / 4 < (s.tower (homeOf y)).count) →
      ∃ t y, exec (.homeAsofRead i k) s = .next t ∧ t.wave i = { w with pending := w.pending.set k y } ∧ y.tag = .ready ∧ t.mem = s.mem ∧
        ∀ (v : VReg) (place : Nat → Nat) (img : Nat → Nat → Byte), l.dest = .v v.toNat → x.writes.length = MSize.regs l.size →
          l.lanes = w.active.map (fun j => (j, place j)) →
          (∀ j ∈ w.active, place j % MSize.bytes l.size = 0 ∧ Claims.ReadsBack s s.seals (l.key (place j)) (place j) ∧
            ∃ kp, s.keepOf (place j) = some kp ∧ Claims.AsOf s kp (lineOf (place j)) a (img j) (l.key (place j)) (place j)) →
          Claims.Loads w v l.size (fun j n => img j (place j - lineOf (place j) + n)) y.writes) ∧
    (∀ p v b o z c f, w.susp = some (.ld p v b o z c) → w.pending = [] → s.stoppedWave w = false → (s.blockOf w).victim = none →
      w.active.head? = some f → (w.s64 b).toNat < 2 ^ 52 →
      (∀ l ∈ w.active, Claims.laneAddress w b o l % MSize.bytes z = 0 ∧
        findTlb (s.core (s.coreOf w)).tlb (s.funcOf w) (Claims.laneAddress w b o l / 65536) = none) →
      ((∀ l ∈ w.active, s.walkVia (s.coreOf w) (s.funcOf w) (Claims.laneAddress w b o l) = .page) →
        ∃ t, exec (.translationCheckComplete i) s = .next t ∧
          Claims.TakesTrap { s with issuing := i } w (Claims.waveCause w 0x02 (BitVec.ofNat 64 (Claims.laneAddress w b o f))) t) ∧
      (∀ place : Nat → Nat, Claims.Quiet s w → w.hints.ord = none →
        (∀ l ∈ w.active, ∃ g e, s.walkVia (s.coreOf w) (s.funcOf w) (Claims.laneAddress w b o l) = .ok g e ∧ e.rd = true ∧
          s.keyOk (s.funcOf w) e.key = true ∧ place l = g * 65536 + Claims.laneAddress w b o l % 65536 ∧ peerOf (place l) = 0 ∧
          Claims.ReadsBack s s.seals e.key (place l)) →
        ∃ t x, exec (.translationCheckComplete i) s = .next t ∧ x.tag = .ready ∧ Claims.Loads w v z (fun l k => s.peek (place l + k)) x.writes ∧
          t.wave i = (w.pendRead w.pc x).step p ∧ t.mem = s.mem)) ∧
    (s.ready w = true → w.fetched = none →
      (∀ g e, s.fetchWalk w = .ok g e → s.keyOk (s.funcOf w) e.key = true → e.x = true → s.verifiedPage g = true →
        let a := g * 65536 + w.pc.toNat % 65536
        w.pc.toNat % 4 = 0 → Claims.ReadsBack s s.seals e.key a →
        ∃ t, exec (.instructionFetchComplete i) s = .next t ∧ t.wave i = { w with ibuf := some (w.pc, s.peek32 a) } ∧ t.mem = s.mem) ∧
      (s.fetchWalk w ≠ .wait →
        (∀ g e, s.fetchWalk w = .ok g e → s.keyOk (s.funcOf w) e.key = false ∨ e.x = false ∨ s.verifiedPage g = false) →
        (s.launchOf w).live = true → ∃ t, exec (.instructionFetchFail i) s = .next t ∧ (t.launchOf w).status = .rejScan ∧
          (t.launchOf w).pc = w.pc.toNat)) ∧
    (w.ended = false → w.awaiting = false → (∀ e, e < 8 → (w.fragAt e).state = .free) → w.pending = [] → w.outC = [] → w.outM = [] → w.outK = [] →
      w.outD = [] →
      ∃ t, exec (.waveEnd i) s = .next t ∧ (t.wave i).ended = true ∧ (∀ r ∈ t.resvs, r.wave ≠ i) ∧ ∀ a, t.wcByte i a = none) ∧
    (∀ e c tm, e < 8 → w.ended = false → s.stoppedWave w = false → w.fuseDue = none → (w.fragAt e).state = .wait →
      (w.fragAt e).wait = some c → Claims.wordWait c = some tm → Claims.Still s → (s.partOf w).wc = [] →
      (Claims.waitMet s w c → ∃ t, exec (.waitPollTick i e) s = .next t ∧
        ((t.wave i).fragAt e).state = .live ∧ Claims.sccOf (t.wave i) e = true ∧ w.sf.toNat ≤ (t.wave i).sf.toNat) ∧
      ((w.fragAt e).seen.isSome = true → ∃ t, exec (.waitPollTick i e) s = .next t ∧
        ((t.wave i).fragAt e).state = .live ∧ Claims.sccOf (t.wave i) e = true) ∧
      (¬ Claims.waitMet s w c → (w.fragAt e).seen = none → (∃ t, exec (.waitPollTick i e) s = .next t ∧ t.mem = s.mem ∧
          t.wave i = w.modFrag e fun f => { f with pollAt := f.waited + pollTick }) ∧
        (0 < tm → tm ≤ (w.fragAt e).waited → ∃ t, exec (.waketoExpiry i e) s = .next t ∧
          ((t.wave i).fragAt e).state = .live ∧ Claims.sccOf (t.wave i) e = false))) ∧
    exec (.waitOverdue i) s = .next s ∧
    ((s.blockOf w).victim ≠ none → w.sliceFrom + (s.func (s.funcOf w)).fslice ≤ s.cycle (s.coreOf w) → s.stoppedWave w = false →
      ∃ t, exec (.sliceExpiry i) s = .next t ∧ (t.wave i).sliceDone = true) ∧
    (s.cycle (s.coreOf w) < w.sliceFrom + (s.func (s.funcOf w)).fslice ∨ s.stoppedWave w = true → exec (.sliceExpiry i) s = .next s))

/-- R304, R306, R87: where nothing is on its way, a copy moves the bytes that are left, those of a CPYAS as of its stamp, writes its notify word, and
C falls; SF takes its stamp (R217). R258, R262, R263, R268: the oldest rank operation completes: LDPAL loads the palette, RANK writes the code of the
merged state or keeps it held, RKREC writes the palette's value at the lowest rank whose index is the element's, or +0, and K falls. R379: a tile
transfer moves 4,096 bytes between the slot and memory. -/
def Obligations.EngineEvents : Prop :=
  ∀ s : State, s.Inv →
    (∀ (op : Nat) (c : CopyOp) (byte : Nat → Byte), s.copies.find? (fun d => d.id == op) = some c → c.kind < 5 → Claims.Still s →
      c.moved ≤ c.n → (c.kind = 3 → c.moved = 0 ∧ c.n = 128 * c.rows.length) → c.block < s.blocks.length → c.wave < s.waves.length →
      let n := c.n - c.moved
      (∀ a ∈ c.dests n, s.keepOf a = none ∧ (peerOf a = 0 ∨ sealOf s.seals a = none)) → (∀ k, k < n → Claims.CopyByte s c k (byte k)) →
      ∃ t, exec (.copyComplete op) s = .next t ∧ (∀ d ∈ t.copies, d.id ≠ op) ∧ op ∉ (t.wave c.wave).outC ∧
        c.top.toNat ≤ (t.wave c.wave).sf.toNat ∧
        ((c.kind = 1 ∨ c.kind = 2 ∨ c.kind = 4) → Claims.Wrote s t c.map (c.dests n) byte) ∧
        ((c.kind = 0 ∨ c.kind = 3) → t.mem = s.mem ∧ ∀ k, k < n →
          (c.notify = 0xFFFFFFFF ∨ c.dst + c.moved + k < c.notify ∨ c.notify + 4 ≤ c.dst + c.moved + k) →
          (t.block c.block).scratch.get (c.dst + c.moved + k) = byte k) ∧
        (c.notify ≠ 0xFFFFFFFF → Claims.wordOf (t.block c.block).scratch.get c.notify = c.value)) ∧
    (∀ (core : Nat) (o : RankOp) (r : List RankOp), core < s.cores.length → (s.core core).rankq = o :: r → s.rankWaits core o = false →
      o.block < s.blocks.length → o.wave < s.waves.length → ∃ t, exec (.rankOpComplete core) s = .next t ∧ (t.core core).rankq = r ∧
        o.id ∉ (t.wave o.wave).outK ∧ t.mem = s.mem ∧
        (∀ p a, o.kind = .ldpal p a → p < (s.block o.block).pals.length → ∀ i, i < 64 →
          ((t.block o.block).pals.getD p []).getD i 0 = Claims.wordOf (s.block o.block).scratch.get (a + 4 * i)) ∧
        (∀ cands n a, o.kind = .rank cands n false a → ∀ i, i < 64 → let x := (t.block o.block).scratch.get
          x (a + 2 * i + 1) ++ x (a + 2 * i) = BitVec.ofNat 16 (match (rankMerge (s.wave o.wave).rank cands n)[i]? with
            | some e => e.index
            | none => 0x8000)) ∧
        (∀ cands n a, o.kind = .rank cands n true a → (t.wave o.wave).rank = rankMerge (s.wave o.wave).rank cands n ∧ t.blocks = s.blocks) ∧
        (∀ p a b v y m, o.kind = .rkrec p a b v y m → let w := s.wave o.wave
          (∀ x ∈ (t.wave o.wave).pending, x.tag ≠ .rank o.id) ∧
          ∀ (k : Nat) (x : Pending), w.pending[k]? = some x → x.tag = .rank o.id → ∃ z, (t.wave o.wave).pending[k]? = some z ∧ z.tag = .ready ∧
            ∀ q, q < 256 / w.width → ∃ xs, z.writes[q]? = some (.v (v + q) m xs) ∧ ∀ l, l < w.width →
              Claims.Recalled y ((s.block o.block).pals.getD p []) (s.block o.block).scratch.get a (b + q * w.width + l) (xs.getD l 0))) ∧
    (∀ (op : Nat) (x : XferOp), s.xfers.find? (fun d => d.id == op) = some x → Claims.Still s →
      x.block < s.blocks.length → x.z < (s.block x.block).tiles.length →
      (x.isLoad = false → ∀ a ∈ x.phys, s.keepOf a = none ∧ (peerOf a = 0 ∨ sealOf s.seals a = none)) →
      ∃ t, exec (.tileTransferComplete op) s = .next t ∧ (∀ d ∈ t.xfers, d.id ≠ op) ∧
        (x.isLoad = true → t.mem = s.mem ∧ ∀ i, i < 1024 → ((t.block x.block).tile x.z).words.getD i 0 =
          Claims.wordOf (fun k => s.peekBy (keyIn x.map (x.phys.getD k 0 / 65536)) (x.phys.getD k 0)) (4 * i)) ∧
        (x.isLoad = false → Claims.Wrote s t x.map x.phys fun k =>
          ((((s.block x.block).tile x.z).words.getD (k / 4) 0) >>> (8 * (k % 4))).setWidth 8))

/-! ### Events of the memory path and of history -/

/-- R173, R214, R216, R217, R222, R228: a store request at the head of its line is performed as one event: its bytes are in memory under its key, its
stamp is above the request's floor and every earlier stamp of the line, with the home's tower number, SF of its wave has risen to it, and on
a registered page a record holds the line as it stood before. R170, R174: buffered and dirty bytes leave as requests or go into the remote cache, and
clean words expire. R188, R231, R338: an expired pin writes its words back, or waits for room in a log, and tells the lanes whose reservation
stood on it. R169: L1 leases. R213: the clock exchange. The premises bound the counts: none has wrapped. The record of an event comes to memory at the
model's own place, with no event of its own, and a pin without room waits: the model's choices (log 42: DESIGN CHOICE, DEDUCED). -/
def Obligations.HomeEvents : Prop :=
  ∀ s : State, s.Inv →
    (∀ (k : Nat) (r : Req), s.reqs[k]? = some r → s.blocked r = false → s.firstOnLine k r.line = true → peerOf r.line = 0 →
      (s.tower (homeOf r.line)).count < 2 ^ 61 → (s.tower (homeOf r.line)).eFloor.toNat < 2 ^ 62 → r.floor.toNat < 2 ^ 62 →
      (∀ h ∈ (s.tower (homeOf r.line)).home, h.stamp.toNat < 2 ^ 62) → (∀ p, s.keepOf r.line = some p → p.ks.toNat < 2 ^ 62) →
      (r.kind = .pin → s.late = []) →
      ∃ t st, exec (.homeStoreEvent k) s = .next t ∧ r.floor.toNat / 4 < st.toNat / 4 ∧ s.lstampOf r.line < st ∧
        st.toNat % 4 = homeOf r.line ∧ (s.tower (homeOf r.line)).count ≤ st.toNat / 4 ∧ st ≤ t.lstampOf r.line ∧
        ((s.tower (homeOf r.line)).homeWays ≠ [] → t.lstampOf r.line = st) ∧ t.reqs = s.reqs.filter (fun q => q.id != r.id) ∧
        (∀ i, r.wave = some i → i < s.waves.length → st.toNat ≤ (t.wave i).sf.toNat) ∧
        (s.keepOf r.line = none → (∀ x ∈ r.bytes, x.1 / 128 = r.line / 128) →
          Claims.Wrote s t [⟨0, r.line / 65536, r.key⟩] (r.bytes.map fun b => b.1) fun i => ((r.bytes.map fun b => b.2).getD i 0)) ∧
        ∀ p, s.keepOf r.line = some p → p.ks < st ∧ ∃ v, (t.tower (homeOf r.line)).log.head? = some v ∧ v.func = p.func ∧
          v.line = r.line ∧ v.stamp = st ∧ v.image = bytesAt s.peek r.line 128 ∧ (∀ a, lineOf a = r.line → sealOf v.seals a = sealOf s.seals a) ∧
          (∀ u ∈ (s.tower (homeOf r.line)).log, u.func = p.func → u.index ≠ v.index) ∧
          t.mem = ((s.poke (s.logCells v)).pokeBy r.key r.bytes).mem) ∧
    (∀ (c q k : Nat) (l : WcLine), ((s.core c).parts.getD q default).wc[k]? = some l → ∃ t, exec (.wcDrainTimeout c q k) s = .next t ∧
      l ∉ ((t.core c).parts.getD q default).wc ∧ t.mem = s.mem ∧
      (homeOf l.line = towerOf c ∨ peerOf l.line ≠ 0 → ∃ r ∈ t.reqs, r.wave = some l.wave ∧ r.line = l.line ∧ r.bytes = l.bytes.reverse ∧
        r.floor = l.sf ∧ r.key = l.key ∧ r.mark = l.mark ∧ r.kind = .store) ∧
      (homeOf l.line ≠ towerOf c → peerOf l.line = 0 → t.reqs.length ≤ s.reqs.length + 1 ∧
        ∃ r ∈ (t.tower (towerOf c)).remote, r.line = l.line ∧ r.key = l.key ∧
          ((∀ b ∈ l.bytes, l.line ≤ b.1) → (l.bytes.map fun b => b.1).Nodup → ∀ b ∈ l.bytes, ⟨b.1 - l.line, b.2, l.sf, l.wave⟩ ∈ r.dirty))) ∧
    (∀ tw line : Nat, ∃ t, exec (.remoteCleanExpiry tw line) s = .next t ∧ t.mem = s.mem ∧
      (∀ r ∈ (t.tower tw).remote, r.line = line → r.filled + 8192 ≤ s.tick → r.words = noWords) ∧
      (t.tower tw).remote.map (fun r => r.dirty) = (s.tower tw).remote.map fun r => r.dirty) ∧
    (∀ (tw line : Nat) (r : RLine), tw < s.towers.length → s.rline tw line = some r → r.dirty ≠ [] →
      ∃ t, exec (.remoteDirtyFlush tw line) s = .next t ∧ t.mem = s.mem ∧ (∀ x ∈ (t.tower tw).remote, x.line = line → x.dirty = []) ∧
        ∃ q ∈ t.reqs, q.wave = none ∧ q.line = line ∧ q.kind = .flush ∧ q.key = r.key ∧ (∀ d ∈ r.dirty, d.sf ≤ q.floor) ∧
          q.bytes = r.dirty.reverse.map fun d => (line + d.off, d.val)) ∧
    (∀ (c line : Nat) (p : Pin), c < s.cores.length → (s.core c).pins.find? (fun p => p.line == line) = some p →
      p.taken + p.lease ≤ s.cycle c → s.reqs = [] → s.late = [] → (p.words.map fun w => w.1).Nodup → peerOf line = 0 →
      ∃ t, exec (.pinLeaseExpiry c line) s = .next t ∧ (∀ x ∈ (t.core c).pins, x.line ≠ line) ∧
        (s.keepOf line = none → t.reqs = [] ∧ ∀ w ∈ p.words, Claims.wordOf (t.peekBy p.key) (line + 4 * w.1) = w.2) ∧
        (∀ kp, s.keepOf line = some kp → s.logRoom kp.func (homeOf line) 1 = false → t.mem = s.mem ∧
          ∃ q, t.reqs = [q] ∧ q.kind = .pin ∧ q.line = line ∧ q.floor = p.sf ∧ q.key = p.key) ∧
        (∀ r ∈ s.resvs, r.pin = some c → lineOf r.addr = line → r.wave < s.waves.length → r.lane < 64 →
          (t.wave r.wave).pinLost.getLsbD r.lane = true) ∧ ∀ r ∈ t.resvs, r.pin = some c → lineOf r.addr ≠ line) ∧
    (∀ c line : Nat, ∃ t, exec (.l1LeaseExpiry c line) s = .next t ∧ t.mem = s.mem ∧
      ∀ l ∈ (t.core c).l1, l.line = line → s.cycle c < l.filled + 4096) ∧
    (s.lastExchange + 256 ≤ s.tick → ∃ t, exec .clockExchange s = .next t ∧ t.mem = s.mem ∧ t.lastExchange = s.tick ∧
      (∀ i j, i < 4 → j < 4 → (s.tower j).count ≤ (t.tower i).count) ∧ (∀ i, i < 4 → ∃ j, j < 4 ∧ (t.tower i).count = (s.tower j).count) ∧
      ∀ c, c < 192 → (t.core c).now = (s.tower (c / 48)).count)

/-- R229, R230, R231: a raise is announced to every core that holds a block of the function where it lies above HZ after the limits of HOLD, the saved
loads and NOW; a core acknowledges once no as-of read below the raise is outstanding on it, those of taken waves among them (log 27: DEDUCED); with
the last acknowledgement HZ is set as far as the limits allow, records at or below it are freed, a raise beyond the window is noted, the wave that
asked goes on, and a full share of which it freed nothing stalls: BREACH decided on integers, and when STALL is set, are the model's (log 27:
DEDUCED). A share that is full, or too full for a word that waits, asks for a raise, also after a write of FHOLD or FHLOGQ. R222, R382: FKEEPREQ is
taken up unless BUSY, and answered: 1 registered, 2 ended, 3 not the function's page, 4 no quota; a page that is registered answers 1 whatever the
quota (log 28: DESIGN CHOICE). R229: FHOLD, FHLOGQ and FHLOGB. R279: in recovery these writes do nothing. -/
def Obligations.HistoryEvents : Prop :=
  ∀ (s : State) (f : Nat), s.Inv → f < s.funcs.length → let g := s.func f
    (∀ h : Stamp, g.raising = none → g.raises = [] → ∃ t, exec (.horizonRaise f (some h)) s = .next t ∧
      let x := min (min h.toNat g.hold.toNat) (min (s.savedFloor f).toNat s.nowStamp.toNat)
      (x ≤ g.hz.toNat → (t.func f).raising = none ∧ (t.func f).hz = g.hz) ∧
      (g.hz.toNat < x → (t.func f).acks = s.coresOf f ∧ (∃ r, (t.func f).raising = some r ∧ r.h.toNat = x) ∧
        ∀ c ∈ s.coresOf f, (t.hzCopy c f).toNat = x)) ∧
    (∀ (c : Nat) (r : Raise), g.raising = some r → s.asofQuiet f c r.h = true → ∃ t, exec (.horizonAnnounceAck f c) s = .next t ∧
      t = s.modFunc f fun g => { g with acks := g.acks.filter fun d => d != c }) ∧
    (∀ r : Raise, g.raising = some r → g.acks = [] → g.raises = [] → ∃ t, exec (.horizonRaiseComplete f) s = .next t ∧
      let z := (t.func f).hz
      let low := min g.hold.toNat (s.savedFloor f).toNat
      z.toNat = max g.hz.toNat (min r.h.toNat low) ∧ (t.func f).raising = none ∧
      (t.func f).hBreach = (g.hBreach || decide (s.nowStamp.toNat < z.toNat + 4 * g.hwmin)) ∧
      (∀ n v, v ∈ (t.tower n).log ↔ v ∈ (s.tower n).log ∧ (v.func = f → z < v.stamp)) ∧
      (∀ i x, r.wave = some i → i < s.waves.length → (s.wave i).pending = [x] → x.tag = .raise →
        (t.wave i).pending = [{ x with tag := .ready }]) ∧ t.mem = s.mem ∧
      (r.tower = none → (t.func f).hStall = g.hStall) ∧
      ∀ n, r.tower = some n → Claims.shareFull t f n → (∀ v ∈ (s.tower n).log, v.func = f → low < v.stamp.toNat ∧ z < v.stamp) →
        (∃ v ∈ (s.tower n).log, v.func = f) → (t.func f).hStall = true ∧ (f, 0) ∈ t.irqs) ∧
    (∀ (n : Nat) (h : Stamp) (r : Raise), s.shareShort f n = true → g.asked n = false →
      s.stalledShare f n = false → g.raising = some r → s.advanceTarget f n = some h → exec (.logShareFull f n) s =
        .next (s.modFunc f fun g => { g with raises := g.raises ++ [Raise.mk h none (some n)] })) ∧
    (∀ n : Nat, s.shareShort f n = false → exec (.logShareFull f n) s = .next s) ∧
    (∀ v : Word64, s.accepts = true → g.keepBusy = false →
      exec (.keepRegister f v) s =
        .next (s.modFunc f fun g => { g with keepBusy := true, keepReq := v.toNat / 65536 % 2 ^ 36, keepOp := false }) ∧
      exec (.keepEnd f v) s = .next (s.modFunc f fun g => { g with keepBusy := true, keepReq := v.toNat / 65536 % 2 ^ 36, keepOp := true })) ∧
    (∀ v : Word64, g.keepBusy = true ∨ s.accepts = false →
      exec (.keepRegister f v) s = .next s ∧ exec (.keepEnd f v) s = .next s) ∧
    (g.keepBusy = true → ∃ t, exec (.keepRequestComplete f) s = .next t ∧ (t.func f).keepBusy = false ∧ t.mem = s.mem ∧
      let a := g.keepReq * 65536
      (s.owns f a 65536 = false → (t.func f).keepResult = 3 ∧ t.towers = s.towers) ∧
      (s.owns f a 65536 = true → peerOf a = 0 →
        (g.keepOp = true → (t.func f).keepResult = 2 ∧ t.keepOf a = none) ∧
        (g.keepOp = false → ∀ k, s.keepOf a = some k → (t.func f).keepResult = 1 ∧ (t.func f).keepKs = k.ks ∧ t.towers = s.towers) ∧
        (g.keepOp = false → s.keepOf a = none → g.hlogQuota = 0 → (t.func f).keepResult = 4 ∧ t.towers = s.towers) ∧
        (g.keepOp = false → s.keepOf a = none → g.hlogQuota ≠ 0 → (t.func f).keepResult = 1 ∧
          ∃ k, t.keepOf a = some k ∧ k.func = f ∧ k.ks = (t.func f).keepKs))) ∧
    (∀ v : Word64, (s.accepts = false → exec (.fholdWrite f v) s = .next s) ∧
      (s.accepts = true → ∃ (t : State) (h : Stamp), exec (.fholdWrite f v) s = .next t ∧ h.toNat = max v.toNat g.hz.toNat ∧
        (t.func f).hold = h ∧ let u := s.modFunc f fun g => { g with hold := h }
        (s.reqs = [] → (∀ n, n < s.towers.length → u.shareShort f n = false) → t = u) ∧
        (s.reqs = [] → g.raising = none → g.raises = [] → ∀ n, n < s.towers.length → u.shareShort f n = true →
          (∀ k, k < n → u.shareShort f k = false) → ∀ x, s.advanceTarget f n = some x →
          min (min x.toNat h.toNat) (min (s.savedFloor f).toNat s.nowStamp.toNat) > g.hz.toNat →
          ∃ r, (t.func f).raising = some r ∧ r.tower = some n))) ∧
    (∀ v : Word, (s.accepts = false → exec (.fhlogqWrite Config.pf f v) s = .next s) ∧
      (s.accepts = true → ∃ t, exec (.fhlogqWrite Config.pf f v) s = .next t ∧ (t.func f).hlogQuota = v.toNat / 4 * 4 ∧
        let u := s.modFunc f fun g => { g with hlogQuota := v.toNat / 4 * 4 }
        (s.reqs = [] → (∀ n, n < s.towers.length → u.shareShort f n = false) → t = u))) ∧
    (∀ v : Word64, (s.accepts = true → (∀ n, n < s.towers.length → ∀ k ∈ (s.tower n).keeps, k.func ≠ f) → exec (.fhlogbWrite Config.pf f v) s =
        .next (s.modFunc f fun g => { g with hlogBase := v.toNat / 65536 % 2 ^ 36 })) ∧
      (s.accepts = false ∨ (∃ n, n < s.towers.length ∧ ∃ k ∈ (s.tower n).keeps, k.func = f) →
        exec (.fhlogbWrite Config.pf f v) s = .next s))

/-! ### Events of the work distributor -/

/-- R49, R50, R71, R273: a doorbell sets TAIL modulo the ring, QSIZE and QCEIL set LOG2 and CEIL, and no launch of the queue stays above CEIL; a level
that changes acts from the next core cycle. R50,
R51, R53, R54, R56, R384: a descriptor read gets the next sequence number, is checked in the order of R53 (FLAGS, SHAPE, GROUPS, CYCLE, UPSTREAM, ADDR,
CORES), is accepted where it passes, has its record written and its bitmap cleared, and HEAD passes its slot; a slot that cannot be read stops
the queue. R69: ageing. R54, R61, R206: the stopped blocks of an ended launch drain; then its final record closes it, and its blocks are gone. -/
def Obligations.LaunchEvents : Prop :=
  ∀ s : State, s.Inv →
    (∀ f q : Nat, f < s.funcs.length → q < (s.func f).queues.length → let r := s.queue f q
      (∀ v : Word, (s.accepts = false → exec (.doorbell f q v) s = .next s) ∧
        (s.accepts = true → ∃ t, exec (.doorbell f q v) s = .next t ∧ Claims.OnlyFunc s t f ∧
          t.queue f q = { r with tail := v.toNat % 65536 % 2 ^ r.log2, stopped := false })) ∧
      (∀ (by_ : Nat) (v : Word), by_ = f ∨ by_ = Config.pf → s.accepts = true →
        ∃ t, exec (.qsizeWrite by_ f q v) s = .next t ∧ Claims.OnlyFunc s t f ∧ t.queue f q = { r with log2 := max 4 (v.toNat % 16) }) ∧
      (∀ v : Word, s.accepts = true → ∃ t, exec (.qceilWrite Config.pf f q v) s = .next t ∧ Claims.OnlyFunc s t f ∧
        t.queue f q = { r with ceil := v.toNat % 8 } ∧ ∀ i, i < s.launches.length → let l := s.launch i
          (l.func = f ∧ l.queue = q → Claims.Relevels s l (t.launch i) (min l.lvl (v.toNat % 8))) ∧
          (¬ (l.func = f ∧ l.queue = q) → t.launch i = l)) ∧
      (∀ (by_ : Nat) (v : Word), s.accepts = false → exec (.qsizeWrite by_ f q v) s = .next s ∧ exec (.qceilWrite by_ f q v) s = .next s) ∧
      ((∃ x ∈ s.reqs, x.kind = .host ∧ x.func = f) → exec (.descriptorRead f q) s = .next s) ∧
      (s.readsQueue f q = true → let a := r.base * 128 + 128 * r.head
        s.sysWaits f a 128 = false →
        (s.sysOk f a 128 false = false → ∃ t, exec (.descriptorRead f q) s = .next t ∧ t.queue f q = { r with stopped := true } ∧
          t.launches = s.launches ∧ (Config.pf, 4) ∈ t.irqs) ∧
        (s.sysOk f a 128 false = true → let d := parseDesc fun off => leNat (s.sysByte f) (a + off) 8
          s.descHeld f d = false → ∃ t, exec (.descriptorRead f q) s = .next t ∧ t.launches.length = s.launches.length + 1 ∧
            (∀ i, i < s.launches.length → t.launch i = s.launch i) ∧ t.queue f q = { r with head := (r.head + 1) % 2 ^ r.log2 } ∧
            let l := t.launch s.launches.length
            l.func = f ∧ l.queue = q ∧ l.desc = d ∧ (l.closed = true ↔ l.status ≠ .accepted) ∧
            (s.sysOk f d.crec 32 true = false → l.status = .noRecord ∧ (Config.pf, 4) ∈ t.irqs) ∧
            (s.sysOk f d.crec 32 true = true → Claims.Checked s f q d l) ∧
            (s.sysOk f d.crec 32 true = true → Claims.Still s → Claims.Unregistered s → d.cbmp = 0 ∨ l.status ≠ .accepted →
              (∀ x ∈ s.sysBytes f d.crec (l.record s.launches.length), peerOf x.1 = 0) → ∀ x ∈ s.sysBytes f d.crec (l.record s.launches.length),
                t.peekBy (keyIn (s.sysPages f d.crec 32) (x.1 / 65536)) x.1 = x.2) ∧
            (l.status = .accepted → l.lvl = min d.prio r.ceil ∧ l.board = [] ∧ l.placed = [] ∧ (Claims.Still s → Claims.Unregistered s →
              (∀ x ∈ s.bitmapZero f d, peerOf x.1 = 0) → ∀ x ∈ s.bitmapZero f d,
                t.peekBy (keyIn (s.sysPages f d.cbmp d.bitmapBytes) (x.1 / 65536)) x.1 = 0))))) ∧
    (∀ i, i < s.launches.length → let l := s.launch i
      (l.live = true → (s.func l.func).fage ≠ 0 → (s.func l.func).fage.toNat ≤ l.age → ∃ t, exec (.ageingExpiry i) s = .next t ∧
        (t.launch i).age = 0 ∧ Claims.Relevels s l { t.launch i with age := l.age } (max l.lvl (min (l.lvl + 1) (s.queue l.func l.queue).ceil)) ∧
        (∀ j, j ≠ i → t.launch j = s.launch j) ∧ t.mem = s.mem ∧ t.waves = s.waves) ∧
      (s.undrained i ≠ [] → ∃ t, exec (.faultFinalRecord i) s = .next t ∧ t.launches = s.launches ∧
        ∀ b ∈ s.undrained i, ∀ w ∈ (s.block b).waves, (∀ a, t.wcByte w a = none) ∧ (∀ r ∈ t.resvs, r.wave ≠ w) ∧
          ∀ p ∈ (t.core (s.coreOf (s.wave w))).pins, w ∉ p.users) ∧
      (s.mustClose i = true → s.undrained i = [] → Claims.Still s → Claims.Unregistered s → ∃ t, exec (.faultFinalRecord i) s = .next t ∧
        (t.launch i).closed = true ∧ (t.launch i).status = (if l.live then .upstreamFailed else l.status) ∧
        (∀ b ∈ s.heldOf i, (t.block b).status = .discarded) ∧
        (l.live = false → s.sysOk l.func l.desc.crec 32 true = true → (∀ x ∈ s.sysBytes l.func l.desc.crec (l.record i), peerOf x.1 = 0) →
          ∀ x ∈ s.sysBytes l.func l.desc.crec (l.record i),
            t.peekBy (keyIn (s.sysPages l.func l.desc.crec 32) (x.1 / 65536)) x.1 = x.2)))

/-- R28, R32, R33, R90, R220: a released block is placed where it fits, and its waves begin at the entry; choices made for it are cancelled (R78). R65,
R82: a CORES launch is placed or restored whole or not at all. R57, R220, R248, R384: a block with no transfer in flight gives its units back, sets
its board and bitmap bits, and raises FLOOR; the last one ends the launch DONE; a bitmap write that fails ends it with FAULT. R76, R77: victims are of
lower levels, chosen for the launch of the highest level first. R81, R255: a block whose waves are taken and whose engines are quiet is saved, with
the array's image if it holds the array. R82, R211, R239: it is restored with its context, and waits whose completion was recorded go on; a
record that software wrote ends the launch with SAVEINVAL. -/
def Obligations.PlacementEvents : Prop :=
  ∀ s : State, s.Inv →
    (∀ li i core p0 : Nat, let l := s.launch li
      s.mayPlace li i = true → l.desc.cores = false → p0 < 4 → s.coreOpen l.func core = true →
      s.fits l.desc (List.range l.desc.nwaves) core p0 = true → ∃ t, exec (.blockPlacement li i core p0) s = .next t ∧
        let n := s.blocks.length
        let b := t.block n
        t.blocks.length = n + 1 ∧ b.launch = li ∧ b.index = i ∧ b.core = core ∧ b.p0 = p0 ∧ b.status = .resident ∧ b.bsf = 0 ∧
        b.phases = List.replicate (l.members.length + 1) false ∧ b.waves.length = l.desc.nwaves ∧ b.ways.length = l.desc.scratch ∧
        (∀ z ∈ b.tiles, z.matrix = false) ∧ i ∈ (t.launch li).placed ∧ t.mem = s.mem ∧
        (∀ k, k < l.desc.nwaves → b.waves[k]? = some (s.waves.length + k) ∧ Claims.FirstState s l (t.wave (s.waves.length + k)) n k p0) ∧
        ∀ x, (s.block x).victim ≠ none → (s.block x).victimFor = (li, i) → (∀ w ∈ (s.block x).waves, (s.wave w).taken = false) →
          (s.launch (s.block x).launch).desc.cores = false → (t.block x).victim = none ∧ (t.block x).save = none ∧
            ∀ w ∈ (s.block x).waves, (t.wave w).sliceDone = false) ∧
    (∀ (li : Nat) (places : List (Nat × Nat)), let l := s.launch li
      l.live = true → l.desc.cores = true → (s.func l.func).susp = false →
      (s.savedOf li = [] → l.placed = [] → s.clears l = false → s.upstreamFailed l = false → s.isReleased l 0 = true → places.length = l.desc.total →
        (State.placeAll li ((List.range l.desc.total).zip places) s = none → exec (.coresPlacement li places) s = .next s) ∧
        (∀ u, State.placeAll li ((List.range l.desc.total).zip places) s = some u → ∃ t, exec (.coresPlacement li places) s = .next t ∧
          t.blocks.length = s.blocks.length + l.desc.total ∧ ∀ k, k < l.desc.total → let b := t.block (s.blocks.length + k)
            b.launch = li ∧ b.index = k ∧ (b.core, b.p0) = places.getD k (0, 0) ∧ b.status = .resident)) ∧
      (s.savedOf li ≠ [] →
        (s.heldOf li ≠ [] → exec (.coresPlacement li places) s = .next s) ∧
        (s.heldOf li = [] → places.length = (s.savedOf li).length → (∀ b ∈ s.savedOf li, (s.block b).invalid = false) →
          (State.restoreAll ((s.savedOf li).zip places) s = none → exec (.coresPlacement li places) s = .next s) ∧
          (∀ u, State.restoreAll ((s.savedOf li).zip places) s = some u → ∃ t, exec (.coresPlacement li places) s = .next t ∧
            (∀ k b, (s.savedOf li)[k]? = some b → (t.block b).status = .resident ∧
              ((t.block b).core, (t.block b).p0) = places.getD k (0, 0)) ∧
            ∀ x, (u.block x).victim ≠ none → (u.block x).victimFor = (li, 0) → (∀ w ∈ (u.block x).waves, (u.wave w).taken = false) →
              (u.launch (u.block x).launch).desc.cores = false → (t.block x).victim = none ∧ (t.block x).save = none)))) ∧
    (∀ bi, bi < s.blocks.length → let b := s.block bi
      let l := s.launch b.launch
      let va := l.desc.bitmapWord b.index % 2 ^ 52
      ((∃ x ∈ s.xfers, x.block = bi) → exec (.blockRetirement bi) s = .next s) ∧
      (b.status = .resident → (∀ w ∈ b.waves, (s.wave w).ended = true) → s.atRest bi = true → l.func < s.funcs.length →
        Claims.Still s → Claims.Unregistered s → (∀ a key, s.sysCheck l.func va true = .ok (a, key) → peerOf a = 0) →
        ∃ t, exec (.blockRetirement bi) s = .next t ∧ (t.block bi).status = .retired ∧
        (t.launch b.launch).board = l.board ++ [b.index] ∧
        (t.func l.func).floor = maxStamp (s.func l.func).floor (s.retireStamp bi) ∧ (t.core b.core).array.holder ≠ some bi ∧
        (l.live = true → s.upstreamFailed l = false →
          (l.desc.cbmp ≠ 0 → ∀ c, s.sysCheck l.func va true = .error c → let u := t.launch b.launch
            u.status = .fault ∧ u.cause = c ∧ u.pc = 0 ∧ u.block = b.index) ∧
          (l.desc.cbmp = 0 ∨ (∃ a, s.sysCheck l.func va true = .ok a) →
            (l.board.length + 1 ≠ l.desc.total → (t.launch b.launch).status = .accepted ∧
              (l.desc.cbmp ≠ 0 → ∀ a key, s.sysCheck l.func va true = .ok (a, key) →
                leNat (t.peekBy key) a 8 = leNat (s.peekBy key) a 8 ||| 2 ^ (b.index % 64))) ∧
            (l.board.length + 1 = l.desc.total → (t.launch b.launch).status = .done ∧ (t.launch b.launch).closed = true))))) ∧
    (∀ li i : Nat, ∃ t, exec (.victimChoice li i) s = .next t ∧ t.launches = s.launches ∧ t.blocks.length = s.blocks.length ∧
      ∀ b, (s.block b).victim = none → (t.block b).victim ≠ none → (s.block b).status = .resident ∧
        (s.launch (s.block b).launch).lvl < (s.launch li).lvl ∧ (t.block b).victimFor.1 = li ∧ (t.block b).save ≠ none ∧
        ∀ j, j < s.launches.length → (s.launch j).lvl < 8 → (s.choiceOf j).isSome = true →
          (s.launch j).lvl < (s.launch li).lvl ∨ ((s.launch j).lvl = (s.launch li).lvl ∧ li ≤ j)) ∧
    (∀ bi off : Nat, let f := s.funcOfBlock (s.block bi)
      let sc := s.moveScope f
      s.evictable bi = true → (∀ w ∈ (s.block bi).waves, (s.wave w).awaiting = false) → s.saveSlot f bi (s.recordUnits bi) = some off →
        (s.evictRelease bi sc).evictReleased bi sc = true →
      ∃ t, exec (.eviction bi) s = .next t ∧ (t.block bi).status = .saved ∧ (t.block bi).victim = none ∧ (t.block bi).invalid = false ∧
        (t.block bi).save = some (off, s.recordUnits bi) ∧ (t.block bi).image.isSome = s.holdsArray bi ∧ (t.block bi).moved = sc ∧
        (∀ i, Claims.SameContext (t.wave i) (s.wave i))) ∧
    (∀ bi core p0 : Nat, s.canRestore bi core p0 = true → (s.launch (s.block bi).launch).desc.cores = false → s.loadsFree bi = true →
      ((s.block bi).invalid = false → ∃ t, exec (.blockRestore bi core p0) s = .next t ∧ (t.block bi).status = .resident ∧
        (t.block bi).core = core ∧ (t.block bi).p0 = p0 ∧ (t.block bi).save = none ∧
        (∀ i, (∀ e, e < 8 → ((s.wave i).fragAt e).wait = none) → Claims.SameContext (t.wave i) (s.wave i)) ∧
        ∀ i ∈ (s.block bi).waves, (t.wave i).taken = false ∧ ∀ e g ph, e < 8 → i < s.waves.length → g < (s.block bi).phases.length →
          (s.wave i).block = bi → (s.wave i).fuseDue = none → ((s.wave i).fragAt e).wait = some (.bar g ph true) →
          ((t.wave i).fragAt e).state = .live) ∧
      ((s.block bi).invalid = true → ∃ t, exec (.blockRestore bi core p0) s = .next t ∧ let l := t.launch (s.block bi).launch
        l.status = .fault ∧ l.cause = 0xFD ∧ l.block = (s.block bi).index))

/-! ### Commands of functions and of the device -/

/-- R11, R49, R208, R229, R275, R284 to R288: a register holds the fields written; a VF's write of a register of the PF's is ignored and reported.
R279: in recovery the device presents only the PF, and takes no write and no command of these. R99, R100, R382: verification marks a page that passes
and to which no write is on its way, answers the first failing word of one that does not, and a release clears the mark and every cached translation
of the page. R278: key commands; what an erased key wrote is never read again. R280: attestation. R277: an invalidation sends the stores on its pages
on their way, and BUSY clears with the last access that was translated before. R275, R276: partitions and suspension. R70, R189: FSLICE and FPIN are
at least 1,024. That a verification waits for writes on their way, and which accesses an invalidation awaits, are the model's (log 41: DEDUCED, log
25: DESIGN CHOICE, DEDUCED). -/
def Obligations.FunctionCommands : Prop :=
  ∀ (s : State) (f : Nat), s.Inv → f < s.funcs.length → let g := s.func f
    (∀ v : Word64, (g.vfyBusy = false → s.accepts = true → exec (.verify f v) s =
        .next (s.modFunc f fun g => { g with vfyBusy := true, vfyReq := v.toNat / 65536 % 2 ^ 36, vfyOp := false })) ∧
      (g.vfyBusy = true ∨ s.accepts = false → exec (.verify f v) s = .next s ∧ exec (.verifyRelease f v) s = .next s)) ∧
    (g.vfyBusy = true → let p := g.vfyReq
      let own := s.owns f (p * 65536) 65536
      let words := (List.range 16384).map fun k => BitVec.ofNat 32 (leNat (s.peekBy f) (p * 65536 + 4 * k) 4)
      (own = true → s.verifiedPage p = false → s.pageQuiet p = false → exec (.verifyComplete f) s = .next s) ∧
      (own = false ∨ s.verifiedPage p = true ∨ s.pageQuiet p = true →
        ∃ t, exec (.verifyComplete f) s = .next t ∧ Claims.OnlyFunc s t f ∧ (t.func f).vfyBusy = false ∧
        (own = false → (t.func f).vfyResult = 4 ∧ t.verified = s.verified) ∧
        (own = true → s.verifiedPage p = true → (t.func f).vfyResult = 1 ∧ t.verified = s.verified) ∧
        (own = true → s.verifiedPage p = false →
          (∀ r n, scanWords words ⟨[], 0, none⟩ 0 = some (r, n) → (t.func f).vfyResult = 2 ∧ (t.func f).vfyReason = r.code.toNat ∧
            (t.func f).vfyWord = n ∧ t.verified = s.verified) ∧
          (scanWords words ⟨[], 0, none⟩ 0 = none → (t.func f).vfyResult = 1 ∧ t.verifiedPage p = true ∧
            ∀ q, q ≠ p → t.verifiedPage q = s.verifiedPage q)))) ∧
    (∀ v : Word64, g.vfyBusy = false → s.accepts = true → ∃ t, exec (.verifyRelease f v) s = .next t ∧ Claims.OnlyFunc s t f ∧
      let p := v.toNat / 65536 % 2 ^ 36
      (s.owns f (p * 65536) 65536 = false → (t.func f).vfyResult = 4 ∧ t.verified = s.verified) ∧
      (s.owns f (p * 65536) 65536 = true → (t.func f).vfyResult = 3 ∧ t.verifiedPage p = false ∧
        (∀ q, q ≠ p → t.verifiedPage q = s.verifiedPage q) ∧ (∀ c ∈ t.cores, ∀ e ∈ c.tlb, e.page ≠ p) ∧ ∀ w ∈ t.towers, ∀ e ∈ w.tlb, e.page ≠ p)) ∧
    (∀ key : Nat, s.keyCmd = none → if s.recovery = true
      then exec (.keyLoad Config.pf key) s = .next s ∧ exec (.keyErase Config.pf key) s = .next s
      else exec (.keyLoad Config.pf key) s = .next { s with keyCmd := some (true, key % 128) } ∧
        exec (.keyErase Config.pf key) s = .next { s with keyCmd := some (false, key % 128) }) ∧
    (∀ load key, s.keyCmd = some (load, key) → key < s.keys.length → ∃ t, exec .keyCommandComplete s = .next t ∧ t.keyCmd = none ∧ t.mem = s.mem ∧
      (s.busyFunc key = true → t.keyResult = 2 ∧ t.keys = s.keys ∧ t.seals = s.seals) ∧
      (s.busyFunc key = false → t.keyResult = 1 ∧ t.keys.getD key none = (if load then some s.keyData else none) ∧
        (∀ k, k ≠ key → t.keys.getD k none = s.keys.getD k none) ∧ (load = true → t.seals = s.seals) ∧
        (load = false → ∀ p, s.keys.getD key none = some p → ∀ a,
          (sealOf s.seals a = some p → sealOf t.seals a = some []) ∧ (sealOf s.seals a ≠ some p → sealOf t.seals a = sealOf s.seals a)))) ∧
    (∀ v : Word64, g.attBusy = false → s.accepts = true → exec (.attestationRequest f v) s =
      .next (s.modFunc f fun g => { g with attBusy := true, attAddr := v.toNat / 4096 % 2 ^ 40, attStart := v.toNat % 4096 })) ∧
    (let a := g.attAddr * 4096
      let bs := s.attestation f
      g.attBusy = true → g.attOut = [] → s.owns f a bs.length = true → s.meetsVerified a bs.length = false → a + bs.length ≤ Config.memoryBytes →
      Claims.Still s → Claims.Unregistered s →
      ∃ t, exec (.attestationComplete f) s = .next t ∧ (t.func f).attBusy = false ∧ (t.func f).attMore = (s.attested f).2 ∧
        ∀ k, k < bs.length → t.peekBy f (a + k) = bs.getD k 0) ∧
    (g.attBusy = true → g.attOut ≠ [] → (s.waiting g.attOut = true → exec (.attestationComplete f) s = .next s) ∧
      (s.waiting g.attOut = false → exec (.attestationComplete f) s = .next (s.modFunc f fun g => { g with attBusy := false, attOut := [] }))) ∧
    (∀ v : Word64, g.invBusy = false → v.getLsbD 0 = true → s.accepts = true →
      let u := s.modFunc f fun g => { g with invBusy := true, invAll := v.getLsbD 1, invPage := v.toNat / 65536 % 2 ^ 36 }
      let on := fun page => v.getLsbD 1 = true ∨ page ∈ u.invPages f
      ∃ t, exec (.translationInvalidate f v) s = .next t ∧ t.mem = s.mem ∧ (t.func f).invBusy = true ∧ (t.func f).invAll = v.getLsbD 1 ∧
        (t.func f).invPage = v.toNat / 65536 % 2 ^ 36 ∧
        (∀ i a, i < s.waves.length → (s.wave i).ended = false → s.funcOf (s.wave i) = f → on (a / 65536) → t.wcByte i a = none) ∧
        ((∀ w ∈ s.towers, (w.remote.map fun x => x.line).Nodup) → ∀ w ∈ t.towers, ∀ x ∈ w.remote, x.func = f → on (x.line / 65536) → x.dirty = [])) ∧
    (g.invBusy = true → ∃ t, exec (.invalidateComplete f) s = .next t ∧ Claims.OnlyFunc s t f ∧ (t.func f).invBusy = s.accessesOut f ∧
      (∀ c ∈ t.cores, ∀ e ∈ c.tlb, e.func = f → g.invAll = false ∧ e.vpage ≠ g.invPage) ∧
      ∀ w ∈ t.towers, ∀ e ∈ w.tlb, e.func = f → g.invAll = false ∧ e.vpage ≠ g.invPage) ∧
    (∀ (j : Nat) (v : Word64), s.accepts = true → (s.coreTaken f j v = true → ∃ t, exec (.fcoreWrite Config.pf f j v) s = .next t ∧ t.funcs = s.funcs ∧
        (Config.pf, 4) ∈ t.irqs) ∧
      (s.coreTaken f j v = false → exec (.fcoreWrite Config.pf f j v) s = .next (s.modFunc f fun g => { g with cores := g.cores.set j v }))) ∧
    (s.accepts = true → ∃ t, exec (.suspend Config.pf f) s = .next t ∧ (t.func f).susp = true ∧ t.launches = s.launches ∧
      (∀ q, t.readsQueue f q = false) ∧
      (∀ c, t.coreOpen f c = false) ∧
      (∀ b ∈ s.residentOf f, (s.block b).status = .resident → (s.block b).victim ≠ none → (t.block b).victim = (s.block b).victim ∧
        (t.block b).victimFor = s.suspendMark b) ∧
      ∀ b, s.residentOf f = [b] → (s.block b).status = .resident → (s.block b).victim = none →
        (s.saveSlot f b (s.recordUnits b)).isSome = true → (t.block b).victim = some (s.cycle (s.block b).core)) ∧
    (s.accepts = true → ∃ t, exec (.unsuspend Config.pf f) s = .next t ∧ (t.func f).susp = false ∧ t.launches = s.launches ∧ t.mem = s.mem ∧
      ∀ b ∈ s.residentOf f, (s.block b).status = .resident → (s.block b).victimFor = s.suspendMark b →
        (s.launch (s.block b).launch).desc.cores = false → (t.block b).victim = none) ∧
    (∀ v : Word, s.accepts = true →
      exec (.fsliceWrite Config.pf f v) s = .next (s.modFunc f fun g => { g with fslice := max 1024 (v.toNat % 2 ^ 17) }) ∧
      exec (.fpinWrite Config.pf f v) s = .next (s.modFunc f fun g => { g with fpin := max 1024 (v.toNat % 2 ^ 24) })) ∧
    (∀ (reg : BarReg) (v : Word64), s.accepts = true → ∃ t, exec (.registerWrite Config.pf f reg v) s = .next t ∧ Claims.OnlyFunc s t f ∧
      Claims.Holds t f g v reg) ∧
    (∀ (reg : BarReg) (v : Word64), f ≠ Config.pf → s.accepts = true →
      if Claims.onlyByPF reg = true then exec (.registerWrite f f reg v) s = .next { s with irqs := s.irqs ++ [(Config.pf, 4)] }
      else exec (.registerWrite f f reg v) s = exec (.registerWrite Config.pf f reg v) s) ∧
    (∀ (by_ : Nat) (reg : BarReg) (v : Word64), by_ ≠ f → by_ ≠ Config.pf → exec (.registerWrite by_ f reg v) s = .next s) ∧
    (s.accepts = false → ∀ (by_ j : Nat) (reg : BarReg) (v : Word64) (x : Word), exec (.registerWrite by_ f reg v) s = .next s ∧
      exec (.fcoreWrite by_ f j v) s = .next s ∧ exec (.fsliceWrite by_ f x) s = .next s ∧ exec (.fpinWrite by_ f x) s = .next s ∧
      exec (.suspend by_ f) s = .next s ∧ exec (.unsuspend by_ f) s = .next s ∧ exec (.attestationRequest f v) s = .next s ∧
      exec (.translationInvalidate f v) s = .next s) ∧
    (s.accepts = true ↔ s.recovery = false) ∧ (s.presents f = true ↔ s.recovery = false ∨ f = Config.pf)

/-- R285, R286: a debugger stops and resumes a partition and writes registers of its stopped waves, after the writes that are pending; how a 32-bit
value fills the lanes of a mask register, and that a write of SRSEED leaves the generators, are the model's (log 38: DESIGN CHOICE). R287: samples.
R25, R26, R281, R291: links, spares and degradation. R75, R290: throttling, and the shutdown that ends every launch. R197: errors. R279: reset and
firmware. R215, R272: the host and peers read and write a function's memory, through its key (R163, R278); in recovery the PF's is read alone. The
place of a sample's fields is the model's (log 21: DESIGN CHOICE). What a reset keeps (memory and its keys by block, retired home ways), and which
spare choices it takes in, are the model's too (log 23: DESIGN CHOICE). -/
def Obligations.DeviceEvents : Prop :=
  ∀ s : State, s.Inv →
    (∀ (f : Nat) (v : Word), f < s.funcs.length → let c := v.toNat / 256 % 256
      let p := v.toNat / 64 % 4
      s.accepts = true → s.mayStop f c = true → (s.core c).parts.length = 4 →
      (((s.core c).parts.getD p default).stopped = false → ∃ t, exec (.debugStop f v) s = .next t ∧
        ((t.core c).parts.getD p default).stopped = true ∧ (t.func f).fdbg = v &&& 0xFFC4 ∧ (t.func f).dbgStopped = true ∧ (f, 2) ∈ t.irqs ∧
        ∀ r ∈ t.resvs, r.wave ∉ s.partWaves c p) ∧
      (((s.core c).parts.getD p default).stopped = true → ∃ t, exec (.debugResume f v) s = .next t ∧
        ((t.core c).parts.getD p default).stopped = false ∧ (t.func f).dbgStopped = false ∧
        ((s.partWaves c p).Nodup → ∀ i, i < s.waves.length → (t.wave i).sliceFrom = if i ∈ s.partWaves c p
          then (s.wave i).sliceFrom + (s.cycle c - max (s.wave i).sliceFrom ((s.core c).parts.getD p default).stopAt) else (s.wave i).sliceFrom))) ∧
    (∀ (f i : Nat) (lanes : Word64) (x : Word), i < s.waves.length → s.accepts = true → s.stoppedWave (s.wave i) = true →
      f = Config.pf ∨ s.funcOf (s.wave i) = f → let w := s.wave i
      (∀ r : SReg, ∃ t, exec (.debugRegisterWrite f i (.s r) lanes x) s = .next t ∧ t.mem = s.mem ∧
        (w.pending = [] → r ≠ 0 → (t.wave i).s r = x ∧ ∀ q, q ≠ r → (t.wave i).s q = w.s q) ∧
        (∀ p, w.pending = [p] → (∃ y, RegWrite.s r.toNat y ∈ p.writes) → (t.wave i).sregs = w.sregs ∧ ∃ p', (t.wave i).pending = [p'] ∧
          p'.writes = p.writes ++ [.s r.toNat x])) ∧
      (∀ r : VReg, w.pending = [] → ∃ t, exec (.debugRegisterWrite f i (.v r) lanes x) s = .next t ∧ ∀ q l : Nat, l < w.width →
        (w.vregs.getD q []).length = w.width → (t.wave i).vn q l = if q = r.toNat ∧ lanes.getLsbD l = true then x else w.vn q l) ∧
      (∀ r : MReg, ∃ t, exec (.debugRegisterWrite f i (.m r) lanes x) s = .next t ∧ (∀ q : MReg, q ≠ r → (t.wave i).m q = w.m q) ∧
        ∀ l : Nat, l < w.width → (r ≠ 0 ∨ w.frag.mask.getLsbD l = true) →
          ((t.wave i).m r).getLsbD l = if lanes.getLsbD l = true then x.getLsbD (l % 32) else (w.m r).getLsbD l) ∧
      (∀ c : CReg, ∃ t, exec (.debugRegisterWrite f i (.c c) lanes x) s = .next t ∧ t.mem = s.mem ∧ (t.wave i).sregs = w.sregs ∧
        (c = 9 → (t.wave i).rndMode.toNat = if 6 ≤ x.toNat % 8 then 0 else x.toNat % 8) ∧ (c = 10 → (t.wave i).quantum = max 8 (min x.toNat 4096)) ∧
        (c = 13 → (t.wave i).gate = x) ∧ (c = 14 → (t.wave i).wakeTo = x) ∧
        (c = 23 → (t.wave i).srSeed = x ∧ (t.wave i).srState = w.srState))) ∧
    (∀ (f i : Nat) (reg : DbgReg) (lanes : Word64) (x : Word), s.stoppedWave (s.wave i) = false ∨ s.accepts = false →
      exec (.debugRegisterWrite f i reg lanes x) s = .next s) ∧
    (∀ c p f i : Nat, f < s.funcs.length → s.sampleDue c p f = some i → (∀ g, g ≠ f → s.sampleDue c p g = none) →
      let a := (s.func f).sampBuf + 16 * ((s.func f).sampIdx % Config.sampleRing)
      s.funcOf (s.wave i) = f ∧ (s.func f).samp ≠ 0 ∧ (s.owns f a 16 = true → (∀ k, k < 16 → s.verifiedPage ((a + k) / 65536) = false) →
        s.pair Config.pf = none → (∀ k, k < 16 → s.pinned [a + k] = false) →
        ∃ t, exec (.sampleTick c p) s = .next t ∧ leNat t.peek (a + 8) 8 = (s.wave i).pc.toNat ∧ (∀ x, x < a ∨ a + 16 ≤ x → t.peek x = s.peek x) ∧
          (t.func f).sampIdx = (s.func f).sampIdx + 1)) ∧
    (∀ (port : Nat) (lanes : Word), port < 22 → ∃ t, exec (.linkTraining port lanes) s = .next t ∧
      (∀ x, (port, x) ∈ t.links ↔ x = lanes) ∧ ∀ q x, q ≠ port → ((q, x) ∈ t.links ↔ (q, x) ∈ s.links)) ∧
    (∃ t, exec .deviceDegraded s = .next t ∧ (∀ f q, t.readsQueue f q = false) ∧ (∀ f c, t.coreOpen f c = false) ∧ t.waves = s.waves) ∧
    (∀ f : Nat, ∃ t, exec (.correctedSoftError f) s = .next t ∧ t.spErr = (s.spErr + 1) % 2 ^ 48 ∧ t.mem = s.mem ∧ t.waves = s.waves ∧
      t.launches = s.launches) ∧
    (∀ (ok : Bool) (spares : List Word) (layers : Nat) (ways : List (Nat × Nat)), ∃ t, exec (.deviceReset ⟨ok, spares, layers, ways⟩) s = .next t ∧
      t.mem = s.mem ∧ t.seals = s.seals ∧
      t.funcs = State.reset.funcs ∧ t.launches = [] ∧ t.blocks = [] ∧ t.waves = [] ∧ t.cores = State.reset.cores ∧
      (∀ n, n < s.towers.length → t.tower n = { Tower.reset with retiredWays := (t.tower n).retiredWays } ∧
        (∀ w, w ∈ (t.tower n).retiredWays ↔ w ∈ (s.tower n).retiredWays ∨ ((n, w) ∈ ways ∧ w < 25)) ∧
        ((t.tower n).homeWays.length < 24 → t.degraded = true ∧ (∀ f q, t.readsQueue f q = false) ∧ ∀ f c, t.coreOpen f c = false)) ∧
      t.verified = [] ∧
      t.keys = List.replicate 128 none ∧ t.fwStat = (if ok then 1 else 3) ∧ t.spDram = layers % 16 ∧
      ((spares.length = 8 ∧ ∀ x ∈ spares, x.toNat < 2 ^ 26 ∧ ((List.range 26).filter fun i => x.getLsbD i).length = 2) → t.spCore = spares) ∧
      t.fwImage = (if s.fwStat = 2 then s.fwImage + 1 else s.fwImage) ∧ t.accepts = ok ∧ ∀ f, (∀ c, ok = false → t.coreOpen f c = false) ∧
        (t.presents f = true ↔ ok = true ∨ f = Config.pf)) ∧
    (exec (.firmwareUpdateStage true) s = .next { s with fwStat := 2 } ∧ exec (.firmwareUpdateStage false) s = .next s) ∧
    (∀ (die rate : Nat) (hold : Bool), die < s.dies.length → ∃ t, exec (.thermalThrottle die rate hold) s = .next t ∧
      t.dies.getD die default = ⟨(s.dies.getD die default).acc, max 4 (min 16 rate), hold⟩ ∧
      (∀ k, k ≠ die → t.dies.getD k default = s.dies.getD k default) ∧ t.mem = s.mem ∧ t.waves = s.waves ∧
      ∀ f c, hold = true → dieOf c = die → t.coreOpen f c = false) ∧
    (∃ t, exec .thermalShutdown s = .next t ∧ (∀ f c, t.coreOpen f c = false) ∧ ∀ i, i < s.launches.length →
      ((s.launch i).live = true → (t.launch i).status = .fault ∧ (t.launch i).cause = 0xFE) ∧
      ((s.launch i).live = false → t.launch i = s.launch i)) ∧
    (∀ (b : Nat) (r : Option Reader), b < s.blocks.length → (s.block b).holds = true → (s.launch (s.block b).launch).live = true →
      ∃ t, exec (.uncorrectableError b r) s = .next t ∧ let l := t.launch (s.block b).launch
        l.status = .fault ∧ l.cause = 0xFF ∧ l.block = (s.block b).index ∧ (r = none → l.pc = 0) ∧
        (∀ w, r = some (.latest w) → l.pc = (s.wave w).readPc.toNat) ∧
        (∀ w k p, r = some (.result w k) → (s.wave w).pending[k]? = some p → l.pc = p.pc.toNat) ∧
        ∀ w e, r = some (.wait w e) → l.pc = (((s.wave w).stow.fragAt e).pc - 4).toNat) ∧
    (∀ tw way : Nat, tw < s.towers.length → way < 25 → way ∉ (s.tower tw).retiredWays → ((s.tower tw).home.map fun h => h.line).Nodup →
      ∃ t, exec (.homeWayRetire tw way) s = .next t ∧ t.mem = s.mem ∧ way ∈ (t.tower tw).retiredWays ∧ t.spWays = (s.spWays + 1) % 2 ^ 32 ∧
        way ∉ (t.tower tw).homeWays ∧ (∀ h ∈ (t.tower tw).home, h.way ≠ way) ∧ (∀ line, s.lstampOf line ≤ t.lstampOf line) ∧
        ((s.tower tw).retiredWays = [] → (t.tower tw).homeWays.length = 24 ∧ t.degraded = s.degraded) ∧
        ∀ x, x < 25 → (s.tower tw).retiredWays = [x] → t.degraded = true ∧ ∀ f c, t.coreOpen f c = false) ∧
    (∀ tw row : Nat, exec (.dramRowRemap tw row) s = .next { s with spRows := (s.spRows + 1) % 2 ^ 32 }) ∧
    (∀ f addr n : Nat, let a := (s.func f).memBase * 65536 + addr
      Claims.Reachable s f a n →
        (∃ t, exec (.hostBar2Access f addr n none) s = .next t ∧ t.busData = bytesAt (s.peekBy f) a n ∧ t.mem = s.mem) ∧
        (∀ bs : List Byte, s.accepts = true → bs.length = n → s.meetsVerified a n = false → ∃ t, exec (.hostBar2Access f addr n (some bs)) s = .next t ∧
          ∀ k, k < n → t.peekBy f (a + k) = bs.getD k 0) ∧
        (∀ bs : List Byte, s.accepts = true → bs.length = n → s.meetsVerified a n = true → ∃ t, exec (.hostBar2Access f addr n (some bs)) s = .next t ∧
          t.mem = s.mem ∧ (Config.pf, 4) ∈ t.irqs)) ∧
    (∀ peer f a n : Nat, Claims.Reachable s f a n →
      (∃ t, exec (.peerAccess peer f a n none) s = .next t ∧ t.busData = bytesAt (s.peekBy f) a n ∧ t.mem = s.mem) ∧
      (∀ bs : List Byte, s.accepts = true → bs.length = n → s.meetsVerified a n = false → ∃ t, exec (.peerAccess peer f a n (some bs)) s = .next t ∧
        ∀ k, k < n → t.peekBy f (a + k) = bs.getD k 0)) ∧
    (∀ (peer f a n : Nat) (data : Option (List Byte)), s.presents f = false ∨ (data.isSome = true ∧ s.accepts = false) →
      exec (.peerAccess peer f a n data) s = .next s ∧ exec (.hostBar2Access f a n data) s = .next s)

/-! ### The machine as a whole -/

/-- R83, R102 to R117: words written out from the spec's formats decode to the instructions they stand for, and the words that the spec gives as
none are refused for the reason it gives. -/
def Obligations.DecodesSpecWords : Prop :=
  (∀ x ∈ Claims.specWords, decode x.1 = .ok x.2) ∧ ∀ x ∈ Claims.notWords, decode x.1 = .error x.2

/-- R83, R84, R102: the decoder reads every well-formed instruction back from the bytes of its word, with every operand at every value that the
encoding admits, and leaves the bytes after it; a word decodes to well-formed instructions only; and no two instructions share a word. -/
def Obligations.DecodeEncode : Prop :=
  (∀ (i : Instr) (w : Word) (rest : List Byte), i.wf = true → encode i = some w →
    decodeBytes (w.setWidth 8 :: (w >>> 8).setWidth 8 :: (w >>> 16).setWidth 8 :: (w >>> 24).setWidth 8 :: rest) = .ok (i, rest)) ∧
  (∀ (w : Word) (i : Instr), decode w = .ok i → i.wf = true) ∧
  (∀ i j : Instr, i.wf = true → j.wf = true → (encode i).isSome = true → encode i = encode j → i = j)

/-- R12, R72, R73, R95: where a word's turn has come, a step runs the instruction that the fetched bytes at the chosen wave's PC decode to, and adds
what follows every word: its next try where it stalled, else the end of its partition's core cycle, the order of issue, the datapath, the replay
count, and waves taken. R180, R183: a word that an order holds waits. What comes before words is the model's choice (log 2): a wait that is met, an
order that is done, a due event of the agenda; timed events and the device's own have their turn, and time passes where no partition has a word left
for its core cycle (log 5). -/
def Obligations.StepRuns : Prop :=
  (∀ (s : State) (i : Instr), s.metWait = some i → step s = exec i s.nextTurn) ∧
  (∀ (s : State) (wi : Nat), s.metWait = none → s.dueHold = some wi → step s = .next (s.settleHolds wi)) ∧
  (∀ s : State, s.metWait = none → s.dueHold = none →
    (∀ (i : Instr) (r : List (Nat × Instr)), s.agenda = (0, i) :: r → step s = exec i { s with agenda := r }) ∧
    ((∀ i r, s.agenda ≠ (0, i) :: r) →
      (∀ (c : Cand) (bs rest : List Byte) (i : Instr), s.turn % 2 = 0 ∨ (s.timed = none ∧ s.due = none) → s.chooseIssue = some c →
        (s.wave c.wave).wordAt = some bs → decodeBytes bs = .ok (i, rest) →
        let t := s.onPort c.wave
        s.ready (s.wave c.wave) = true ∧ i.wf = true ∧
        (s.holdsWord (s.wave c.wave) i = true → step s = .next (t.holdWord c.wave)) ∧
        (s.holdsWord (s.wave c.wave) i = false →
          (∀ u, exec i t = .next u → step s = .next (u.afterWord t c.wave i)) ∧ (∀ r, exec i t = .fault r → step s = .fault r) ∧
          ∀ r, exec i t = .refused r → step s = .refused r)) ∧
      (∀ i, s.timed = some i → s.turn % 2 = 1 ∨ s.chooseIssue = none → step s = exec i s.nextTurn) ∧
      (∀ i, s.timed = none → s.due = some i → s.turn % 2 = 1 → step s = exec i s.nextTurn) ∧
      (s.timed = none → s.chooseIssue = none → s.turn % 2 = 0 ∨ s.due = none → step s = .next s.nextTurn.advance))) ∧
  (∀ (s : State) (i : Nat), i < s.waves.length → let t := s.onPort i
    t.issuing = i ∧ t.mem = s.mem ∧ t.tick = s.tick ∧ t.blocks = s.blocks ∧ t.launches = s.launches ∧ t.waves.length = s.waves.length ∧
    ∀ k, { (t.wave k).regs with waitCount := 0, skipCycle := false } = { (s.wave k).regs with waitCount := 0, skipCycle := false }) ∧
  (∀ (w : Wave) (x : Word), w.ibuf = some (w.pc, x) →
    w.wordAt = some [x.setWidth 8, (x >>> 8).setWidth 8, (x >>> 16).setWidth 8, (x >>> 24).setWidth 8])

/-- The machine right after reset keeps the invariant, and holds the values that the spec gives for reset: home counts 0 (R213), queues of 16 slots
with HEAD = TAIL = 0 (R49), AGE, SLICE and PINLEASE (R70, R189), HZ 0 and HOLD all ones (R229), no key (R278), both planes zero (R241), and nothing
resident, cached or on its way. That memory lists nothing then, and that the boot finds a genuine image, are the model's choices (log 1, log 6: DESIGN
CHOICE). -/
def Obligations.ResetState : Prop :=
  State.reset.Inv ∧ State.reset.mem = [] ∧ State.reset.launches = [] ∧ State.reset.blocks = [] ∧ State.reset.waves = [] ∧
  State.reset.reqs = [] ∧ State.reset.resvs = [] ∧ State.reset.copies = [] ∧ State.reset.xfers = [] ∧ State.reset.verified = [] ∧
  State.reset.recovery = false ∧
  (∀ t ∈ State.reset.towers, t.count = 0 ∧ t.keeps = [] ∧ t.log = [] ∧ t.home = [] ∧ t.remote = []) ∧
  (∀ c ∈ State.reset.cores, c.gen = 0 ∧ c.l1 = [] ∧ c.pins = [] ∧ c.array.holder = none ∧ c.array.active = Plane.zero ∧
    c.array.shadow = Plane.zero) ∧
  (∀ g ∈ State.reset.funcs, (∀ q ∈ g.queues, q.log2 = 4 ∧ q.head = 0 ∧ q.tail = 0 ∧ q.ceil = 0 ∧ q.base = 0) ∧ g.queues.length = 8 ∧
    g.fage = 1000000 ∧ g.fslice = 100000 ∧ g.fpin = 65536 ∧ g.hz = 0 ∧ g.hold = BitVec.allOnes 64 ∧ g.floor = 0 ∧ g.susp = false ∧
    g.vfyBusy = false ∧ g.keepBusy = false ∧ g.saveSize = 0 ∧ g.ptEn = false) ∧
  ∀ k ∈ State.reset.keys, k = none

/-- R17, R28, R30, R35, R39, R90, R248: every step keeps the invariant: memory in its canonical form, the units that the device is built with, eight
split-table entries with one of them current and at most 64 lanes in every wave, every wave in a block and every block in a launch and on a core
of the machine, one barrier phase for each group, and 1,024 words in every tile. -/
def Obligations.StepKeepsInv : Prop := ∀ s t : State, s.Inv → step s = .next t → t.Inv

/-- R212: a stamp's bits [63:2] are its count and its bits [1:0] its tower, that of the home which performed the event; stamps are compared as
unsigned integers, and those of equal count by tower. -/
def Obligations.StampOrder : Prop :=
  (∀ a b : Stamp, a < b ↔ a.toNat < b.toNat) ∧
  (∀ count tower : Nat, count < 2 ^ 62 → tower < 4 →
    ((stampOf count tower).extractLsb 63 2).toNat = count ∧ ((stampOf count tower).extractLsb 1 0).toNat = tower ∧
    stampCount (stampOf count tower) = count) ∧
  (∀ c d t u : Nat, c < 2 ^ 62 → d < 2 ^ 62 → t < 4 → u < 4 → (stampOf c t < stampOf d u ↔ c < d ∨ (c = d ∧ t < u))) ∧
  (∀ (s : State) (r : Req) (own : Option (Nat × Nat)), peerOf r.line = 0 → (s.homeStore r own).2.toNat % 4 = homeOf r.line) ∧
  ∀ a b : Stamp, maxStamp a b = if a < b then b else a

/-- Physical memory: every write keeps the canonical form, a read after a write gives the byte written there and what stood elsewhere, two
memories that read alike are equal, and a little-endian value is read back as it was written (R4). What is written through a key is read through it,
what stood elsewhere too, and what another key wrote reads as a function that the model leaves open (R163, R278, log 8). -/
def Obligations.MemoryLaws : Prop :=
  (∀ (m : List Host.Cell) (a : Nat) (b : Byte), Memory.wf m → Memory.wf (Memory.write m a b) ∧ ∀ x,
    Memory.read (Memory.write m a b) x = if x = a then b else Memory.read m x) ∧
  (∀ (m : List Host.Cell) (bs : List (Nat × Byte)), Memory.wf m → Memory.wf (Memory.writeAll m bs) ∧
    (∀ x, x ∉ bs.map (fun b => b.1) → Memory.read (Memory.writeAll m bs) x = Memory.read m x) ∧
    ((bs.map fun b => b.1).Nodup → ∀ b ∈ bs, Memory.read (Memory.writeAll m bs) b.1 = b.2)) ∧
  (∀ m n : List Host.Cell, Memory.wf m → Memory.wf n → (∀ a, Memory.read m a = Memory.read n a) → m = n) ∧
  (∀ (s : State) (a x n : Nat), leNat (s.poke (leBytes a x n)).peek a n = x % 256 ^ n) ∧
  (∀ (s : State) (key : Nat) (bs : List (Nat × Byte)), (bs.map fun b => b.1).Nodup → let t := s.pokeBy key bs
    (∀ b ∈ bs, t.peekBy key b.1 = b.2) ∧ (∀ a, a ∉ bs.map (fun b => b.1) → t.peekBy key a = s.peekBy key a) ∧
    ∀ a, (∀ b ∈ bs, b.1 / 16 ≠ a / 16) → ∀ k, t.peekBy k a = s.peekBy k a) ∧
  ∀ (s : State) (key a : Nat) (p w : List Word64), s.pair key = some p → sealOf s.seals a = some w →
    s.peekBy key a = if w = p then s.peek a else Config.throughKey w p (a / 16) (bytesAt s.peek (a / 16 * 16) 16) (a % 16)
end

