-- ==== Sys2Proof/Laws/Decode.lean ====
section
/-! SUPPORT. Lemmas about the decoder: a field or bit of a word from the word's number, the round trip of every code, and what a decoder
needs of a word. -/

namespace Sys2Proof

/-- A field holds the value that the word's number has there. -/
theorem field_of_toNat {w : Word} {lo n : Nat} {x : BitVec n} (h : w.toNat / 2 ^ lo % 2 ^ n = x.toNat) : field w lo n = x := by
  apply BitVec.eq_of_toNat_eq
  rw [field, BitVec.toNat_ofNat, h]

/-- The number of a field. -/
theorem field_toNat {w : Word} {lo n k : Nat} (h : w.toNat / 2 ^ lo % 2 ^ n = k) : (field w lo n).toNat = k := by
  rw [field, BitVec.toNat_ofNat, h]

/-- A bit from the word's number. -/
theorem bit_of_toNat {w : Word} {k : Nat} {b : Bool} (h : w.toNat / 2 ^ k % 2 = b.toNat) : bit w k = b := by
  rw [bit, h]
  cases b <;> rfl

/-- The number of an encoded word. -/
theorem toNat_of_some {w : Word} {n : Nat} (h : some (BitVec.ofNat 32 n) = some w) (hn : n < 2 ^ 32) : w.toNat = n := by
  cases h
  rw [BitVec.toNat_ofNat]
  exact Nat.mod_eq_of_lt hn

/-- One field that is zero. -/
theorem allZero1 {w : Word} {lo n : Nat} (h : w.toNat / 2 ^ lo % 2 ^ n = 0) : allZero w [(lo, n)] = true := by
  simp [allZero, h]

/-- Two fields that are zero. -/
theorem allZero2 {w : Word} {lo n lo' n' : Nat} (h : w.toNat / 2 ^ lo % 2 ^ n = 0) (h' : w.toNat / 2 ^ lo' % 2 ^ n' = 0) :
    allZero w [(lo, n), (lo', n')] = true := by
  simp [allZero, h, h']

/-- Three fields that are zero. -/
theorem allZero3 {w : Word} {lo n lo' n' lo2 n2 : Nat} (h : w.toNat / 2 ^ lo % 2 ^ n = 0) (h' : w.toNat / 2 ^ lo' % 2 ^ n' = 0)
    (h2 : w.toNat / 2 ^ lo2 % 2 ^ n2 = 0) : allZero w [(lo, n), (lo', n'), (lo2, n2)] = true := by
  simp [allZero, h, h', h2]

/-- The decoder gives the form that the codes name where its checks pass. -/
theorem decode_of_parse {w : Word} {i : Instr} (h : parse w = some i) (c : checkWord w i = .ok i) : decode w = .ok i := by
  unfold decode
  rw [h]
  exact c

/-- The checks of a word pass. -/
theorem checkWord_ok {w : Word} {i : Instr} (r : allZero w (reservedFields i) = true) (u : allZero w (unusedFields i) = true)
    (hw : i.wf = true) (hz : parkRule i = .zero → bit w 31 = false) (ho : parkRule i = .one → bit w 31 = true) :
    checkWord w i = .ok i := by
  simp only [Instr.wf, Bool.and_eq_true] at hw
  obtain ⟨⟨a, b⟩, c⟩ := hw
  unfold checkWord
  rw [r, a, u, b, c]
  cases hp : parkRule i <;> simp_all

/-- Round trip of the codes. -/
theorem AtomOp.code_ofCode (x : AtomOp) : AtomOp.ofCode (AtomOp.code x) = some x := by cases x <;> rfl

/-- Round trip of the codes. -/
theorem BlkType.code_ofCode (x : BlkType) : BlkType.ofCode (BlkType.code x) = some x := by cases x <;> rfl

/-- Round trip of the codes. -/
theorem BrCond.code_ofCode (x : BrCond) : BrCond.ofCode (BrCond.code x) = some x := by cases x <;> rfl

/-- Round trip of the codes. -/
theorem Cache.code_ofCode (x : Cache) : Cache.ofCode (Cache.code x) = some x := by cases x <;> rfl

/-- Round trip of the codes. -/
theorem Cond.code_ofCode (x : Cond) : Cond.ofCode (Cond.code x) = some x := by cases x <;> rfl

/-- Round trip of the codes. -/
theorem CvtRnd.code_ofCode (x : CvtRnd) : CvtRnd.ofCode (CvtRnd.code x) = some x := by cases x <;> rfl

/-- Round trip of the codes. -/
theorem CvtType.code_ofCode (x : CvtType) : CvtType.ofCode (CvtType.code x) = some x := by cases x <;> rfl

/-- Round trip of the codes. -/
theorem EClass.code_ofCode (x : EClass) : EClass.ofCode (EClass.code x) = some x := by cases x <;> rfl

/-- Round trip of the codes. -/
theorem FMaj.code_ofCode (x : FMaj) : FMaj.ofCode (FMaj.code x) = some x := by cases x <;> rfl

/-- Round trip of the codes. -/
theorem FType.code_ofCode (x : FType) : FType.ofCode (FType.code x) = some x := by cases x <;> rfl

/-- Round trip of the codes. -/
theorem KCode.code_ofCode (x : KCode) : KCode.ofCode (KCode.code x) = some x := by cases x <;> rfl

/-- Round trip of the codes. -/
theorem MRows.code_ofCode (x : MRows) : MRows.ofCode (MRows.code x) = some x := by cases x <;> rfl

/-- Round trip of the codes. -/
theorem MSize.code_ofCode (x : MSize) : MSize.ofCode (MSize.code x) = some x := by cases x <;> rfl

/-- Round trip of the codes. -/
theorem MType.code_ofCode (x : MType) : MType.ofCode (MType.code x) = some x := by cases x <;> rfl

/-- Round trip of the codes. -/
theorem NReg.code_ofCode (x : NReg) : NReg.ofCode (NReg.code x) = some x := by cases x <;> rfl

/-- Round trip of the codes. -/
theorem Order.code_ofCode (x : Order) : Order.ofCode (Order.code x) = some x := by cases x <;> rfl

/-- Round trip of the codes. -/
theorem PType.code_ofCode (x : PType) : PType.ofCode (PType.code x) = some x := by cases x <;> rfl

/-- Round trip of the codes. -/
theorem PrefClass.code_ofCode (x : PrefClass) : PrefClass.ofCode (PrefClass.code x) = some x := by cases x <;> rfl

/-- Round trip of the codes. -/
theorem PrefLevel.code_ofCode (x : PrefLevel) : PrefLevel.ofCode (PrefLevel.code x) = some x := by cases x <;> rfl

/-- Round trip of the codes. -/
theorem RMode.code_ofCode (x : RMode) : RMode.ofCode (RMode.code x) = some x := by cases x <;> rfl

/-- Round trip of the codes. -/
theorem RType.code_ofCode (x : RType) : RType.ofCode (RType.code x) = some x := by cases x <;> rfl

/-- Round trip of the codes. -/
theorem RedOp.code_ofCode (x : RedOp) : RedOp.ofCode (RedOp.code x) = some x := by cases x <;> rfl

/-- Round trip of the codes. -/
theorem RettMode.code_ofCode (x : RettMode) : RettMode.ofCode (RettMode.code x) = some x := by cases x <;> rfl

/-- Round trip of the codes. -/
theorem Scope.code_ofCode (x : Scope) : Scope.ofCode (Scope.code x) = some x := by cases x <;> rfl

/-- Round trip of the codes. -/
theorem SfuType.code_ofCode (x : SfuType) : SfuType.ofCode (SfuType.code x) = some x := by cases x <;> rfl

/-- Round trip of the codes. -/
theorem Space.code_ofCode (x : Space) : Space.ofCode (Space.code x) = some x := by cases x <;> rfl

/-- Round trip of the codes. -/
theorem VCond.code_ofCode (x : VCond) : VCond.ofCode (VCond.code x) = some x := by cases x <;> rfl

/-- Round trip of the codes. -/
theorem VType.code_ofCode (x : VType) : VType.ofCode (VType.code x) = some x := by cases x <;> rfl

/-- Round trip of the codes. -/
theorem WCond.code_ofCode (x : WCond) : WCond.ofCode (WCond.code x) = some x := by cases x <;> rfl

/-- Round trip of the codes. -/
theorem WSize.code_ofCode (x : WSize) : WSize.ofCode (WSize.code x) = some x := by cases x <;> rfl

/-- Round trip of the codes. -/
theorem WType.code_ofCode (x : WType) : WType.ofCode (WType.code x) = some x := by cases x <;> rfl

/-- The four majors of the VF forms (R83, R103). -/
theorem parse_float {w : Word} (k : FMaj) (h : w.toNat / 2 ^ 25 % 2 ^ 6 = 16 + (FMaj.code k).toNat) : parse w = parseMaj15 w := by
  have h := field_toNat h
  unfold parse
  rw [h]
  cases k <;> rfl

/-- The fields of a word of this layout: MAJ, the code field, the fixed P, the operands, and the bits that are zero. -/
theorem layout1 {w : Word} {C m q c x0 : Nat} (h : some (BitVec.ofNat 32 (C + x0 * 0x80000000)) = some w)
    (hc : C = q * 0x80000000 + m * 0x2000000 + c * 0x1 ∧ m < 64 ∧ q < 1) (hd : c < 16) (b0 : x0 < 2 ^ 1) :
    w.toNat / 33554432 % 64 = m ∧ w.toNat / 1 % 16 = c ∧ w.toNat / 2147483648 % 2 = x0 ∧ w.toNat / 16 % 2097152 = 0 := by
  have hw := toNat_of_some h (by omega)
  refine ⟨?_, ?_, ?_, ?_⟩ <;> omega

/-- The fields of a word of this layout: MAJ, the code field, the fixed P, the operands, and the bits that are zero. -/
theorem layout2 {w : Word} {C m q c  : Nat} (h : some (BitVec.ofNat 32 (C)) = some w)
    (hc : C = q * 0x80000000 + m * 0x2000000 + c * 0x1 ∧ m < 64 ∧ q < 2) (hd : c < 16) :
    w.toNat / 33554432 % 64 = m ∧ w.toNat / 1 % 16 = c ∧ w.toNat / 2147483648 % 2 = q ∧ w.toNat / 16 % 2097152 = 0 := by
  have hw := toNat_of_some h (by omega)
  refine ⟨?_, ?_, ?_, ?_⟩ <;> omega

/-- The fields of a word of this layout: MAJ, the code field, the fixed P, the operands, and the bits that are zero. -/
theorem layout3 {w : Word} {C m q c x0 x1 : Nat} (h : some (BitVec.ofNat 32 (C + x0 * 0x80000000 + x1 * 0x10)) = some w)
    (hc : C = q * 0x80000000 + m * 0x2000000 + c * 0x1 ∧ m < 64 ∧ q < 1) (hd : c < 16) (b0 : x0 < 2 ^ 1) (b1 : x1 < 2 ^ 9) :
    w.toNat / 33554432 % 64 = m ∧ w.toNat / 1 % 16 = c ∧ w.toNat / 2147483648 % 2 = x0 ∧ w.toNat / 16 % 512 = x1 ∧ w.toNat / 8192 % 4096 = 0 := by
  have hw := toNat_of_some h (by omega)
  refine ⟨?_, ?_, ?_, ?_, ?_⟩ <;> omega

/-- The fields of a word of this layout: MAJ, the code field, the fixed P, the operands, and the bits that are zero. -/
theorem layout4 {w : Word} {C m q c x0 : Nat} (h : some (BitVec.ofNat 32 (C + x0 * 0x10)) = some w)
    (hc : C = q * 0x80000000 + m * 0x2000000 + c * 0x1 ∧ m < 64 ∧ q < 2) (hd : c < 16) (b0 : x0 < 2 ^ 9) :
    w.toNat / 33554432 % 64 = m ∧ w.toNat / 1 % 16 = c ∧ w.toNat / 2147483648 % 2 = q ∧ w.toNat / 16 % 512 = x0 ∧ w.toNat / 8192 % 4096 = 0 := by
  have hw := toNat_of_some h (by omega)
  refine ⟨?_, ?_, ?_, ?_, ?_⟩ <;> omega

/-- The fields of a word of this layout: MAJ, the code field, the fixed P, the operands, and the bits that are zero. -/
theorem layout5 {w : Word} {C m q c x0 x1 x2 : Nat} (h : some (BitVec.ofNat 32 (C + x0 * 0x80000000 + x1 * 0x80000 + x2 * 0x2000)) = some w)
    (hc : C = q * 0x80000000 + m * 0x2000000 + c * 0x1 ∧ m < 64 ∧ q < 1) (hd : c < 16) (b0 : x0 < 2 ^ 1) (b1 : x1 < 2 ^ 6) (b2 : x2 < 2 ^ 6) :
    w.toNat / 33554432 % 64 = m ∧ w.toNat / 1 % 16 = c ∧ w.toNat / 2147483648 % 2 = x0 ∧ w.toNat / 524288 % 64 = x1 ∧ w.toNat / 8192 % 64 = x2 ∧ w.toNat / 16 % 512 = 0 := by
  have hw := toNat_of_some h (by omega)
  refine ⟨?_, ?_, ?_, ?_, ?_, ?_⟩ <;> omega

/-- The fields of a word of this layout: MAJ, the code field, the fixed P, the operands, and the bits that are zero. -/
theorem layout6 {w : Word} {C m q c x0 x1 : Nat} (h : some (BitVec.ofNat 32 (C + x0 * 0x80000000 + x1 * 0x80000)) = some w)
    (hc : C = q * 0x80000000 + m * 0x2000000 + c * 0x1 ∧ m < 64 ∧ q < 1) (hd : c < 16) (b0 : x0 < 2 ^ 1) (b1 : x1 < 2 ^ 6) :
    w.toNat / 33554432 % 64 = m ∧ w.toNat / 1 % 16 = c ∧ w.toNat / 2147483648 % 2 = x0 ∧ w.toNat / 524288 % 64 = x1 ∧ w.toNat / 16 % 32768 = 0 := by
  have hw := toNat_of_some h (by omega)
  refine ⟨?_, ?_, ?_, ?_, ?_⟩ <;> omega

/-- The fields of a word of this layout: MAJ, the code field, the fixed P, the operands. -/
theorem layout7 {w : Word} {C m q c x0 : Nat} (h : some (BitVec.ofNat 32 (C + x0)) = some w)
    (hc : C = q * 0x80000000 + m * 0x2000000 + c * 0x200000 ∧ m < 64 ∧ q < 2) (hd : c < 16) (b0 : x0 < 2 ^ 21) :
    w.toNat / 33554432 % 64 = m ∧ w.toNat / 2097152 % 16 = c ∧ w.toNat / 2147483648 % 2 = q ∧ w.toNat / 1 % 2097152 = x0 := by
  have hw := toNat_of_some h (by omega)
  refine ⟨?_, ?_, ?_, ?_⟩ <;> omega

/-- The fields of a word of this layout: MAJ, the code field, the fixed P, the operands, and the bits that are zero. -/
theorem layout8 {w : Word} {C m q c x0 x1 : Nat} (h : some (BitVec.ofNat 32 (C + x0 * 0x80000 + x1 * 0x10000)) = some w)
    (hc : C = q * 0x80000000 + m * 0x2000000 + c * 0x200000 ∧ m < 64 ∧ q < 2) (hd : c < 16) (b0 : x0 < 2 ^ 2) (b1 : x1 < 2 ^ 3) :
    w.toNat / 33554432 % 64 = m ∧ w.toNat / 2097152 % 16 = c ∧ w.toNat / 2147483648 % 2 = q ∧ w.toNat / 524288 % 4 = x0 ∧ w.toNat / 65536 % 8 = x1 ∧ w.toNat / 1 % 65536 = 0 := by
  have hw := toNat_of_some h (by omega)
  refine ⟨?_, ?_, ?_, ?_, ?_, ?_⟩ <;> omega

/-- The fields of a word of this layout: MAJ, the code field, the fixed P, the operands, and the bits that are zero. -/
theorem layout9 {w : Word} {C m q c x0 x1 x2 : Nat} (h : some (BitVec.ofNat 32 (C + x0 * 0x2000 + x1 * 0x1000 + x2 * 0x200)) = some w)
    (hc : C = q * 0x80000000 + m * 0x2000000 + c * 0x200000 ∧ m < 64 ∧ q < 2) (hd : c < 16) (b0 : x0 < 2 ^ 8) (b1 : x1 < 2 ^ 1) (b2 : x2 < 2 ^ 3) :
    w.toNat / 33554432 % 64 = m ∧ w.toNat / 2097152 % 16 = c ∧ w.toNat / 2147483648 % 2 = q ∧ w.toNat / 8192 % 256 = x0 ∧ w.toNat / 4096 % 2 = x1 ∧ w.toNat / 512 % 8 = x2 ∧ w.toNat / 1 % 512 = 0 := by
  have hw := toNat_of_some h (by omega)
  refine ⟨?_, ?_, ?_, ?_, ?_, ?_, ?_⟩ <;> omega

/-- The fields of a word of this layout: MAJ, the code field, the fixed P, the operands, and the bits that are zero. -/
theorem layout10 {w : Word} {C m q c x0 : Nat} (h : some (BitVec.ofNat 32 (C + x0 * 0x40000)) = some w)
    (hc : C = q * 0x80000000 + m * 0x2000000 + c * 0x200000 ∧ m < 64 ∧ q < 2) (hd : c < 16) (b0 : x0 < 2 ^ 3) :
    w.toNat / 33554432 % 64 = m ∧ w.toNat / 2097152 % 16 = c ∧ w.toNat / 2147483648 % 2 = q ∧ w.toNat / 262144 % 8 = x0 ∧ w.toNat / 1 % 262144 = 0 := by
  have hw := toNat_of_some h (by omega)
  refine ⟨?_, ?_, ?_, ?_, ?_⟩ <;> omega

/-- The fields of a word of this layout: MAJ, the fixed P, the operands. -/
theorem layout11 {w : Word} {C m q x0 x1 x2 : Nat} (h : some (BitVec.ofNat 32 (C + x0 * 0x200000 + x1 * 0x40000 + x2)) = some w)
    (hc : C = q * 0x80000000 + m * 0x2000000 ∧ m < 64 ∧ q < 2) (b0 : x0 < 2 ^ 4) (b1 : x1 < 2 ^ 3) (b2 : x2 < 2 ^ 18) :
    w.toNat / 33554432 % 64 = m ∧ w.toNat / 2147483648 % 2 = q ∧ w.toNat / 2097152 % 16 = x0 ∧ w.toNat / 262144 % 8 = x1 ∧ w.toNat / 1 % 262144 = x2 := by
  have hw := toNat_of_some h (by omega)
  refine ⟨?_, ?_, ?_, ?_, ?_⟩ <;> omega

/-- The fields of a word of this layout: MAJ, the fixed P, the operands. -/
theorem layout12 {w : Word} {C m q x0 : Nat} (h : some (BitVec.ofNat 32 (C + x0)) = some w)
    (hc : C = q * 0x80000000 + m * 0x2000000 ∧ m < 64 ∧ q < 2) (b0 : x0 < 2 ^ 25) :
    w.toNat / 33554432 % 64 = m ∧ w.toNat / 2147483648 % 2 = q ∧ w.toNat / 1 % 33554432 = x0 := by
  have hw := toNat_of_some h (by omega)
  refine ⟨?_, ?_, ?_⟩ <;> omega

/-- The fields of a word of this layout: MAJ, the code field, the fixed P, the operands, and the bits that are zero. -/
theorem layout13 {w : Word} {C m q c x0 : Nat} (h : some (BitVec.ofNat 32 (C + x0 * 0x80000)) = some w)
    (hc : C = q * 0x80000000 + m * 0x2000000 + c * 0x10000 ∧ m < 64 ∧ q < 2) (hd : c < 8) (b0 : x0 < 2 ^ 6) :
    w.toNat / 33554432 % 64 = m ∧ w.toNat / 65536 % 8 = c ∧ w.toNat / 2147483648 % 2 = q ∧ w.toNat / 524288 % 64 = x0 ∧ w.toNat / 1 % 65536 = 0 := by
  have hw := toNat_of_some h (by omega)
  refine ⟨?_, ?_, ?_, ?_, ?_⟩ <;> omega

/-- The fields of a word of this layout: MAJ, the code field, the fixed P, the operands, and the bits that are zero. -/
theorem layout14 {w : Word} {C m q c  : Nat} (h : some (BitVec.ofNat 32 (C)) = some w)
    (hc : C = q * 0x80000000 + m * 0x2000000 + c * 0x10000 ∧ m < 64 ∧ q < 2) (hd : c < 8) :
    w.toNat / 33554432 % 64 = m ∧ w.toNat / 65536 % 8 = c ∧ w.toNat / 2147483648 % 2 = q ∧ w.toNat / 1 % 65536 = 0 ∧ w.toNat / 524288 % 64 = 0 := by
  have hw := toNat_of_some h (by omega)
  refine ⟨?_, ?_, ?_, ?_, ?_⟩ <;> omega

/-- The fields of a word of this layout: MAJ, the fixed P, the operands. -/
theorem layout15 {w : Word} {C m q x0 x1 : Nat} (h : some (BitVec.ofNat 32 (C + x0 * 0x400000 + x1)) = some w)
    (hc : C = q * 0x80000000 + m * 0x2000000 ∧ m < 64 ∧ q < 2) (b0 : x0 < 2 ^ 3) (b1 : x1 < 2 ^ 22) :
    w.toNat / 33554432 % 64 = m ∧ w.toNat / 2147483648 % 2 = q ∧ w.toNat / 4194304 % 8 = x0 ∧ w.toNat / 1 % 4194304 = x1 := by
  have hw := toNat_of_some h (by omega)
  refine ⟨?_, ?_, ?_, ?_⟩ <;> omega

/-- The fields of a word of this layout: MAJ, the fixed P, the operands, and the bits that are zero. -/
theorem layout16 {w : Word} {C m q x0 x1 x2 x3 : Nat} (h : some (BitVec.ofNat 32 (C + x0 * 0x80000000 + x1 * 0x20000 + x2 * 0x200 + x3 * 0x40)) = some w)
    (hc : C = q * 0x80000000 + m * 0x2000000 ∧ m < 64 ∧ q < 1) (b0 : x0 < 2 ^ 1) (b1 : x1 < 2 ^ 8) (b2 : x2 < 2 ^ 8) (b3 : x3 < 2 ^ 3) :
    w.toNat / 33554432 % 64 = m ∧ w.toNat / 2147483648 % 2 = x0 ∧ w.toNat / 131072 % 256 = x1 ∧ w.toNat / 512 % 256 = x2 ∧ w.toNat / 64 % 8 = x3 ∧ w.toNat / 1 % 64 = 0 := by
  have hw := toNat_of_some h (by omega)
  refine ⟨?_, ?_, ?_, ?_, ?_, ?_⟩ <;> omega

/-- The fields of a word of this layout: MAJ, the code field, the fixed P, the operands. -/
theorem layout17 {w : Word} {C m q c x0 x1 x2 x3 : Nat} (h : some (BitVec.ofNat 32 (C + x0 * 0x80000000 + x1 * 0x80000 + x2 * 0x2000 + x3 * 0x80)) = some w)
    (hc : C = q * 0x80000000 + m * 0x2000000 + c * 0x1 ∧ m < 64 ∧ q < 1) (hd : c < 128) (b0 : x0 < 2 ^ 1) (b1 : x1 < 2 ^ 6) (b2 : x2 < 2 ^ 6) (b3 : x3 < 2 ^ 6) :
    w.toNat / 33554432 % 64 = m ∧ w.toNat / 1 % 128 = c ∧ w.toNat / 2147483648 % 2 = x0 ∧ w.toNat / 524288 % 64 = x1 ∧ w.toNat / 8192 % 64 = x2 ∧ w.toNat / 128 % 64 = x3 := by
  have hw := toNat_of_some h (by omega)
  refine ⟨?_, ?_, ?_, ?_, ?_, ?_⟩ <;> omega

/-- The fields of a word of this layout: MAJ, the code field, the fixed P, the operands, and the bits that are zero. -/
theorem layout18 {w : Word} {C m q c x0 x1 x2 : Nat} (h : some (BitVec.ofNat 32 (C + x0 * 0x80000000 + x1 * 0x80000 + x2 * 0x2000)) = some w)
    (hc : C = q * 0x80000000 + m * 0x2000000 + c * 0x1 ∧ m < 64 ∧ q < 1) (hd : c < 128) (b0 : x0 < 2 ^ 1) (b1 : x1 < 2 ^ 6) (b2 : x2 < 2 ^ 6) :
    w.toNat / 33554432 % 64 = m ∧ w.toNat / 1 % 128 = c ∧ w.toNat / 2147483648 % 2 = x0 ∧ w.toNat / 524288 % 64 = x1 ∧ w.toNat / 8192 % 64 = x2 ∧ w.toNat / 128 % 64 = 0 := by
  have hw := toNat_of_some h (by omega)
  refine ⟨?_, ?_, ?_, ?_, ?_, ?_⟩ <;> omega

/-- The fields of a word of this layout: MAJ, the code field, the fixed P, the operands, and the bits that are zero. -/
theorem layout19 {w : Word} {C m q c x0 x1 x2 x3 : Nat} (h : some (BitVec.ofNat 32 (C + x0 * 0x80000000 + x1 * 0x2000 + x2 * 0x80 + x3)) = some w)
    (hc : C = q * 0x80000000 + m * 0x2000000 + c * 0x10 ∧ m < 64 ∧ q < 1) (hd : c < 8) (b0 : x0 < 2 ^ 1) (b1 : x1 < 2 ^ 6) (b2 : x2 < 2 ^ 6) (b3 : x3 < 2 ^ 4) :
    w.toNat / 33554432 % 64 = m ∧ w.toNat / 16 % 8 = c ∧ w.toNat / 2147483648 % 2 = x0 ∧ w.toNat / 8192 % 64 = x1 ∧ w.toNat / 128 % 64 = x2 ∧ w.toNat / 1 % 16 = x3 ∧ w.toNat / 524288 % 64 = 0 := by
  have hw := toNat_of_some h (by omega)
  refine ⟨?_, ?_, ?_, ?_, ?_, ?_, ?_⟩ <;> omega

/-- The fields of a word of this layout: MAJ, the code field, the fixed P, the operands. -/
theorem layout20 {w : Word} {C m q c x0 x1 x2 x3 : Nat} (h : some (BitVec.ofNat 32 (C + x0 * 0x80000000 + x1 * 0x80000 + x2 * 0x2000 + x3)) = some w)
    (hc : C = q * 0x80000000 + m * 0x2000000 + c * 0x400 ∧ m < 64 ∧ q < 1) (hd : c < 8) (b0 : x0 < 2 ^ 1) (b1 : x1 < 2 ^ 6) (b2 : x2 < 2 ^ 6) (b3 : x3 < 2 ^ 10) :
    w.toNat / 33554432 % 64 = m ∧ w.toNat / 1024 % 8 = c ∧ w.toNat / 2147483648 % 2 = x0 ∧ w.toNat / 524288 % 64 = x1 ∧ w.toNat / 8192 % 64 = x2 ∧ w.toNat / 1 % 1024 = x3 := by
  have hw := toNat_of_some h (by omega)
  refine ⟨?_, ?_, ?_, ?_, ?_, ?_⟩ <;> omega

/-- The fields of a word of this layout: MAJ, the fixed P, the operands. -/
theorem layout21 {w : Word} {C m q x0 x1 x2 : Nat} (h : some (BitVec.ofNat 32 (C + x0 * 0x80000000 + x1 * 0x80000 + x2)) = some w)
    (hc : C = q * 0x80000000 + m * 0x2000000 ∧ m < 64 ∧ q < 1) (b0 : x0 < 2 ^ 1) (b1 : x1 < 2 ^ 6) (b2 : x2 < 2 ^ 19) :
    w.toNat / 33554432 % 64 = m ∧ w.toNat / 2147483648 % 2 = x0 ∧ w.toNat / 524288 % 64 = x1 ∧ w.toNat / 1 % 524288 = x2 := by
  have hw := toNat_of_some h (by omega)
  refine ⟨?_, ?_, ?_, ?_⟩ <;> omega

/-- The fields of a word of this layout: MAJ, the fixed P, the operands, and the bits that are zero. -/
theorem layout22 {w : Word} {C m q x0 x1 x2 : Nat} (h : some (BitVec.ofNat 32 (C + x0 * 0x80000000 + x1 * 0x80000 + x2 * 0x40)) = some w)
    (hc : C = q * 0x80000000 + m * 0x2000000 ∧ m < 64 ∧ q < 1) (b0 : x0 < 2 ^ 1) (b1 : x1 < 2 ^ 6) (b2 : x2 < 2 ^ 13) :
    w.toNat / 33554432 % 64 = m ∧ w.toNat / 2147483648 % 2 = x0 ∧ w.toNat / 524288 % 64 = x1 ∧ w.toNat / 64 % 8192 = x2 ∧ w.toNat / 1 % 64 = 0 := by
  have hw := toNat_of_some h (by omega)
  refine ⟨?_, ?_, ?_, ?_, ?_⟩ <;> omega

/-- The fields of a word of this layout: MAJ, the code field, the fixed P, the operands, and the bits that are zero. -/
theorem layout23 {w : Word} {C m q c x0 x1 x2 x3 : Nat} (h : some (BitVec.ofNat 32 (C + x0 * 0x80000000 + x1 * 0x400000 + x2 * 0x80000 + x3 * 0x10000)) = some w)
    (hc : C = q * 0x80000000 + m * 0x2000000 + c * 0x1 ∧ m < 64 ∧ q < 1) (hd : c < 16) (b0 : x0 < 2 ^ 1) (b1 : x1 < 2 ^ 3) (b2 : x2 < 2 ^ 3) (b3 : x3 < 2 ^ 3) :
    w.toNat / 33554432 % 64 = m ∧ w.toNat / 1 % 16 = c ∧ w.toNat / 2147483648 % 2 = x0 ∧ w.toNat / 4194304 % 8 = x1 ∧ w.toNat / 524288 % 8 = x2 ∧ w.toNat / 65536 % 8 = x3 ∧ w.toNat / 16 % 4096 = 0 := by
  have hw := toNat_of_some h (by omega)
  refine ⟨?_, ?_, ?_, ?_, ?_, ?_, ?_⟩ <;> omega

/-- The fields of a word of this layout: MAJ, the code field, the fixed P, the operands, and the bits that are zero. -/
theorem layout24 {w : Word} {C m q c x0 x1 x2 : Nat} (h : some (BitVec.ofNat 32 (C + x0 * 0x80000000 + x1 * 0x400000 + x2 * 0x80000)) = some w)
    (hc : C = q * 0x80000000 + m * 0x2000000 + c * 0x1 ∧ m < 64 ∧ q < 1) (hd : c < 16) (b0 : x0 < 2 ^ 1) (b1 : x1 < 2 ^ 3) (b2 : x2 < 2 ^ 3) :
    w.toNat / 33554432 % 64 = m ∧ w.toNat / 1 % 16 = c ∧ w.toNat / 2147483648 % 2 = x0 ∧ w.toNat / 4194304 % 8 = x1 ∧ w.toNat / 524288 % 8 = x2 ∧ w.toNat / 16 % 32768 = 0 := by
  have hw := toNat_of_some h (by omega)
  refine ⟨?_, ?_, ?_, ?_, ?_, ?_⟩ <;> omega

/-- The fields of a word of this layout: MAJ, the code field, the fixed P, the operands, and the bits that are zero. -/
theorem layout25 {w : Word} {C m q c x0 x1 x2 : Nat} (h : some (BitVec.ofNat 32 (C + x0 * 0x80000000 + x1 * 0x80000 + x2 * 0x400)) = some w)
    (hc : C = q * 0x80000000 + m * 0x2000000 + c * 0x1 ∧ m < 64 ∧ q < 1) (hd : c < 16) (b0 : x0 < 2 ^ 1) (b1 : x1 < 2 ^ 3) (b2 : x2 < 2 ^ 6) :
    w.toNat / 33554432 % 64 = m ∧ w.toNat / 1 % 16 = c ∧ w.toNat / 2147483648 % 2 = x0 ∧ w.toNat / 524288 % 8 = x1 ∧ w.toNat / 1024 % 64 = x2 ∧ w.toNat / 16 % 64 = 0 ∧ w.toNat / 65536 % 8 = 0 ∧ w.toNat / 4194304 % 8 = 0 := by
  have hw := toNat_of_some h (by omega)
  refine ⟨?_, ?_, ?_, ?_, ?_, ?_, ?_, ?_⟩ <;> omega

/-- The fields of a word of this layout: MAJ, the code field, the fixed P, the operands, and the bits that are zero. -/
theorem layout26 {w : Word} {C m q c x0 x1 x2 : Nat} (h : some (BitVec.ofNat 32 (C + x0 * 0x80000000 + x1 * 0x400000 + x2 * 0x400)) = some w)
    (hc : C = q * 0x80000000 + m * 0x2000000 + c * 0x1 ∧ m < 64 ∧ q < 1) (hd : c < 16) (b0 : x0 < 2 ^ 1) (b1 : x1 < 2 ^ 3) (b2 : x2 < 2 ^ 6) :
    w.toNat / 33554432 % 64 = m ∧ w.toNat / 1 % 16 = c ∧ w.toNat / 2147483648 % 2 = x0 ∧ w.toNat / 4194304 % 8 = x1 ∧ w.toNat / 1024 % 64 = x2 ∧ w.toNat / 16 % 64 = 0 ∧ w.toNat / 65536 % 64 = 0 := by
  have hw := toNat_of_some h (by omega)
  refine ⟨?_, ?_, ?_, ?_, ?_, ?_, ?_⟩ <;> omega

/-- The fields of a word of this layout: MAJ, the code field, the fixed P, the operands, and the bits that are zero. -/
theorem layout27 {w : Word} {C m q c x0 x1 : Nat} (h : some (BitVec.ofNat 32 (C + x0 * 0x80000000 + x1 * 0x400000)) = some w)
    (hc : C = q * 0x80000000 + m * 0x2000000 + c * 0x1 ∧ m < 64 ∧ q < 1) (hd : c < 16) (b0 : x0 < 2 ^ 1) (b1 : x1 < 2 ^ 3) :
    w.toNat / 33554432 % 64 = m ∧ w.toNat / 1 % 16 = c ∧ w.toNat / 2147483648 % 2 = x0 ∧ w.toNat / 4194304 % 8 = x1 ∧ w.toNat / 16 % 262144 = 0 := by
  have hw := toNat_of_some h (by omega)
  refine ⟨?_, ?_, ?_, ?_, ?_⟩ <;> omega

/-- The fields of a word of this layout: MAJ, the fixed P, the operands. -/
theorem layout28 {w : Word} {C m q x0 x1 x2 x3 x4 x5 : Nat} (h : some (BitVec.ofNat 32 (C + x0 * 0x80000000 + x1 * 0x400000 + x2 * 0x8000 + x3 * 0x100 + x4 * 0x10 + x5)) = some w)
    (hc : C = q * 0x80000000 + m * 0x2000000 ∧ m < 64 ∧ q < 1) (b0 : x0 < 2 ^ 1) (b1 : x1 < 2 ^ 3) (b2 : x2 < 2 ^ 7) (b3 : x3 < 2 ^ 7) (b4 : x4 < 2 ^ 4) (b5 : x5 < 2 ^ 4) :
    w.toNat / 33554432 % 64 = m ∧ w.toNat / 2147483648 % 2 = x0 ∧ w.toNat / 4194304 % 8 = x1 ∧ w.toNat / 32768 % 128 = x2 ∧ w.toNat / 256 % 128 = x3 ∧ w.toNat / 16 % 16 = x4 ∧ w.toNat / 1 % 16 = x5 := by
  have hw := toNat_of_some h (by omega)
  refine ⟨?_, ?_, ?_, ?_, ?_, ?_, ?_⟩ <;> omega

/-- The fields of a word of this layout: MAJ, the code field, the fixed P, the operands. -/
theorem layout29 {w : Word} {C m q c x0 x1 x2 x3 : Nat} (h : some (BitVec.ofNat 32 (C + x0 * 0x80000000 + x1 * 0x40000 + x2 * 0x800 + x3 * 0x10)) = some w)
    (hc : C = q * 0x80000000 + m * 0x2000000 + c * 0x1 ∧ m < 64 ∧ q < 1) (hd : c < 16) (b0 : x0 < 2 ^ 1) (b1 : x1 < 2 ^ 7) (b2 : x2 < 2 ^ 7) (b3 : x3 < 2 ^ 7) :
    w.toNat / 33554432 % 64 = m ∧ w.toNat / 1 % 16 = c ∧ w.toNat / 2147483648 % 2 = x0 ∧ w.toNat / 262144 % 128 = x1 ∧ w.toNat / 2048 % 128 = x2 ∧ w.toNat / 16 % 128 = x3 := by
  have hw := toNat_of_some h (by omega)
  refine ⟨?_, ?_, ?_, ?_, ?_, ?_⟩ <;> omega

/-- The fields of a word of this layout: MAJ, the code field, the fixed P, the operands. -/
theorem layout30 {w : Word} {C m q c x0 x1 x2 x3 : Nat} (h : some (BitVec.ofNat 32 (C + x0 * 0x80000000 + x1 * 0x40000 + x2 * 0x800 + x3 * 0x20)) = some w)
    (hc : C = q * 0x80000000 + m * 0x2000000 + c * 0x1 ∧ m < 64 ∧ q < 1) (hd : c < 32) (b0 : x0 < 2 ^ 1) (b1 : x1 < 2 ^ 7) (b2 : x2 < 2 ^ 7) (b3 : x3 < 2 ^ 6) :
    w.toNat / 33554432 % 64 = m ∧ w.toNat / 1 % 32 = c ∧ w.toNat / 2147483648 % 2 = x0 ∧ w.toNat / 262144 % 128 = x1 ∧ w.toNat / 2048 % 128 = x2 ∧ w.toNat / 32 % 64 = x3 := by
  have hw := toNat_of_some h (by omega)
  refine ⟨?_, ?_, ?_, ?_, ?_, ?_⟩ <;> omega

/-- The fields of a word of this layout: MAJ, the code field, the fixed P, the operands, and the bits that are zero. -/
theorem layout31 {w : Word} {C m q c x0 x1 x2 : Nat} (h : some (BitVec.ofNat 32 (C + x0 * 0x80000000 + x1 * 0x40000 + x2 * 0x800)) = some w)
    (hc : C = q * 0x80000000 + m * 0x2000000 + c * 0x1 ∧ m < 64 ∧ q < 1) (hd : c < 16) (b0 : x0 < 2 ^ 1) (b1 : x1 < 2 ^ 7) (b2 : x2 < 2 ^ 7) :
    w.toNat / 33554432 % 64 = m ∧ w.toNat / 1 % 16 = c ∧ w.toNat / 2147483648 % 2 = x0 ∧ w.toNat / 262144 % 128 = x1 ∧ w.toNat / 2048 % 128 = x2 ∧ w.toNat / 16 % 128 = 0 := by
  have hw := toNat_of_some h (by omega)
  refine ⟨?_, ?_, ?_, ?_, ?_, ?_⟩ <;> omega

/-- The fields of a word of this layout: MAJ, the code field, the fixed P, the operands. -/
theorem layout32 {w : Word} {C m q c x0 x1 x2 x3 : Nat} (h : some (BitVec.ofNat 32 (C + x0 * 0x80000000 + x1 * 0x40000 + x2 * 0x800 + x3)) = some w)
    (hc : C = q * 0x80000000 + m * 0x2000000 + c * 0x100 ∧ m < 64 ∧ q < 1) (hd : c < 8) (b0 : x0 < 2 ^ 1) (b1 : x1 < 2 ^ 7) (b2 : x2 < 2 ^ 7) (b3 : x3 < 2 ^ 8) :
    w.toNat / 33554432 % 64 = m ∧ w.toNat / 256 % 8 = c ∧ w.toNat / 2147483648 % 2 = x0 ∧ w.toNat / 262144 % 128 = x1 ∧ w.toNat / 2048 % 128 = x2 ∧ w.toNat / 1 % 256 = x3 := by
  have hw := toNat_of_some h (by omega)
  refine ⟨?_, ?_, ?_, ?_, ?_, ?_⟩ <;> omega

/-- The fields of a word of this layout: MAJ, the code field, the fixed P, the operands, and the bits that are zero. -/
theorem layout33 {w : Word} {C m q c x0 x1 x2 : Nat} (h : some (BitVec.ofNat 32 (C + x0 * 0x80000000 + x1 * 0x40000 + x2)) = some w)
    (hc : C = q * 0x80000000 + m * 0x2000000 + c * 0x100 ∧ m < 64 ∧ q < 1) (hd : c < 8) (b0 : x0 < 2 ^ 1) (b1 : x1 < 2 ^ 7) (b2 : x2 < 2 ^ 8) :
    w.toNat / 33554432 % 64 = m ∧ w.toNat / 256 % 8 = c ∧ w.toNat / 2147483648 % 2 = x0 ∧ w.toNat / 262144 % 128 = x1 ∧ w.toNat / 1 % 256 = x2 ∧ w.toNat / 2048 % 128 = 0 := by
  have hw := toNat_of_some h (by omega)
  refine ⟨?_, ?_, ?_, ?_, ?_, ?_⟩ <;> omega

/-- The fields of a word of this layout: MAJ, the fixed P, the operands, and the bits that are zero. -/
theorem layout34 {w : Word} {C m q x0 x1 x2 x3 x4 : Nat} (h : some (BitVec.ofNat 32 (C + x0 * 0x80000000 + x1 * 0x40000 + x2 * 0x800 + x3 * 0x10 + x4 * 0x2)) = some w)
    (hc : C = q * 0x80000000 + m * 0x2000000 ∧ m < 64 ∧ q < 1) (b0 : x0 < 2 ^ 1) (b1 : x1 < 2 ^ 7) (b2 : x2 < 2 ^ 7) (b3 : x3 < 2 ^ 7) (b4 : x4 < 2 ^ 3) :
    w.toNat / 33554432 % 64 = m ∧ w.toNat / 2147483648 % 2 = x0 ∧ w.toNat / 262144 % 128 = x1 ∧ w.toNat / 2048 % 128 = x2 ∧ w.toNat / 16 % 128 = x3 ∧ w.toNat / 2 % 8 = x4 ∧ w.toNat / 1 % 2 = 0 := by
  have hw := toNat_of_some h (by omega)
  refine ⟨?_, ?_, ?_, ?_, ?_, ?_, ?_⟩ <;> omega

/-- The fields of a word of this layout: MAJ, the code field, the fixed P, the operands. -/
theorem layout35 {w : Word} {C m q c x0 x1 x2 x3 x4 : Nat} (h : some (BitVec.ofNat 32 (C + x0 * 0x80000000 + x1 * 0x2000000 + x2 * 0x40000 + x3 * 0x800 + x4 * 0x10)) = some w)
    (hc : C = q * 0x80000000 + m * 0x2000000 + c * 0x1 ∧ m = 16 ∧ q < 1) (hd : c < 16) (b0 : x0 < 2 ^ 1) (b1 : x1 < 2 ^ 4) (b2 : x2 < 2 ^ 7) (b3 : x3 < 2 ^ 7) (b4 : x4 < 2 ^ 7) :
    w.toNat / 33554432 % 64 = m + x1 ∧ w.toNat / 1 % 16 = c ∧ w.toNat / 2147483648 % 2 = x0 ∧ w.toNat / 33554432 % 16 = x1 ∧ w.toNat / 262144 % 128 = x2 ∧ w.toNat / 2048 % 128 = x3 ∧ w.toNat / 16 % 128 = x4 := by
  have hw := toNat_of_some h (by omega)
  refine ⟨?_, ?_, ?_, ?_, ?_, ?_, ?_⟩ <;> omega

/-- The fields of a word of this layout: MAJ, the code field, the fixed P, the operands, and the bits that are zero. -/
theorem layout36 {w : Word} {C m q c x0 x1 x2 x3 : Nat} (h : some (BitVec.ofNat 32 (C + x0 * 0x80000000 + x1 * 0x2000000 + x2 * 0x40000 + x3 * 0x800)) = some w)
    (hc : C = q * 0x80000000 + m * 0x2000000 + c * 0x1 ∧ m = 16 ∧ q < 1) (hd : c < 16) (b0 : x0 < 2 ^ 1) (b1 : x1 < 2 ^ 4) (b2 : x2 < 2 ^ 7) (b3 : x3 < 2 ^ 7) :
    w.toNat / 33554432 % 64 = m + x1 ∧ w.toNat / 1 % 16 = c ∧ w.toNat / 2147483648 % 2 = x0 ∧ w.toNat / 33554432 % 16 = x1 ∧ w.toNat / 262144 % 128 = x2 ∧ w.toNat / 2048 % 128 = x3 ∧ w.toNat / 16 % 128 = 0 := by
  have hw := toNat_of_some h (by omega)
  refine ⟨?_, ?_, ?_, ?_, ?_, ?_, ?_⟩ <;> omega

/-- The fields of a word of this layout: MAJ, the code field, the fixed P, the operands. -/
theorem layout37 {w : Word} {C m q c x0 x1 x2 x3 x4 : Nat} (h : some (BitVec.ofNat 32 (C + x0 * 0x80000000 + x1 * 0x40000 + x2 * 0x800 + x3 * 0x20 + x4)) = some w)
    (hc : C = q * 0x80000000 + m * 0x2000000 + c * 0x4 ∧ m < 64 ∧ q < 1) (hd : c < 8) (b0 : x0 < 2 ^ 1) (b1 : x1 < 2 ^ 7) (b2 : x2 < 2 ^ 7) (b3 : x3 < 2 ^ 6) (b4 : x4 < 2 ^ 2) :
    w.toNat / 33554432 % 64 = m ∧ w.toNat / 4 % 8 = c ∧ w.toNat / 2147483648 % 2 = x0 ∧ w.toNat / 262144 % 128 = x1 ∧ w.toNat / 2048 % 128 = x2 ∧ w.toNat / 32 % 64 = x3 ∧ w.toNat / 1 % 4 = x4 := by
  have hw := toNat_of_some h (by omega)
  refine ⟨?_, ?_, ?_, ?_, ?_, ?_, ?_⟩ <;> omega

/-- The fields of a word of this layout: MAJ, the code field, the fixed P, the operands, and the bits that are zero. -/
theorem layout38 {w : Word} {C m q c x0 x1 x2 x3 : Nat} (h : some (BitVec.ofNat 32 (C + x0 * 0x80000000 + x1 * 0x40000 + x2 * 0x800 + x3 * 0x20)) = some w)
    (hc : C = q * 0x80000000 + m * 0x2000000 + c * 0x80 ∧ m < 64 ∧ q < 1) (hd : c < 16) (b0 : x0 < 2 ^ 1) (b1 : x1 < 2 ^ 7) (b2 : x2 < 2 ^ 7) (b3 : x3 < 2 ^ 2) :
    w.toNat / 33554432 % 64 = m ∧ w.toNat / 128 % 16 = c ∧ w.toNat / 2147483648 % 2 = x0 ∧ w.toNat / 262144 % 128 = x1 ∧ w.toNat / 2048 % 128 = x2 ∧ w.toNat / 32 % 4 = x3 ∧ w.toNat / 1 % 32 = 0 := by
  have hw := toNat_of_some h (by omega)
  refine ⟨?_, ?_, ?_, ?_, ?_, ?_, ?_⟩ <;> omega

/-- The fields of a word of this layout: MAJ, the fixed P, the operands. -/
theorem layout39 {w : Word} {C m q x0 x1 x2 x3 x4 x5 x6 : Nat} (h : some (BitVec.ofNat 32 (C + x0 * 0x80000000 + x1 * 0x40000 + x2 * 0x800 + x3 * 0x80 + x4 * 0x8 + x5 * 0x2 + x6)) = some w)
    (hc : C = q * 0x80000000 + m * 0x2000000 ∧ m < 64 ∧ q < 1) (b0 : x0 < 2 ^ 1) (b1 : x1 < 2 ^ 7) (b2 : x2 < 2 ^ 7) (b3 : x3 < 2 ^ 4) (b4 : x4 < 2 ^ 4) (b5 : x5 < 2 ^ 2) (b6 : x6 < 2 ^ 1) :
    w.toNat / 33554432 % 64 = m ∧ w.toNat / 2147483648 % 2 = x0 ∧ w.toNat / 262144 % 128 = x1 ∧ w.toNat / 2048 % 128 = x2 ∧ w.toNat / 128 % 16 = x3 ∧ w.toNat / 8 % 16 = x4 ∧ w.toNat / 2 % 4 = x5 ∧ w.toNat / 1 % 2 = x6 := by
  have hw := toNat_of_some h (by omega)
  refine ⟨?_, ?_, ?_, ?_, ?_, ?_, ?_, ?_⟩ <;> omega

/-- The fields of a word of this layout: MAJ, the code field, the fixed P, the operands, and the bits that are zero. -/
theorem layout40 {w : Word} {C m q c x0 x1 x2 x3 : Nat} (h : some (BitVec.ofNat 32 (C + x0 * 0x80000000 + x1 * 0x40000 + x2 * 0x800 + x3 * 0x40)) = some w)
    (hc : C = q * 0x80000000 + m * 0x2000000 + c * 0x100 ∧ m < 64 ∧ q < 1) (hd : c < 8) (b0 : x0 < 2 ^ 1) (b1 : x1 < 2 ^ 7) (b2 : x2 < 2 ^ 7) (b3 : x3 < 2 ^ 2) :
    w.toNat / 33554432 % 64 = m ∧ w.toNat / 256 % 8 = c ∧ w.toNat / 2147483648 % 2 = x0 ∧ w.toNat / 262144 % 128 = x1 ∧ w.toNat / 2048 % 128 = x2 ∧ w.toNat / 64 % 4 = x3 ∧ w.toNat / 1 % 64 = 0 := by
  have hw := toNat_of_some h (by omega)
  refine ⟨?_, ?_, ?_, ?_, ?_, ?_, ?_⟩ <;> omega

/-- The fields of a word of this layout: MAJ, the code field, the fixed P, the operands, and the bits that are zero. -/
theorem layout41 {w : Word} {C m q c x0 x1 x2 x3 : Nat} (h : some (BitVec.ofNat 32 (C + x0 * 0x80000000 + x1 * 0x40000 + x2 * 0x800 + x3 * 0x10)) = some w)
    (hc : C = q * 0x80000000 + m * 0x2000000 + c * 0x1 ∧ m < 64 ∧ q < 1) (hd : c < 16) (b0 : x0 < 2 ^ 1) (b1 : x1 < 2 ^ 6) (b2 : x2 < 2 ^ 7) (b3 : x3 < 2 ^ 7) :
    w.toNat / 33554432 % 64 = m ∧ w.toNat / 1 % 16 = c ∧ w.toNat / 2147483648 % 2 = x0 ∧ w.toNat / 262144 % 64 = x1 ∧ w.toNat / 2048 % 128 = x2 ∧ w.toNat / 16 % 128 = x3 ∧ w.toNat / 16777216 % 2 = 0 := by
  have hw := toNat_of_some h (by omega)
  refine ⟨?_, ?_, ?_, ?_, ?_, ?_, ?_⟩ <;> omega

/-- The fields of a word of this layout: MAJ, the code field, the fixed P, the operands, and the bits that are zero. -/
theorem layout42 {w : Word} {C m q c x0 x1 x2 x3 : Nat} (h : some (BitVec.ofNat 32 (C + x0 * 0x80000000 + x1 * 0x40000 + x2 * 0x800 + x3 * 0x10)) = some w)
    (hc : C = q * 0x80000000 + m * 0x2000000 + c * 0x1 ∧ m < 64 ∧ q < 1) (hd : c < 16) (b0 : x0 < 2 ^ 1) (b1 : x1 < 2 ^ 7) (b2 : x2 < 2 ^ 6) (b3 : x3 < 2 ^ 7) :
    w.toNat / 33554432 % 64 = m ∧ w.toNat / 1 % 16 = c ∧ w.toNat / 2147483648 % 2 = x0 ∧ w.toNat / 262144 % 128 = x1 ∧ w.toNat / 2048 % 64 = x2 ∧ w.toNat / 16 % 128 = x3 ∧ w.toNat / 131072 % 2 = 0 := by
  have hw := toNat_of_some h (by omega)
  refine ⟨?_, ?_, ?_, ?_, ?_, ?_, ?_⟩ <;> omega

/-- The fields of a word of this layout: MAJ, the code field, the fixed P, the operands, and the bits that are zero. -/
theorem layout43 {w : Word} {C m q c x0 x1 x2 x3 : Nat} (h : some (BitVec.ofNat 32 (C + x0 * 0x80000000 + x1 * 0x40000 + x2 * 0x800 + x3 * 0x10)) = some w)
    (hc : C = q * 0x80000000 + m * 0x2000000 + c * 0x1 ∧ m < 64 ∧ q < 1) (hd : c < 16) (b0 : x0 < 2 ^ 1) (b1 : x1 < 2 ^ 7) (b2 : x2 < 2 ^ 7) (b3 : x3 < 2 ^ 3) :
    w.toNat / 33554432 % 64 = m ∧ w.toNat / 1 % 16 = c ∧ w.toNat / 2147483648 % 2 = x0 ∧ w.toNat / 262144 % 128 = x1 ∧ w.toNat / 2048 % 128 = x2 ∧ w.toNat / 16 % 8 = x3 ∧ w.toNat / 128 % 16 = 0 := by
  have hw := toNat_of_some h (by omega)
  refine ⟨?_, ?_, ?_, ?_, ?_, ?_, ?_⟩ <;> omega

/-- The fields of a word of this layout: MAJ, the code field, the fixed P, the operands, and the bits that are zero. -/
theorem layout44 {w : Word} {C m q c x0 x1 : Nat} (h : some (BitVec.ofNat 32 (C + x0 * 0x80000000 + x1 * 0x40000)) = some w)
    (hc : C = q * 0x80000000 + m * 0x2000000 + c * 0x1 ∧ m < 64 ∧ q < 1) (hd : c < 16) (b0 : x0 < 2 ^ 1) (b1 : x1 < 2 ^ 7) :
    w.toNat / 33554432 % 64 = m ∧ w.toNat / 1 % 16 = c ∧ w.toNat / 2147483648 % 2 = x0 ∧ w.toNat / 262144 % 128 = x1 ∧ w.toNat / 16 % 16384 = 0 := by
  have hw := toNat_of_some h (by omega)
  refine ⟨?_, ?_, ?_, ?_, ?_⟩ <;> omega

/-- The fields of a word of this layout: MAJ, the fixed P, the operands. -/
theorem layout45 {w : Word} {C m q x0 x1 x2 x3 x4 x5 : Nat} (h : some (BitVec.ofNat 32 (C + x0 * 0x80000000 + x1 * 0x40000 + x2 * 0x1000 + x3 * 0x20 + x4 * 0x4 + x5)) = some w)
    (hc : C = q * 0x80000000 + m * 0x2000000 ∧ m < 64 ∧ q < 1) (b0 : x0 < 2 ^ 1) (b1 : x1 < 2 ^ 7) (b2 : x2 < 2 ^ 6) (b3 : x3 < 2 ^ 7) (b4 : x4 < 2 ^ 3) (b5 : x5 < 2 ^ 2) :
    w.toNat / 33554432 % 64 = m ∧ w.toNat / 2147483648 % 2 = x0 ∧ w.toNat / 262144 % 128 = x1 ∧ w.toNat / 4096 % 64 = x2 ∧ w.toNat / 32 % 128 = x3 ∧ w.toNat / 4 % 8 = x4 ∧ w.toNat / 1 % 4 = x5 := by
  have hw := toNat_of_some h (by omega)
  refine ⟨?_, ?_, ?_, ?_, ?_, ?_, ?_⟩ <;> omega

/-- The fields of a word of this layout: MAJ, the code field, the fixed P, the operands. -/
theorem layout46 {w : Word} {C m q c x0 x1 x2 x3 x4 : Nat} (h : some (BitVec.ofNat 32 (C + x0 * 0x80000000 + x1 * 0x80000 + x2 * 0x2000 + x3 * 0x8 + x4)) = some w)
    (hc : C = q * 0x80000000 + m * 0x2000000 + c * 0x2 ∧ m < 64 ∧ q < 1) (hd : c < 4) (b0 : x0 < 2 ^ 1) (b1 : x1 < 2 ^ 6) (b2 : x2 < 2 ^ 6) (b3 : x3 < 2 ^ 10) (b4 : x4 < 2 ^ 1) :
    w.toNat / 33554432 % 64 = m ∧ w.toNat / 2 % 4 = c ∧ w.toNat / 2147483648 % 2 = x0 ∧ w.toNat / 524288 % 64 = x1 ∧ w.toNat / 8192 % 64 = x2 ∧ w.toNat / 8 % 1024 = x3 ∧ w.toNat / 1 % 2 = x4 := by
  have hw := toNat_of_some h (by omega)
  refine ⟨?_, ?_, ?_, ?_, ?_, ?_, ?_⟩ <;> omega

/-- The fields of a word of this layout: MAJ, the fixed P, the operands. -/
theorem layout47 {w : Word} {C m q x0 x1 x2 x3 x4 : Nat} (h : some (BitVec.ofNat 32 (C + x0 * 0x80000000 + x1 * 0x40000 + x2 * 0x1000 + x3 * 0x20 + x4)) = some w)
    (hc : C = q * 0x80000000 + m * 0x2000000 ∧ m < 64 ∧ q < 1) (b0 : x0 < 2 ^ 1) (b1 : x1 < 2 ^ 7) (b2 : x2 < 2 ^ 6) (b3 : x3 < 2 ^ 7) (b4 : x4 < 2 ^ 5) :
    w.toNat / 33554432 % 64 = m ∧ w.toNat / 2147483648 % 2 = x0 ∧ w.toNat / 262144 % 128 = x1 ∧ w.toNat / 4096 % 64 = x2 ∧ w.toNat / 32 % 128 = x3 ∧ w.toNat / 1 % 32 = x4 := by
  have hw := toNat_of_some h (by omega)
  refine ⟨?_, ?_, ?_, ?_, ?_, ?_⟩ <;> omega

/-- The fields of a word of this layout: MAJ, the code field, the fixed P, the operands, and the bits that are zero. -/
theorem layout48 {w : Word} {C m q c x0 x1 x2 x3 x4 : Nat} (h : some (BitVec.ofNat 32 (C + x0 * 0x80000000 + x1 * 0x40000 + x2 * 0x1000 + x3 * 0x20 + x4 * 0x4)) = some w)
    (hc : C = q * 0x80000000 + m * 0x2000000 + c * 0x10 ∧ m < 64 ∧ q < 1) (hd : c < 2) (b0 : x0 < 2 ^ 1) (b1 : x1 < 2 ^ 7) (b2 : x2 < 2 ^ 6) (b3 : x3 < 2 ^ 7) (b4 : x4 < 2 ^ 1) :
    w.toNat / 33554432 % 64 = m ∧ w.toNat / 16 % 2 = c ∧ w.toNat / 2147483648 % 2 = x0 ∧ w.toNat / 262144 % 128 = x1 ∧ w.toNat / 4096 % 64 = x2 ∧ w.toNat / 32 % 128 = x3 ∧ w.toNat / 4 % 2 = x4 ∧ w.toNat / 8 % 2 = 0 ∧ w.toNat / 1 % 4 = 0 := by
  have hw := toNat_of_some h (by omega)
  refine ⟨?_, ?_, ?_, ?_, ?_, ?_, ?_, ?_, ?_⟩ <;> omega

/-- The fields of a word of this layout: MAJ, the fixed P, the operands, and the bits that are zero. -/
theorem layout49 {w : Word} {C m q x0 x1 x2 x3 x4 : Nat} (h : some (BitVec.ofNat 32 (C + x0 * 0x80000000 + x1 * 0x1000 + x2 * 0x20 + x3 * 0x4 + x4)) = some w)
    (hc : C = q * 0x80000000 + m * 0x2000000 ∧ m < 64 ∧ q < 1) (b0 : x0 < 2 ^ 1) (b1 : x1 < 2 ^ 6) (b2 : x2 < 2 ^ 7) (b3 : x3 < 2 ^ 1) (b4 : x4 < 2 ^ 2) :
    w.toNat / 33554432 % 64 = m ∧ w.toNat / 2147483648 % 2 = x0 ∧ w.toNat / 4096 % 64 = x1 ∧ w.toNat / 32 % 128 = x2 ∧ w.toNat / 4 % 2 = x3 ∧ w.toNat / 1 % 4 = x4 ∧ w.toNat / 8 % 4 = 0 ∧ w.toNat / 262144 % 128 = 0 := by
  have hw := toNat_of_some h (by omega)
  refine ⟨?_, ?_, ?_, ?_, ?_, ?_, ?_, ?_⟩ <;> omega

/-- The fields of a word of this layout: MAJ, the code field, the fixed P, the operands, and the bits that are zero. -/
theorem layout50 {w : Word} {C m q c x0 x1 : Nat} (h : some (BitVec.ofNat 32 (C + x0 * 0x80000000 + x1 * 0x2000)) = some w)
    (hc : C = q * 0x80000000 + m * 0x2000000 + c * 0x200000 ∧ m < 64 ∧ q < 1) (hd : c < 16) (b0 : x0 < 2 ^ 1) (b1 : x1 < 2 ^ 8) :
    w.toNat / 33554432 % 64 = m ∧ w.toNat / 2097152 % 16 = c ∧ w.toNat / 2147483648 % 2 = x0 ∧ w.toNat / 8192 % 256 = x1 ∧ w.toNat / 1 % 8192 = 0 := by
  have hw := toNat_of_some h (by omega)
  refine ⟨?_, ?_, ?_, ?_, ?_⟩ <;> omega

/-- The fields of a word of this layout: MAJ, the code field, the fixed P, the operands, and the bits that are zero. -/
theorem layout51 {w : Word} {C m q c x0 x1 x2 : Nat} (h : some (BitVec.ofNat 32 (C + x0 * 0x80000000 + x1 * 0x2000 + x2 * 0x1000)) = some w)
    (hc : C = q * 0x80000000 + m * 0x2000000 + c * 0x200000 ∧ m < 64 ∧ q < 1) (hd : c < 16) (b0 : x0 < 2 ^ 1) (b1 : x1 < 2 ^ 8) (b2 : x2 < 2 ^ 1) :
    w.toNat / 33554432 % 64 = m ∧ w.toNat / 2097152 % 16 = c ∧ w.toNat / 2147483648 % 2 = x0 ∧ w.toNat / 8192 % 256 = x1 ∧ w.toNat / 4096 % 2 = x2 ∧ w.toNat / 1 % 4096 = 0 := by
  have hw := toNat_of_some h (by omega)
  refine ⟨?_, ?_, ?_, ?_, ?_, ?_⟩ <;> omega

/-- The fields of a word of this layout: MAJ, the code field, the fixed P, the operands, and the bits that are zero. -/
theorem layout52 {w : Word} {C m q c x0 x1 x2 x3 x4 : Nat} (h : some (BitVec.ofNat 32 (C + x0 * 0x80000000 + x1 * 0x8000 + x2 * 0x200 + x3 * 0x40 + x4 * 0x20)) = some w)
    (hc : C = q * 0x80000000 + m * 0x2000000 + c * 0x200000 ∧ m < 64 ∧ q < 1) (hd : c < 16) (b0 : x0 < 2 ^ 1) (b1 : x1 < 2 ^ 6) (b2 : x2 < 2 ^ 6) (b3 : x3 < 2 ^ 2) (b4 : x4 < 2 ^ 1) :
    w.toNat / 33554432 % 64 = m ∧ w.toNat / 2097152 % 16 = c ∧ w.toNat / 2147483648 % 2 = x0 ∧ w.toNat / 32768 % 64 = x1 ∧ w.toNat / 512 % 64 = x2 ∧ w.toNat / 64 % 4 = x3 ∧ w.toNat / 32 % 2 = x4 ∧ w.toNat / 256 % 2 = 0 ∧ w.toNat / 1 % 32 = 0 := by
  have hw := toNat_of_some h (by omega)
  refine ⟨?_, ?_, ?_, ?_, ?_, ?_, ?_, ?_, ?_⟩ <;> omega

/-- The fields of a word of this layout: MAJ, the code field, the fixed P, the operands, and the bits that are zero. -/
theorem layout53 {w : Word} {C m q c x0 x1 x2 : Nat} (h : some (BitVec.ofNat 32 (C + x0 * 0x80000000 + x1 * 0x80000 + x2 * 0x2000)) = some w)
    (hc : C = q * 0x80000000 + m * 0x2000000 + c * 0x200000 ∧ m < 64 ∧ q < 1) (hd : c < 16) (b0 : x0 < 2 ^ 1) (b1 : x1 < 2 ^ 2) (b2 : x2 < 2 ^ 6) :
    w.toNat / 33554432 % 64 = m ∧ w.toNat / 2097152 % 16 = c ∧ w.toNat / 2147483648 % 2 = x0 ∧ w.toNat / 524288 % 4 = x1 ∧ w.toNat / 8192 % 64 = x2 ∧ w.toNat / 1 % 8192 = 0 := by
  have hw := toNat_of_some h (by omega)
  refine ⟨?_, ?_, ?_, ?_, ?_, ?_⟩ <;> omega

/-- The fields of a word of this layout: MAJ, the code field, the fixed P, the operands, and the bits that are zero. -/
theorem layout54 {w : Word} {C m q c x0 x1 x2 : Nat} (h : some (BitVec.ofNat 32 (C + x0 * 0x80000000 + x1 * 0x8000 + x2 * 0x200)) = some w)
    (hc : C = q * 0x80000000 + m * 0x2000000 + c * 0x200000 ∧ m < 64 ∧ q < 1) (hd : c < 16) (b0 : x0 < 2 ^ 1) (b1 : x1 < 2 ^ 6) (b2 : x2 < 2 ^ 6) :
    w.toNat / 33554432 % 64 = m ∧ w.toNat / 2097152 % 16 = c ∧ w.toNat / 2147483648 % 2 = x0 ∧ w.toNat / 32768 % 64 = x1 ∧ w.toNat / 512 % 64 = x2 ∧ w.toNat / 1 % 512 = 0 := by
  have hw := toNat_of_some h (by omega)
  refine ⟨?_, ?_, ?_, ?_, ?_, ?_⟩ <;> omega

/-- The fields of a word of this layout: MAJ, the code field, the fixed P, the operands, and the bits that are zero. -/
theorem layout55 {w : Word} {C m q c x0 x1 : Nat} (h : some (BitVec.ofNat 32 (C + x0 * 0x80000000 + x1 * 0x80000)) = some w)
    (hc : C = q * 0x80000000 + m * 0x2000000 + c * 0x8000 ∧ m < 64 ∧ q < 1) (hd : c < 16) (b0 : x0 < 2 ^ 1) (b1 : x1 < 2 ^ 6) :
    w.toNat / 33554432 % 64 = m ∧ w.toNat / 32768 % 16 = c ∧ w.toNat / 2147483648 % 2 = x0 ∧ w.toNat / 524288 % 64 = x1 ∧ w.toNat / 1 % 32768 = 0 := by
  have hw := toNat_of_some h (by omega)
  refine ⟨?_, ?_, ?_, ?_, ?_⟩ <;> omega

/-- The fields of a word of this layout: MAJ, the fixed P, the operands, and the bits that are zero. -/
theorem layout56 {w : Word} {C m q x0 x1 : Nat} (h : some (BitVec.ofNat 32 (C + x0 * 0x80000000 + x1 * 0x80000)) = some w)
    (hc : C = q * 0x80000000 + m * 0x2000000 ∧ m < 64 ∧ q < 1) (b0 : x0 < 2 ^ 1) (b1 : x1 < 2 ^ 6) :
    w.toNat / 33554432 % 64 = m ∧ w.toNat / 2147483648 % 2 = x0 ∧ w.toNat / 524288 % 64 = x1 ∧ w.toNat / 1 % 524288 = 0 := by
  have hw := toNat_of_some h (by omega)
  refine ⟨?_, ?_, ?_, ?_⟩ <;> omega

/-- The fields of a word of this layout: MAJ, the fixed P, the operands, and the bits that are zero. -/
theorem layout57 {w : Word} {C m q x0 x1 x2 x3 x4 x5 x6 x7 : Nat} (h : some (BitVec.ofNat 32 (C + x0 * 0x80000000 + x1 * 0x200000 + x2 * 0x80000 + x3 * 0x10000 + x4 * 0x1000 + x5 * 0x40 + x6 * 0x20 + x7 * 0x10)) = some w)
    (hc : C = q * 0x80000000 + m * 0x2000000 ∧ m < 64 ∧ q < 1) (b0 : x0 < 2 ^ 1) (b1 : x1 < 2 ^ 4) (b2 : x2 < 2 ^ 2) (b3 : x3 < 2 ^ 3) (b4 : x4 < 2 ^ 4) (b5 : x5 < 2 ^ 6) (b6 : x6 < 2 ^ 1) (b7 : x7 < 2 ^ 1) :
    w.toNat / 33554432 % 64 = m ∧ w.toNat / 2147483648 % 2 = x0 ∧ w.toNat / 2097152 % 16 = x1 ∧ w.toNat / 524288 % 4 = x2 ∧ w.toNat / 65536 % 8 = x3 ∧ w.toNat / 4096 % 16 = x4 ∧ w.toNat / 64 % 64 = x5 ∧ w.toNat / 32 % 2 = x6 ∧ w.toNat / 16 % 2 = x7 ∧ w.toNat / 1 % 16 = 0 := by
  have hw := toNat_of_some h (by omega)
  refine ⟨?_, ?_, ?_, ?_, ?_, ?_, ?_, ?_, ?_, ?_⟩ <;> omega

/-- The fields of a word of this layout: MAJ, the code field, the fixed P, the operands, and the bits that are zero. -/
theorem layout58 {w : Word} {C m q c x0 x1 x2 x3 x4 x5 : Nat} (h : some (BitVec.ofNat 32 (C + x0 * 0x80000000 + x1 * 0x80000 + x2 * 0x4000 + x3 * 0x400 + x4 * 0x200 + x5 * 0x8)) = some w)
    (hc : C = q * 0x80000000 + m * 0x2000000 + c * 0x4 ∧ m < 64 ∧ q < 1) (hd : c < 2) (b0 : x0 < 2 ^ 1) (b1 : x1 < 2 ^ 6) (b2 : x2 < 2 ^ 3) (b3 : x3 < 2 ^ 4) (b4 : x4 < 2 ^ 1) (b5 : x5 < 2 ^ 6) :
    w.toNat / 33554432 % 64 = m ∧ w.toNat / 4 % 2 = c ∧ w.toNat / 2147483648 % 2 = x0 ∧ w.toNat / 524288 % 64 = x1 ∧ w.toNat / 16384 % 8 = x2 ∧ w.toNat / 1024 % 16 = x3 ∧ w.toNat / 512 % 2 = x4 ∧ w.toNat / 8 % 64 = x5 ∧ w.toNat / 1 % 4 = 0 ∧ w.toNat / 131072 % 4 = 0 := by
  have hw := toNat_of_some h (by omega)
  refine ⟨?_, ?_, ?_, ?_, ?_, ?_, ?_, ?_, ?_, ?_⟩ <;> omega

/-- The fields of a word of this layout: MAJ, the code field, the fixed P, the operands, and the bits that are zero. -/
theorem layout59 {w : Word} {C m q c x0 : Nat} (h : some (BitVec.ofNat 32 (C + x0 * 0x80000000)) = some w)
    (hc : C = q * 0x80000000 + m * 0x2000000 + c * 0x4 ∧ m < 64 ∧ q < 1) (hd : c < 2) (b0 : x0 < 2 ^ 1) :
    w.toNat / 33554432 % 64 = m ∧ w.toNat / 4 % 2 = c ∧ w.toNat / 2147483648 % 2 = x0 ∧ w.toNat / 1 % 4 = 0 ∧ w.toNat / 8 % 4194304 = 0 := by
  have hw := toNat_of_some h (by omega)
  refine ⟨?_, ?_, ?_, ?_, ?_⟩ <;> omega

/-- The fields of a word of this layout: MAJ, the fixed P, the operands, and the bits that are zero. -/
theorem layout60 {w : Word} {C m q x0 x1 x2 x3 x4 x5 x6 : Nat} (h : some (BitVec.ofNat 32 (C + x0 * 0x80000000 + x1 * 0x200000 + x2 * 0x8000 + x3 * 0x1000 + x4 * 0x100 + x5 * 0x8 + x6 * 0x4)) = some w)
    (hc : C = q * 0x80000000 + m * 0x2000000 ∧ m < 64 ∧ q < 1) (b0 : x0 < 2 ^ 1) (b1 : x1 < 2 ^ 4) (b2 : x2 < 2 ^ 6) (b3 : x3 < 2 ^ 3) (b4 : x4 < 2 ^ 4) (b5 : x5 < 2 ^ 5) (b6 : x6 < 2 ^ 1) :
    w.toNat / 33554432 % 64 = m ∧ w.toNat / 2147483648 % 2 = x0 ∧ w.toNat / 2097152 % 16 = x1 ∧ w.toNat / 32768 % 64 = x2 ∧ w.toNat / 4096 % 8 = x3 ∧ w.toNat / 256 % 16 = x4 ∧ w.toNat / 8 % 32 = x5 ∧ w.toNat / 4 % 2 = x6 ∧ w.toNat / 1 % 4 = 0 := by
  have hw := toNat_of_some h (by omega)
  refine ⟨?_, ?_, ?_, ?_, ?_, ?_, ?_, ?_, ?_⟩ <;> omega

/-- The fields of a word of this layout: MAJ, the code field, the fixed P, the operands, and the bits that are zero. -/
theorem layout61 {w : Word} {C m q c x0 x1 : Nat} (h : some (BitVec.ofNat 32 (C + x0 * 0x80000000 + x1 * 0x20000)) = some w)
    (hc : C = q * 0x80000000 + m * 0x2000000 + c * 0x200000 ∧ m < 64 ∧ q < 1) (hd : c < 16) (b0 : x0 < 2 ^ 1) (b1 : x1 < 2 ^ 4) :
    w.toNat / 33554432 % 64 = m ∧ w.toNat / 2097152 % 16 = c ∧ w.toNat / 2147483648 % 2 = x0 ∧ w.toNat / 131072 % 16 = x1 ∧ w.toNat / 1 % 131072 = 0 := by
  have hw := toNat_of_some h (by omega)
  refine ⟨?_, ?_, ?_, ?_, ?_⟩ <;> omega

/-- The fields of a word of this layout: MAJ, the code field, the fixed P, the operands, and the bits that are zero. -/
theorem layout62 {w : Word} {C m q c x0 x1 x2 : Nat} (h : some (BitVec.ofNat 32 (C + x0 * 0x80000000 + x1 * 0x20000 + x2 * 0x800)) = some w)
    (hc : C = q * 0x80000000 + m * 0x2000000 + c * 0x200000 ∧ m < 64 ∧ q < 1) (hd : c < 16) (b0 : x0 < 2 ^ 1) (b1 : x1 < 2 ^ 4) (b2 : x2 < 2 ^ 6) :
    w.toNat / 33554432 % 64 = m ∧ w.toNat / 2097152 % 16 = c ∧ w.toNat / 2147483648 % 2 = x0 ∧ w.toNat / 131072 % 16 = x1 ∧ w.toNat / 2048 % 64 = x2 ∧ w.toNat / 1 % 2048 = 0 := by
  have hw := toNat_of_some h (by omega)
  refine ⟨?_, ?_, ?_, ?_, ?_, ?_⟩ <;> omega

/-- The fields of a word of this layout: MAJ, the code field, the fixed P, the operands, and the bits that are zero. -/
theorem layout63 {w : Word} {C m q c x0 x1 x2 x3 : Nat} (h : some (BitVec.ofNat 32 (C + x0 * 0x80000000 + x1 * 0x20000 + x2 * 0x800 + x3 * 0x10)) = some w)
    (hc : C = q * 0x80000000 + m * 0x2000000 + c * 0x200000 ∧ m < 64 ∧ q < 1) (hd : c < 16) (b0 : x0 < 2 ^ 1) (b1 : x1 < 2 ^ 4) (b2 : x2 < 2 ^ 6) (b3 : x3 < 2 ^ 7) :
    w.toNat / 33554432 % 64 = m ∧ w.toNat / 2097152 % 16 = c ∧ w.toNat / 2147483648 % 2 = x0 ∧ w.toNat / 131072 % 16 = x1 ∧ w.toNat / 2048 % 64 = x2 ∧ w.toNat / 16 % 128 = x3 ∧ w.toNat / 1 % 16 = 0 := by
  have hw := toNat_of_some h (by omega)
  refine ⟨?_, ?_, ?_, ?_, ?_, ?_, ?_⟩ <;> omega

/-- The fields of a word of this layout: MAJ, the fixed P, the operands. -/
theorem layout64 {w : Word} {C m q x0 x1 x2 x3 x4 x5 x6 x7 : Nat} (h : some (BitVec.ofNat 32 (C + x0 * 0x80000000 + x1 * 0x40000 + x2 * 0x10000 + x3 * 0x4000 + x4 * 0x100 + x5 * 0x4 + x6 * 0x2 + x7)) = some w)
    (hc : C = q * 0x80000000 + m * 0x2000000 ∧ m < 64 ∧ q < 1) (b0 : x0 < 2 ^ 1) (b1 : x1 < 2 ^ 7) (b2 : x2 < 2 ^ 2) (b3 : x3 < 2 ^ 2) (b4 : x4 < 2 ^ 6) (b5 : x5 < 2 ^ 6) (b6 : x6 < 2 ^ 1) (b7 : x7 < 2 ^ 1) :
    w.toNat / 33554432 % 64 = m ∧ w.toNat / 2147483648 % 2 = x0 ∧ w.toNat / 262144 % 128 = x1 ∧ w.toNat / 65536 % 4 = x2 ∧ w.toNat / 16384 % 4 = x3 ∧ w.toNat / 256 % 64 = x4 ∧ w.toNat / 4 % 64 = x5 ∧ w.toNat / 2 % 2 = x6 ∧ w.toNat / 1 % 2 = x7 := by
  have hw := toNat_of_some h (by omega)
  refine ⟨?_, ?_, ?_, ?_, ?_, ?_, ?_, ?_, ?_⟩ <;> omega

/-- The fields of a word of this layout: MAJ, the code field, the fixed P, the operands, and the bits that are zero. -/
theorem layout65 {w : Word} {C m q c x0 x1 x2 : Nat} (h : some (BitVec.ofNat 32 (C + x0 * 0x80000000 + x1 * 0x400000 + x2 * 0x10000)) = some w)
    (hc : C = q * 0x80000000 + m * 0x2000000 + c * 0x4000 ∧ m < 64 ∧ q < 1) (hd : c < 4) (b0 : x0 < 2 ^ 1) (b1 : x1 < 2 ^ 3) (b2 : x2 < 2 ^ 6) :
    w.toNat / 33554432 % 64 = m ∧ w.toNat / 16384 % 4 = c ∧ w.toNat / 2147483648 % 2 = x0 ∧ w.toNat / 4194304 % 8 = x1 ∧ w.toNat / 65536 % 64 = x2 ∧ w.toNat / 1 % 16384 = 0 := by
  have hw := toNat_of_some h (by omega)
  refine ⟨?_, ?_, ?_, ?_, ?_, ?_⟩ <;> omega

/-- The fields of a word of this layout: MAJ, the code field, the fixed P, the operands, and the bits that are zero. -/
theorem layout66 {w : Word} {C m q c x0 x1 x2 x3 x4 : Nat} (h : some (BitVec.ofNat 32 (C + x0 * 0x80000000 + x1 * 0x400000 + x2 * 0x10000 + x3 * 0x80 + x4 * 0x20)) = some w)
    (hc : C = q * 0x80000000 + m * 0x2000000 + c * 0x4000 ∧ m < 64 ∧ q < 1) (hd : c < 4) (b0 : x0 < 2 ^ 1) (b1 : x1 < 2 ^ 3) (b2 : x2 < 2 ^ 6) (b3 : x3 < 2 ^ 7) (b4 : x4 < 2 ^ 2) :
    w.toNat / 33554432 % 64 = m ∧ w.toNat / 16384 % 4 = c ∧ w.toNat / 2147483648 % 2 = x0 ∧ w.toNat / 4194304 % 8 = x1 ∧ w.toNat / 65536 % 64 = x2 ∧ w.toNat / 128 % 128 = x3 ∧ w.toNat / 32 % 4 = x4 ∧ w.toNat / 1 % 32 = 0 := by
  have hw := toNat_of_some h (by omega)
  refine ⟨?_, ?_, ?_, ?_, ?_, ?_, ?_, ?_⟩ <;> omega

end Sys2Proof
end

