-- ==== Sys2Proof/Laws/Memory.lean ====
section
/-! SUPPORT. Memory: every operation keeps the canonical form, and what a read gives after a write. -/

namespace Sys2Proof.Machine

/-! ### Lists of cells -/

theorem Cells.get_drop (m : List Host.Cell) (a x : Nat) : Cells.get (Cells.drop m a) x = if x = a then none else Cells.get m x := by
  induction m with
  | nil => simp [Cells.drop, Cells.get]
  | cons c r ih =>
    obtain ⟨k, v⟩ := c
    simp only [Cells.drop] at ih ⊢
    by_cases hk : k = a
    · subst hk
      simp only [List.filter_cons, bne_self_eq_false, Bool.false_eq_true, if_false, ih, Cells.get]
      by_cases hx : x = k
      · simp [hx]
      · simp [hx, Ne.symm hx]
    · have : (k != a) = true := by simp [hk]
      simp only [List.filter_cons, this, if_true, Cells.get, ih]
      by_cases hx : x = a
      · subst hx; simp [hk]
      · simp [hx]

/-- Below the first key nothing is listed. -/
theorem Cells.get_of_lt {m : List Host.Cell} {a : Nat} (h : ∀ c ∈ m, a < c.1) : Cells.get m a = none := by
  induction m with
  | nil => rfl
  | cons c r ih =>
    obtain ⟨k, v⟩ := c
    have hk : a < k := h _ (List.mem_cons_self ..)
    simp only [Cells.get, Nat.ne_of_gt hk, if_false]
    exact ih fun c hc => h c (List.mem_cons_of_mem _ hc)

theorem Cells.get_put (m : List Host.Cell) (a : Nat) (b : Byte) (x : Nat) :
    Cells.get (Cells.put m a b) x = if x = a then some b else Cells.get m x := by
  induction m with
  | nil =>
    by_cases h : x = a
    · simp [Cells.put, Cells.get, h]
    · simp [Cells.put, Cells.get, h, Ne.symm h]
  | cons c r ih =>
    obtain ⟨k, v⟩ := c
    unfold Cells.put
    split
    · by_cases h : x = a
      · subst h; simp [Cells.get]
      · simp [Cells.get, h, Ne.symm h]
    · split
      · rename_i h; subst h
        by_cases h : x = a
        · subst h; simp [Cells.get]
        · simp [Cells.get, h, Ne.symm h]
      · rename_i h1 h2
        by_cases hx : x = k
        · subst hx; simp [Cells.get, Ne.symm h2]
        · simp [Cells.get, Ne.symm hx, ih]

/-- The keys of a list with a byte put are its keys and the new one. -/
theorem Cells.mem_put {m : List Host.Cell} {a : Nat} {b : Byte} {c : Host.Cell} (h : c ∈ Cells.put m a b) : c = (a, b) ∨ c ∈ m := by
  induction m with
  | nil => simpa [Cells.put] using h
  | cons d r ih =>
    obtain ⟨k, v⟩ := d
    unfold Cells.put at h
    split at h
    · simpa using h
    · split at h
      · rcases List.mem_cons.mp h with h | h
        · exact .inl h
        · exact .inr (List.mem_cons_of_mem _ h)
      · rcases List.mem_cons.mp h with h | h
        · exact .inr (h ▸ List.mem_cons_self ..)
        · exact (ih h).imp_right (List.mem_cons_of_mem _)

theorem Cells.put_rising {m : List Host.Cell} (h : m.Pairwise fun x y => x.1 < y.1) (a : Nat) (b : Byte) :
    (Cells.put m a b).Pairwise fun x y => x.1 < y.1 := by
  induction m with
  | nil => simp [Cells.put]
  | cons d r ih =>
    obtain ⟨k, v⟩ := d
    have ⟨h1, h2⟩ := List.pairwise_cons.mp h
    unfold Cells.put
    split
    · rename_i hk
      refine List.pairwise_cons.mpr ⟨fun c hc => ?_, h⟩
      rcases List.mem_cons.mp hc with rfl | hc
      · exact hk
      · exact Nat.lt_trans hk (h1 c hc)
    · split
      · rename_i hk; subst hk
        exact List.pairwise_cons.mpr ⟨fun c hc => h1 c hc, h2⟩
      · rename_i hk hne
        refine List.pairwise_cons.mpr ⟨fun c hc => ?_, ih h2⟩
        rcases Cells.mem_put hc with rfl | hc
        · exact Nat.lt_of_le_of_ne (Nat.le_of_not_lt hk) (Ne.symm hne)
        · exact h1 c hc

/-! ### The canonical form -/

theorem Memory.wf_nil : Memory.wf [] := ⟨List.Pairwise.nil, fun _ h => absurd h (List.not_mem_nil)⟩

theorem Memory.wf_filter {m : List Host.Cell} (h : Memory.wf m) (p : Host.Cell → Bool) : Memory.wf (m.filter p) :=
  ⟨h.1.filter p, fun c hc => h.2 c (List.mem_filter.mp hc).1⟩

/-- A write of one byte keeps the canonical form. -/
theorem Memory.wf_write {m : List Host.Cell} (h : Memory.wf m) (a : Nat) (b : Byte) : Memory.wf (Memory.write m a b) := by
  unfold Memory.write
  split
  · exact Memory.wf_filter h _
  · rename_i hb
    refine ⟨Cells.put_rising h.1 a b, fun c hc => ?_⟩
    rcases Cells.mem_put hc with rfl | hc
    · exact hb
    · exact h.2 c hc

theorem Memory.wf_writeAll {m : List Host.Cell} (h : Memory.wf m) (bs : List (Nat × Byte)) : Memory.wf (Memory.writeAll m bs) := by
  induction bs generalizing m with
  | nil => exact h
  | cons b r ih => exact ih (Memory.wf_write h b.1 b.2)

/-! ### Reads after writes -/

theorem Memory.read_write (m : List Host.Cell) (a : Nat) (b : Byte) (x : Nat) :
    Memory.read (Memory.write m a b) x = if x = a then b else Memory.read m x := by
  unfold Memory.write Memory.read
  split
  · rename_i h; rw [Cells.get_drop]; split <;> simp [h]
  · rw [Cells.get_put]; split <;> simp

/-- What a list of writes leaves at an address: the last byte written there, else what stood before. -/
theorem Memory.read_writeAll (m : List Host.Cell) (bs : List (Nat × Byte)) (x : Nat) :
    Memory.read (Memory.writeAll m bs) x = ((bs.reverse.find? fun b => b.1 == x).map fun b => b.2).getD (Memory.read m x) := by
  induction bs generalizing m with
  | nil => rfl
  | cons b r ih =>
    change Memory.read (Memory.writeAll (Memory.write m b.1 b.2) r) x = _
    rw [ih, Memory.read_write, List.reverse_cons, List.find?_append]
    cases hf : r.reverse.find? fun b => b.1 == x with
    | some y => simp
    | none =>
      by_cases h : x = b.1
      · simp [h]
      · simp [h, Ne.symm h]

theorem Memory.read_writeAll_of_not_mem (m : List Host.Cell) {bs : List (Nat × Byte)} {x : Nat} (h : ∀ b ∈ bs, b.1 ≠ x) :
    Memory.read (Memory.writeAll m bs) x = Memory.read m x := by
  rw [Memory.read_writeAll, List.find?_eq_none.mpr]
  · rfl
  · intro b hb; simpa using h b (List.mem_reverse.mp hb)

/-! ### Bytes in order -/

@[simp] theorem length_leBytes (a x n : Nat) : (leBytes a x n).length = n := by
  induction n generalizing a x with
  | zero => rfl
  | succ n ih => simp [leBytes, ih]

@[simp] theorem length_bytesAt (f : Nat → Byte) (a n : Nat) : (bytesAt f a n).length = n := by
  induction n generalizing a with
  | zero => rfl
  | succ n ih => simp [bytesAt, ih]

@[simp] theorem length_placeBytes (a : Nat) (bs : List Byte) : (placeBytes a bs).length = bs.length := by
  induction bs generalizing a with
  | nil => rfl
  | cons b r ih => simp [placeBytes, ih]

/-- The addresses of the bytes of a value. -/
theorem mem_leBytes {a x n : Nat} {b : Nat × Byte} (h : b ∈ leBytes a x n) : a ≤ b.1 ∧ b.1 < a + n := by
  induction n generalizing a x with
  | zero => simp [leBytes] at h
  | succ n ih =>
    rcases List.mem_cons.mp h with rfl | h
    · simp
    · have := ih h; omega

theorem mem_placeBytes {a : Nat} {bs : List Byte} {b : Nat × Byte} (h : b ∈ placeBytes a bs) : a ≤ b.1 ∧ b.1 < a + bs.length := by
  induction bs generalizing a with
  | nil => simp [placeBytes] at h
  | cons c r ih =>
    rcases List.mem_cons.mp h with rfl | h
    · simp
    · have := ih h; simp only [List.length_cons]; omega

/-! ### The state's memory -/

theorem State.peek_poke (s : State) (bs : List (Nat × Byte)) (x : Nat) :
    (s.poke bs).peek x = ((bs.reverse.find? fun b => b.1 == x).map fun b => b.2).getD (s.peek x) := Memory.read_writeAll ..

theorem State.peek_poke_of_not_mem (s : State) {bs : List (Nat × Byte)} {x : Nat} (h : ∀ b ∈ bs, b.1 ≠ x) :
    (s.poke bs).peek x = s.peek x := Memory.read_writeAll_of_not_mem _ h

/-- A value in memory depends on its own bytes alone (R4). -/
theorem leNat_congr {f g : Nat → Byte} {a n : Nat} (h : ∀ k, k < n → f (a + k) = g (a + k)) : leNat f a n = leNat g a n := by
  induction n generalizing a with
  | zero => rfl
  | succ n ih =>
    have hr : leNat f (a + 1) n = leNat g (a + 1) n := ih fun k hk => by
      rw [Nat.add_right_comm]; exact h (k + 1) (by omega)
    have h0 : f a = g a := h 0 (by omega)
    simp only [leNat, h0, hr]

end Sys2Proof.Machine
end

