-- ==== Sys2Proof/Laws/State.lean ====
section
/-! SUPPORT. What each update of the state and of a wave leaves alone, one lemma for each field, and what the accessors read after it. -/

namespace Sys2Proof.Machine

/-! ### modWave -/

@[simp] theorem State.modWave_mem (s : State) (i : Nat) (f : Wave → Wave) : (s.modWave i f).mem = s.mem := rfl
@[simp] theorem State.modWave_tick (s : State) (i : Nat) (f : Wave → Wave) : (s.modWave i f).tick = s.tick := rfl
@[simp] theorem State.modWave_dies (s : State) (i : Nat) (f : Wave → Wave) : (s.modWave i f).dies = s.dies := rfl
@[simp] theorem State.modWave_agenda (s : State) (i : Nat) (f : Wave → Wave) : (s.modWave i f).agenda = s.agenda := rfl
@[simp] theorem State.modWave_turn (s : State) (i : Nat) (f : Wave → Wave) : (s.modWave i f).turn = s.turn := rfl
@[simp] theorem State.modWave_issuing (s : State) (i : Nat) (f : Wave → Wave) : (s.modWave i f).issuing = s.issuing := rfl
@[simp] theorem State.modWave_issues (s : State) (i : Nat) (f : Wave → Wave) : (s.modWave i f).issues = s.issues := rfl
@[simp] theorem State.modWave_free (s : State) (i : Nat) (f : Wave → Wave) : (s.modWave i f).free = s.free := rfl
@[simp] theorem State.modWave_funcs (s : State) (i : Nat) (f : Wave → Wave) : (s.modWave i f).funcs = s.funcs := rfl
@[simp] theorem State.modWave_launches (s : State) (i : Nat) (f : Wave → Wave) : (s.modWave i f).launches = s.launches := rfl
@[simp] theorem State.modWave_blocks (s : State) (i : Nat) (f : Wave → Wave) : (s.modWave i f).blocks = s.blocks := rfl
@[simp] theorem State.modWave_cores (s : State) (i : Nat) (f : Wave → Wave) : (s.modWave i f).cores = s.cores := rfl
@[simp] theorem State.modWave_towers (s : State) (i : Nat) (f : Wave → Wave) : (s.modWave i f).towers = s.towers := rfl
@[simp] theorem State.modWave_reqs (s : State) (i : Nat) (f : Wave → Wave) : (s.modWave i f).reqs = s.reqs := rfl
@[simp] theorem State.modWave_nextReq (s : State) (i : Nat) (f : Wave → Wave) : (s.modWave i f).nextReq = s.nextReq := rfl
@[simp] theorem State.modWave_resvs (s : State) (i : Nat) (f : Wave → Wave) : (s.modWave i f).resvs = s.resvs := rfl
@[simp] theorem State.modWave_copies (s : State) (i : Nat) (f : Wave → Wave) : (s.modWave i f).copies = s.copies := rfl
@[simp] theorem State.modWave_xfers (s : State) (i : Nat) (f : Wave → Wave) : (s.modWave i f).xfers = s.xfers := rfl
@[simp] theorem State.modWave_nextOp (s : State) (i : Nat) (f : Wave → Wave) : (s.modWave i f).nextOp = s.nextOp := rfl
@[simp] theorem State.modWave_placements (s : State) (i : Nat) (f : Wave → Wave) : (s.modWave i f).placements = s.placements := rfl
@[simp] theorem State.modWave_verified (s : State) (i : Nat) (f : Wave → Wave) : (s.modWave i f).verified = s.verified := rfl
@[simp] theorem State.modWave_seals (s : State) (i : Nat) (f : Wave → Wave) : (s.modWave i f).seals = s.seals := rfl
@[simp] theorem State.modWave_keys (s : State) (i : Nat) (f : Wave → Wave) : (s.modWave i f).keys = s.keys := rfl
@[simp] theorem State.modWave_keyData (s : State) (i : Nat) (f : Wave → Wave) : (s.modWave i f).keyData = s.keyData := rfl
@[simp] theorem State.modWave_keyCmd (s : State) (i : Nat) (f : Wave → Wave) : (s.modWave i f).keyCmd = s.keyCmd := rfl
@[simp] theorem State.modWave_keyResult (s : State) (i : Nat) (f : Wave → Wave) : (s.modWave i f).keyResult = s.keyResult := rfl
@[simp] theorem State.modWave_late (s : State) (i : Nat) (f : Wave → Wave) : (s.modWave i f).late = s.late := rfl
@[simp] theorem State.modWave_hcwBase (s : State) (i : Nat) (f : Wave → Wave) : (s.modWave i f).hcwBase = s.hcwBase := rfl
@[simp] theorem State.modWave_hcwSize (s : State) (i : Nat) (f : Wave → Wave) : (s.modWave i f).hcwSize = s.hcwSize := rfl
@[simp] theorem State.modWave_fwStat (s : State) (i : Nat) (f : Wave → Wave) : (s.modWave i f).fwStat = s.fwStat := rfl
@[simp] theorem State.modWave_fwImage (s : State) (i : Nat) (f : Wave → Wave) : (s.modWave i f).fwImage = s.fwImage := rfl
@[simp] theorem State.modWave_spCore (s : State) (i : Nat) (f : Wave → Wave) : (s.modWave i f).spCore = s.spCore := rfl
@[simp] theorem State.modWave_spDram (s : State) (i : Nat) (f : Wave → Wave) : (s.modWave i f).spDram = s.spDram := rfl
@[simp] theorem State.modWave_spRows (s : State) (i : Nat) (f : Wave → Wave) : (s.modWave i f).spRows = s.spRows := rfl
@[simp] theorem State.modWave_spWays (s : State) (i : Nat) (f : Wave → Wave) : (s.modWave i f).spWays = s.spWays := rfl
@[simp] theorem State.modWave_spErr (s : State) (i : Nat) (f : Wave → Wave) : (s.modWave i f).spErr = s.spErr := rfl
@[simp] theorem State.modWave_degraded (s : State) (i : Nat) (f : Wave → Wave) : (s.modWave i f).degraded = s.degraded := rfl
@[simp] theorem State.modWave_noPlace (s : State) (i : Nat) (f : Wave → Wave) : (s.modWave i f).noPlace = s.noPlace := rfl
@[simp] theorem State.modWave_recovery (s : State) (i : Nat) (f : Wave → Wave) : (s.modWave i f).recovery = s.recovery := rfl
@[simp] theorem State.modWave_lastExchange (s : State) (i : Nat) (f : Wave → Wave) : (s.modWave i f).lastExchange = s.lastExchange := rfl
@[simp] theorem State.modWave_irqs (s : State) (i : Nat) (f : Wave → Wave) : (s.modWave i f).irqs = s.irqs := rfl
@[simp] theorem State.modWave_strong (s : State) (i : Nat) (f : Wave → Wave) : (s.modWave i f).strong = s.strong := rfl
@[simp] theorem State.modWave_dbgEvents (s : State) (i : Nat) (f : Wave → Wave) : (s.modWave i f).dbgEvents = s.dbgEvents := rfl
@[simp] theorem State.modWave_links (s : State) (i : Nat) (f : Wave → Wave) : (s.modWave i f).links = s.links := rfl
@[simp] theorem State.modWave_busData (s : State) (i : Nat) (f : Wave → Wave) : (s.modWave i f).busData = s.busData := rfl

/-! ### modBlock -/

@[simp] theorem State.modBlock_mem (s : State) (i : Nat) (f : Block → Block) : (s.modBlock i f).mem = s.mem := rfl
@[simp] theorem State.modBlock_tick (s : State) (i : Nat) (f : Block → Block) : (s.modBlock i f).tick = s.tick := rfl
@[simp] theorem State.modBlock_dies (s : State) (i : Nat) (f : Block → Block) : (s.modBlock i f).dies = s.dies := rfl
@[simp] theorem State.modBlock_agenda (s : State) (i : Nat) (f : Block → Block) : (s.modBlock i f).agenda = s.agenda := rfl
@[simp] theorem State.modBlock_turn (s : State) (i : Nat) (f : Block → Block) : (s.modBlock i f).turn = s.turn := rfl
@[simp] theorem State.modBlock_issuing (s : State) (i : Nat) (f : Block → Block) : (s.modBlock i f).issuing = s.issuing := rfl
@[simp] theorem State.modBlock_issues (s : State) (i : Nat) (f : Block → Block) : (s.modBlock i f).issues = s.issues := rfl
@[simp] theorem State.modBlock_free (s : State) (i : Nat) (f : Block → Block) : (s.modBlock i f).free = s.free := rfl
@[simp] theorem State.modBlock_funcs (s : State) (i : Nat) (f : Block → Block) : (s.modBlock i f).funcs = s.funcs := rfl
@[simp] theorem State.modBlock_launches (s : State) (i : Nat) (f : Block → Block) : (s.modBlock i f).launches = s.launches := rfl
@[simp] theorem State.modBlock_waves (s : State) (i : Nat) (f : Block → Block) : (s.modBlock i f).waves = s.waves := rfl
@[simp] theorem State.modBlock_cores (s : State) (i : Nat) (f : Block → Block) : (s.modBlock i f).cores = s.cores := rfl
@[simp] theorem State.modBlock_towers (s : State) (i : Nat) (f : Block → Block) : (s.modBlock i f).towers = s.towers := rfl
@[simp] theorem State.modBlock_reqs (s : State) (i : Nat) (f : Block → Block) : (s.modBlock i f).reqs = s.reqs := rfl
@[simp] theorem State.modBlock_nextReq (s : State) (i : Nat) (f : Block → Block) : (s.modBlock i f).nextReq = s.nextReq := rfl
@[simp] theorem State.modBlock_resvs (s : State) (i : Nat) (f : Block → Block) : (s.modBlock i f).resvs = s.resvs := rfl
@[simp] theorem State.modBlock_copies (s : State) (i : Nat) (f : Block → Block) : (s.modBlock i f).copies = s.copies := rfl
@[simp] theorem State.modBlock_xfers (s : State) (i : Nat) (f : Block → Block) : (s.modBlock i f).xfers = s.xfers := rfl
@[simp] theorem State.modBlock_nextOp (s : State) (i : Nat) (f : Block → Block) : (s.modBlock i f).nextOp = s.nextOp := rfl
@[simp] theorem State.modBlock_placements (s : State) (i : Nat) (f : Block → Block) : (s.modBlock i f).placements = s.placements := rfl
@[simp] theorem State.modBlock_verified (s : State) (i : Nat) (f : Block → Block) : (s.modBlock i f).verified = s.verified := rfl
@[simp] theorem State.modBlock_seals (s : State) (i : Nat) (f : Block → Block) : (s.modBlock i f).seals = s.seals := rfl
@[simp] theorem State.modBlock_keys (s : State) (i : Nat) (f : Block → Block) : (s.modBlock i f).keys = s.keys := rfl
@[simp] theorem State.modBlock_keyData (s : State) (i : Nat) (f : Block → Block) : (s.modBlock i f).keyData = s.keyData := rfl
@[simp] theorem State.modBlock_keyCmd (s : State) (i : Nat) (f : Block → Block) : (s.modBlock i f).keyCmd = s.keyCmd := rfl
@[simp] theorem State.modBlock_keyResult (s : State) (i : Nat) (f : Block → Block) : (s.modBlock i f).keyResult = s.keyResult := rfl
@[simp] theorem State.modBlock_late (s : State) (i : Nat) (f : Block → Block) : (s.modBlock i f).late = s.late := rfl
@[simp] theorem State.modBlock_hcwBase (s : State) (i : Nat) (f : Block → Block) : (s.modBlock i f).hcwBase = s.hcwBase := rfl
@[simp] theorem State.modBlock_hcwSize (s : State) (i : Nat) (f : Block → Block) : (s.modBlock i f).hcwSize = s.hcwSize := rfl
@[simp] theorem State.modBlock_fwStat (s : State) (i : Nat) (f : Block → Block) : (s.modBlock i f).fwStat = s.fwStat := rfl
@[simp] theorem State.modBlock_fwImage (s : State) (i : Nat) (f : Block → Block) : (s.modBlock i f).fwImage = s.fwImage := rfl
@[simp] theorem State.modBlock_spCore (s : State) (i : Nat) (f : Block → Block) : (s.modBlock i f).spCore = s.spCore := rfl
@[simp] theorem State.modBlock_spDram (s : State) (i : Nat) (f : Block → Block) : (s.modBlock i f).spDram = s.spDram := rfl
@[simp] theorem State.modBlock_spRows (s : State) (i : Nat) (f : Block → Block) : (s.modBlock i f).spRows = s.spRows := rfl
@[simp] theorem State.modBlock_spWays (s : State) (i : Nat) (f : Block → Block) : (s.modBlock i f).spWays = s.spWays := rfl
@[simp] theorem State.modBlock_spErr (s : State) (i : Nat) (f : Block → Block) : (s.modBlock i f).spErr = s.spErr := rfl
@[simp] theorem State.modBlock_degraded (s : State) (i : Nat) (f : Block → Block) : (s.modBlock i f).degraded = s.degraded := rfl
@[simp] theorem State.modBlock_noPlace (s : State) (i : Nat) (f : Block → Block) : (s.modBlock i f).noPlace = s.noPlace := rfl
@[simp] theorem State.modBlock_recovery (s : State) (i : Nat) (f : Block → Block) : (s.modBlock i f).recovery = s.recovery := rfl
@[simp] theorem State.modBlock_lastExchange (s : State) (i : Nat) (f : Block → Block) : (s.modBlock i f).lastExchange = s.lastExchange := rfl
@[simp] theorem State.modBlock_irqs (s : State) (i : Nat) (f : Block → Block) : (s.modBlock i f).irqs = s.irqs := rfl
@[simp] theorem State.modBlock_strong (s : State) (i : Nat) (f : Block → Block) : (s.modBlock i f).strong = s.strong := rfl
@[simp] theorem State.modBlock_dbgEvents (s : State) (i : Nat) (f : Block → Block) : (s.modBlock i f).dbgEvents = s.dbgEvents := rfl
@[simp] theorem State.modBlock_links (s : State) (i : Nat) (f : Block → Block) : (s.modBlock i f).links = s.links := rfl
@[simp] theorem State.modBlock_busData (s : State) (i : Nat) (f : Block → Block) : (s.modBlock i f).busData = s.busData := rfl

/-! ### modLaunch -/

@[simp] theorem State.modLaunch_mem (s : State) (i : Nat) (f : Launch → Launch) : (s.modLaunch i f).mem = s.mem := rfl
@[simp] theorem State.modLaunch_tick (s : State) (i : Nat) (f : Launch → Launch) : (s.modLaunch i f).tick = s.tick := rfl
@[simp] theorem State.modLaunch_dies (s : State) (i : Nat) (f : Launch → Launch) : (s.modLaunch i f).dies = s.dies := rfl
@[simp] theorem State.modLaunch_agenda (s : State) (i : Nat) (f : Launch → Launch) : (s.modLaunch i f).agenda = s.agenda := rfl
@[simp] theorem State.modLaunch_turn (s : State) (i : Nat) (f : Launch → Launch) : (s.modLaunch i f).turn = s.turn := rfl
@[simp] theorem State.modLaunch_issuing (s : State) (i : Nat) (f : Launch → Launch) : (s.modLaunch i f).issuing = s.issuing := rfl
@[simp] theorem State.modLaunch_issues (s : State) (i : Nat) (f : Launch → Launch) : (s.modLaunch i f).issues = s.issues := rfl
@[simp] theorem State.modLaunch_free (s : State) (i : Nat) (f : Launch → Launch) : (s.modLaunch i f).free = s.free := rfl
@[simp] theorem State.modLaunch_funcs (s : State) (i : Nat) (f : Launch → Launch) : (s.modLaunch i f).funcs = s.funcs := rfl
@[simp] theorem State.modLaunch_blocks (s : State) (i : Nat) (f : Launch → Launch) : (s.modLaunch i f).blocks = s.blocks := rfl
@[simp] theorem State.modLaunch_waves (s : State) (i : Nat) (f : Launch → Launch) : (s.modLaunch i f).waves = s.waves := rfl
@[simp] theorem State.modLaunch_cores (s : State) (i : Nat) (f : Launch → Launch) : (s.modLaunch i f).cores = s.cores := rfl
@[simp] theorem State.modLaunch_towers (s : State) (i : Nat) (f : Launch → Launch) : (s.modLaunch i f).towers = s.towers := rfl
@[simp] theorem State.modLaunch_reqs (s : State) (i : Nat) (f : Launch → Launch) : (s.modLaunch i f).reqs = s.reqs := rfl
@[simp] theorem State.modLaunch_nextReq (s : State) (i : Nat) (f : Launch → Launch) : (s.modLaunch i f).nextReq = s.nextReq := rfl
@[simp] theorem State.modLaunch_resvs (s : State) (i : Nat) (f : Launch → Launch) : (s.modLaunch i f).resvs = s.resvs := rfl
@[simp] theorem State.modLaunch_copies (s : State) (i : Nat) (f : Launch → Launch) : (s.modLaunch i f).copies = s.copies := rfl
@[simp] theorem State.modLaunch_xfers (s : State) (i : Nat) (f : Launch → Launch) : (s.modLaunch i f).xfers = s.xfers := rfl
@[simp] theorem State.modLaunch_nextOp (s : State) (i : Nat) (f : Launch → Launch) : (s.modLaunch i f).nextOp = s.nextOp := rfl
@[simp] theorem State.modLaunch_placements (s : State) (i : Nat) (f : Launch → Launch) : (s.modLaunch i f).placements = s.placements := rfl
@[simp] theorem State.modLaunch_verified (s : State) (i : Nat) (f : Launch → Launch) : (s.modLaunch i f).verified = s.verified := rfl
@[simp] theorem State.modLaunch_seals (s : State) (i : Nat) (f : Launch → Launch) : (s.modLaunch i f).seals = s.seals := rfl
@[simp] theorem State.modLaunch_keys (s : State) (i : Nat) (f : Launch → Launch) : (s.modLaunch i f).keys = s.keys := rfl
@[simp] theorem State.modLaunch_keyData (s : State) (i : Nat) (f : Launch → Launch) : (s.modLaunch i f).keyData = s.keyData := rfl
@[simp] theorem State.modLaunch_keyCmd (s : State) (i : Nat) (f : Launch → Launch) : (s.modLaunch i f).keyCmd = s.keyCmd := rfl
@[simp] theorem State.modLaunch_keyResult (s : State) (i : Nat) (f : Launch → Launch) : (s.modLaunch i f).keyResult = s.keyResult := rfl
@[simp] theorem State.modLaunch_late (s : State) (i : Nat) (f : Launch → Launch) : (s.modLaunch i f).late = s.late := rfl
@[simp] theorem State.modLaunch_hcwBase (s : State) (i : Nat) (f : Launch → Launch) : (s.modLaunch i f).hcwBase = s.hcwBase := rfl
@[simp] theorem State.modLaunch_hcwSize (s : State) (i : Nat) (f : Launch → Launch) : (s.modLaunch i f).hcwSize = s.hcwSize := rfl
@[simp] theorem State.modLaunch_fwStat (s : State) (i : Nat) (f : Launch → Launch) : (s.modLaunch i f).fwStat = s.fwStat := rfl
@[simp] theorem State.modLaunch_fwImage (s : State) (i : Nat) (f : Launch → Launch) : (s.modLaunch i f).fwImage = s.fwImage := rfl
@[simp] theorem State.modLaunch_spCore (s : State) (i : Nat) (f : Launch → Launch) : (s.modLaunch i f).spCore = s.spCore := rfl
@[simp] theorem State.modLaunch_spDram (s : State) (i : Nat) (f : Launch → Launch) : (s.modLaunch i f).spDram = s.spDram := rfl
@[simp] theorem State.modLaunch_spRows (s : State) (i : Nat) (f : Launch → Launch) : (s.modLaunch i f).spRows = s.spRows := rfl
@[simp] theorem State.modLaunch_spWays (s : State) (i : Nat) (f : Launch → Launch) : (s.modLaunch i f).spWays = s.spWays := rfl
@[simp] theorem State.modLaunch_spErr (s : State) (i : Nat) (f : Launch → Launch) : (s.modLaunch i f).spErr = s.spErr := rfl
@[simp] theorem State.modLaunch_degraded (s : State) (i : Nat) (f : Launch → Launch) : (s.modLaunch i f).degraded = s.degraded := rfl
@[simp] theorem State.modLaunch_noPlace (s : State) (i : Nat) (f : Launch → Launch) : (s.modLaunch i f).noPlace = s.noPlace := rfl
@[simp] theorem State.modLaunch_recovery (s : State) (i : Nat) (f : Launch → Launch) : (s.modLaunch i f).recovery = s.recovery := rfl
@[simp] theorem State.modLaunch_lastExchange (s : State) (i : Nat) (f : Launch → Launch) : (s.modLaunch i f).lastExchange = s.lastExchange := rfl
@[simp] theorem State.modLaunch_irqs (s : State) (i : Nat) (f : Launch → Launch) : (s.modLaunch i f).irqs = s.irqs := rfl
@[simp] theorem State.modLaunch_strong (s : State) (i : Nat) (f : Launch → Launch) : (s.modLaunch i f).strong = s.strong := rfl
@[simp] theorem State.modLaunch_dbgEvents (s : State) (i : Nat) (f : Launch → Launch) : (s.modLaunch i f).dbgEvents = s.dbgEvents := rfl
@[simp] theorem State.modLaunch_links (s : State) (i : Nat) (f : Launch → Launch) : (s.modLaunch i f).links = s.links := rfl
@[simp] theorem State.modLaunch_busData (s : State) (i : Nat) (f : Launch → Launch) : (s.modLaunch i f).busData = s.busData := rfl

/-! ### modCore -/

@[simp] theorem State.modCore_mem (s : State) (i : Nat) (f : Core → Core) : (s.modCore i f).mem = s.mem := rfl
@[simp] theorem State.modCore_tick (s : State) (i : Nat) (f : Core → Core) : (s.modCore i f).tick = s.tick := rfl
@[simp] theorem State.modCore_dies (s : State) (i : Nat) (f : Core → Core) : (s.modCore i f).dies = s.dies := rfl
@[simp] theorem State.modCore_agenda (s : State) (i : Nat) (f : Core → Core) : (s.modCore i f).agenda = s.agenda := rfl
@[simp] theorem State.modCore_turn (s : State) (i : Nat) (f : Core → Core) : (s.modCore i f).turn = s.turn := rfl
@[simp] theorem State.modCore_issuing (s : State) (i : Nat) (f : Core → Core) : (s.modCore i f).issuing = s.issuing := rfl
@[simp] theorem State.modCore_issues (s : State) (i : Nat) (f : Core → Core) : (s.modCore i f).issues = s.issues := rfl
@[simp] theorem State.modCore_free (s : State) (i : Nat) (f : Core → Core) : (s.modCore i f).free = s.free := rfl
@[simp] theorem State.modCore_funcs (s : State) (i : Nat) (f : Core → Core) : (s.modCore i f).funcs = s.funcs := rfl
@[simp] theorem State.modCore_launches (s : State) (i : Nat) (f : Core → Core) : (s.modCore i f).launches = s.launches := rfl
@[simp] theorem State.modCore_blocks (s : State) (i : Nat) (f : Core → Core) : (s.modCore i f).blocks = s.blocks := rfl
@[simp] theorem State.modCore_waves (s : State) (i : Nat) (f : Core → Core) : (s.modCore i f).waves = s.waves := rfl
@[simp] theorem State.modCore_towers (s : State) (i : Nat) (f : Core → Core) : (s.modCore i f).towers = s.towers := rfl
@[simp] theorem State.modCore_reqs (s : State) (i : Nat) (f : Core → Core) : (s.modCore i f).reqs = s.reqs := rfl
@[simp] theorem State.modCore_nextReq (s : State) (i : Nat) (f : Core → Core) : (s.modCore i f).nextReq = s.nextReq := rfl
@[simp] theorem State.modCore_resvs (s : State) (i : Nat) (f : Core → Core) : (s.modCore i f).resvs = s.resvs := rfl
@[simp] theorem State.modCore_copies (s : State) (i : Nat) (f : Core → Core) : (s.modCore i f).copies = s.copies := rfl
@[simp] theorem State.modCore_xfers (s : State) (i : Nat) (f : Core → Core) : (s.modCore i f).xfers = s.xfers := rfl
@[simp] theorem State.modCore_nextOp (s : State) (i : Nat) (f : Core → Core) : (s.modCore i f).nextOp = s.nextOp := rfl
@[simp] theorem State.modCore_placements (s : State) (i : Nat) (f : Core → Core) : (s.modCore i f).placements = s.placements := rfl
@[simp] theorem State.modCore_verified (s : State) (i : Nat) (f : Core → Core) : (s.modCore i f).verified = s.verified := rfl
@[simp] theorem State.modCore_seals (s : State) (i : Nat) (f : Core → Core) : (s.modCore i f).seals = s.seals := rfl
@[simp] theorem State.modCore_keys (s : State) (i : Nat) (f : Core → Core) : (s.modCore i f).keys = s.keys := rfl
@[simp] theorem State.modCore_keyData (s : State) (i : Nat) (f : Core → Core) : (s.modCore i f).keyData = s.keyData := rfl
@[simp] theorem State.modCore_keyCmd (s : State) (i : Nat) (f : Core → Core) : (s.modCore i f).keyCmd = s.keyCmd := rfl
@[simp] theorem State.modCore_keyResult (s : State) (i : Nat) (f : Core → Core) : (s.modCore i f).keyResult = s.keyResult := rfl
@[simp] theorem State.modCore_late (s : State) (i : Nat) (f : Core → Core) : (s.modCore i f).late = s.late := rfl
@[simp] theorem State.modCore_hcwBase (s : State) (i : Nat) (f : Core → Core) : (s.modCore i f).hcwBase = s.hcwBase := rfl
@[simp] theorem State.modCore_hcwSize (s : State) (i : Nat) (f : Core → Core) : (s.modCore i f).hcwSize = s.hcwSize := rfl
@[simp] theorem State.modCore_fwStat (s : State) (i : Nat) (f : Core → Core) : (s.modCore i f).fwStat = s.fwStat := rfl
@[simp] theorem State.modCore_fwImage (s : State) (i : Nat) (f : Core → Core) : (s.modCore i f).fwImage = s.fwImage := rfl
@[simp] theorem State.modCore_spCore (s : State) (i : Nat) (f : Core → Core) : (s.modCore i f).spCore = s.spCore := rfl
@[simp] theorem State.modCore_spDram (s : State) (i : Nat) (f : Core → Core) : (s.modCore i f).spDram = s.spDram := rfl
@[simp] theorem State.modCore_spRows (s : State) (i : Nat) (f : Core → Core) : (s.modCore i f).spRows = s.spRows := rfl
@[simp] theorem State.modCore_spWays (s : State) (i : Nat) (f : Core → Core) : (s.modCore i f).spWays = s.spWays := rfl
@[simp] theorem State.modCore_spErr (s : State) (i : Nat) (f : Core → Core) : (s.modCore i f).spErr = s.spErr := rfl
@[simp] theorem State.modCore_degraded (s : State) (i : Nat) (f : Core → Core) : (s.modCore i f).degraded = s.degraded := rfl
@[simp] theorem State.modCore_noPlace (s : State) (i : Nat) (f : Core → Core) : (s.modCore i f).noPlace = s.noPlace := rfl
@[simp] theorem State.modCore_recovery (s : State) (i : Nat) (f : Core → Core) : (s.modCore i f).recovery = s.recovery := rfl
@[simp] theorem State.modCore_lastExchange (s : State) (i : Nat) (f : Core → Core) : (s.modCore i f).lastExchange = s.lastExchange := rfl
@[simp] theorem State.modCore_irqs (s : State) (i : Nat) (f : Core → Core) : (s.modCore i f).irqs = s.irqs := rfl
@[simp] theorem State.modCore_strong (s : State) (i : Nat) (f : Core → Core) : (s.modCore i f).strong = s.strong := rfl
@[simp] theorem State.modCore_dbgEvents (s : State) (i : Nat) (f : Core → Core) : (s.modCore i f).dbgEvents = s.dbgEvents := rfl
@[simp] theorem State.modCore_links (s : State) (i : Nat) (f : Core → Core) : (s.modCore i f).links = s.links := rfl
@[simp] theorem State.modCore_busData (s : State) (i : Nat) (f : Core → Core) : (s.modCore i f).busData = s.busData := rfl

/-! ### modTower -/

@[simp] theorem State.modTower_mem (s : State) (i : Nat) (f : Tower → Tower) : (s.modTower i f).mem = s.mem := rfl
@[simp] theorem State.modTower_tick (s : State) (i : Nat) (f : Tower → Tower) : (s.modTower i f).tick = s.tick := rfl
@[simp] theorem State.modTower_dies (s : State) (i : Nat) (f : Tower → Tower) : (s.modTower i f).dies = s.dies := rfl
@[simp] theorem State.modTower_agenda (s : State) (i : Nat) (f : Tower → Tower) : (s.modTower i f).agenda = s.agenda := rfl
@[simp] theorem State.modTower_turn (s : State) (i : Nat) (f : Tower → Tower) : (s.modTower i f).turn = s.turn := rfl
@[simp] theorem State.modTower_issuing (s : State) (i : Nat) (f : Tower → Tower) : (s.modTower i f).issuing = s.issuing := rfl
@[simp] theorem State.modTower_issues (s : State) (i : Nat) (f : Tower → Tower) : (s.modTower i f).issues = s.issues := rfl
@[simp] theorem State.modTower_free (s : State) (i : Nat) (f : Tower → Tower) : (s.modTower i f).free = s.free := rfl
@[simp] theorem State.modTower_funcs (s : State) (i : Nat) (f : Tower → Tower) : (s.modTower i f).funcs = s.funcs := rfl
@[simp] theorem State.modTower_launches (s : State) (i : Nat) (f : Tower → Tower) : (s.modTower i f).launches = s.launches := rfl
@[simp] theorem State.modTower_blocks (s : State) (i : Nat) (f : Tower → Tower) : (s.modTower i f).blocks = s.blocks := rfl
@[simp] theorem State.modTower_waves (s : State) (i : Nat) (f : Tower → Tower) : (s.modTower i f).waves = s.waves := rfl
@[simp] theorem State.modTower_cores (s : State) (i : Nat) (f : Tower → Tower) : (s.modTower i f).cores = s.cores := rfl
@[simp] theorem State.modTower_reqs (s : State) (i : Nat) (f : Tower → Tower) : (s.modTower i f).reqs = s.reqs := rfl
@[simp] theorem State.modTower_nextReq (s : State) (i : Nat) (f : Tower → Tower) : (s.modTower i f).nextReq = s.nextReq := rfl
@[simp] theorem State.modTower_resvs (s : State) (i : Nat) (f : Tower → Tower) : (s.modTower i f).resvs = s.resvs := rfl
@[simp] theorem State.modTower_copies (s : State) (i : Nat) (f : Tower → Tower) : (s.modTower i f).copies = s.copies := rfl
@[simp] theorem State.modTower_xfers (s : State) (i : Nat) (f : Tower → Tower) : (s.modTower i f).xfers = s.xfers := rfl
@[simp] theorem State.modTower_nextOp (s : State) (i : Nat) (f : Tower → Tower) : (s.modTower i f).nextOp = s.nextOp := rfl
@[simp] theorem State.modTower_placements (s : State) (i : Nat) (f : Tower → Tower) : (s.modTower i f).placements = s.placements := rfl
@[simp] theorem State.modTower_verified (s : State) (i : Nat) (f : Tower → Tower) : (s.modTower i f).verified = s.verified := rfl
@[simp] theorem State.modTower_seals (s : State) (i : Nat) (f : Tower → Tower) : (s.modTower i f).seals = s.seals := rfl
@[simp] theorem State.modTower_keys (s : State) (i : Nat) (f : Tower → Tower) : (s.modTower i f).keys = s.keys := rfl
@[simp] theorem State.modTower_keyData (s : State) (i : Nat) (f : Tower → Tower) : (s.modTower i f).keyData = s.keyData := rfl
@[simp] theorem State.modTower_keyCmd (s : State) (i : Nat) (f : Tower → Tower) : (s.modTower i f).keyCmd = s.keyCmd := rfl
@[simp] theorem State.modTower_keyResult (s : State) (i : Nat) (f : Tower → Tower) : (s.modTower i f).keyResult = s.keyResult := rfl
@[simp] theorem State.modTower_late (s : State) (i : Nat) (f : Tower → Tower) : (s.modTower i f).late = s.late := rfl
@[simp] theorem State.modTower_hcwBase (s : State) (i : Nat) (f : Tower → Tower) : (s.modTower i f).hcwBase = s.hcwBase := rfl
@[simp] theorem State.modTower_hcwSize (s : State) (i : Nat) (f : Tower → Tower) : (s.modTower i f).hcwSize = s.hcwSize := rfl
@[simp] theorem State.modTower_fwStat (s : State) (i : Nat) (f : Tower → Tower) : (s.modTower i f).fwStat = s.fwStat := rfl
@[simp] theorem State.modTower_fwImage (s : State) (i : Nat) (f : Tower → Tower) : (s.modTower i f).fwImage = s.fwImage := rfl
@[simp] theorem State.modTower_spCore (s : State) (i : Nat) (f : Tower → Tower) : (s.modTower i f).spCore = s.spCore := rfl
@[simp] theorem State.modTower_spDram (s : State) (i : Nat) (f : Tower → Tower) : (s.modTower i f).spDram = s.spDram := rfl
@[simp] theorem State.modTower_spRows (s : State) (i : Nat) (f : Tower → Tower) : (s.modTower i f).spRows = s.spRows := rfl
@[simp] theorem State.modTower_spWays (s : State) (i : Nat) (f : Tower → Tower) : (s.modTower i f).spWays = s.spWays := rfl
@[simp] theorem State.modTower_spErr (s : State) (i : Nat) (f : Tower → Tower) : (s.modTower i f).spErr = s.spErr := rfl
@[simp] theorem State.modTower_degraded (s : State) (i : Nat) (f : Tower → Tower) : (s.modTower i f).degraded = s.degraded := rfl
@[simp] theorem State.modTower_noPlace (s : State) (i : Nat) (f : Tower → Tower) : (s.modTower i f).noPlace = s.noPlace := rfl
@[simp] theorem State.modTower_recovery (s : State) (i : Nat) (f : Tower → Tower) : (s.modTower i f).recovery = s.recovery := rfl
@[simp] theorem State.modTower_lastExchange (s : State) (i : Nat) (f : Tower → Tower) : (s.modTower i f).lastExchange = s.lastExchange := rfl
@[simp] theorem State.modTower_irqs (s : State) (i : Nat) (f : Tower → Tower) : (s.modTower i f).irqs = s.irqs := rfl
@[simp] theorem State.modTower_strong (s : State) (i : Nat) (f : Tower → Tower) : (s.modTower i f).strong = s.strong := rfl
@[simp] theorem State.modTower_dbgEvents (s : State) (i : Nat) (f : Tower → Tower) : (s.modTower i f).dbgEvents = s.dbgEvents := rfl
@[simp] theorem State.modTower_links (s : State) (i : Nat) (f : Tower → Tower) : (s.modTower i f).links = s.links := rfl
@[simp] theorem State.modTower_busData (s : State) (i : Nat) (f : Tower → Tower) : (s.modTower i f).busData = s.busData := rfl

/-! ### modFunc -/

@[simp] theorem State.modFunc_mem (s : State) (i : Nat) (f : Func → Func) : (s.modFunc i f).mem = s.mem := rfl
@[simp] theorem State.modFunc_tick (s : State) (i : Nat) (f : Func → Func) : (s.modFunc i f).tick = s.tick := rfl
@[simp] theorem State.modFunc_dies (s : State) (i : Nat) (f : Func → Func) : (s.modFunc i f).dies = s.dies := rfl
@[simp] theorem State.modFunc_agenda (s : State) (i : Nat) (f : Func → Func) : (s.modFunc i f).agenda = s.agenda := rfl
@[simp] theorem State.modFunc_turn (s : State) (i : Nat) (f : Func → Func) : (s.modFunc i f).turn = s.turn := rfl
@[simp] theorem State.modFunc_issuing (s : State) (i : Nat) (f : Func → Func) : (s.modFunc i f).issuing = s.issuing := rfl
@[simp] theorem State.modFunc_issues (s : State) (i : Nat) (f : Func → Func) : (s.modFunc i f).issues = s.issues := rfl
@[simp] theorem State.modFunc_free (s : State) (i : Nat) (f : Func → Func) : (s.modFunc i f).free = s.free := rfl
@[simp] theorem State.modFunc_launches (s : State) (i : Nat) (f : Func → Func) : (s.modFunc i f).launches = s.launches := rfl
@[simp] theorem State.modFunc_blocks (s : State) (i : Nat) (f : Func → Func) : (s.modFunc i f).blocks = s.blocks := rfl
@[simp] theorem State.modFunc_waves (s : State) (i : Nat) (f : Func → Func) : (s.modFunc i f).waves = s.waves := rfl
@[simp] theorem State.modFunc_cores (s : State) (i : Nat) (f : Func → Func) : (s.modFunc i f).cores = s.cores := rfl
@[simp] theorem State.modFunc_towers (s : State) (i : Nat) (f : Func → Func) : (s.modFunc i f).towers = s.towers := rfl
@[simp] theorem State.modFunc_reqs (s : State) (i : Nat) (f : Func → Func) : (s.modFunc i f).reqs = s.reqs := rfl
@[simp] theorem State.modFunc_nextReq (s : State) (i : Nat) (f : Func → Func) : (s.modFunc i f).nextReq = s.nextReq := rfl
@[simp] theorem State.modFunc_resvs (s : State) (i : Nat) (f : Func → Func) : (s.modFunc i f).resvs = s.resvs := rfl
@[simp] theorem State.modFunc_copies (s : State) (i : Nat) (f : Func → Func) : (s.modFunc i f).copies = s.copies := rfl
@[simp] theorem State.modFunc_xfers (s : State) (i : Nat) (f : Func → Func) : (s.modFunc i f).xfers = s.xfers := rfl
@[simp] theorem State.modFunc_nextOp (s : State) (i : Nat) (f : Func → Func) : (s.modFunc i f).nextOp = s.nextOp := rfl
@[simp] theorem State.modFunc_placements (s : State) (i : Nat) (f : Func → Func) : (s.modFunc i f).placements = s.placements := rfl
@[simp] theorem State.modFunc_verified (s : State) (i : Nat) (f : Func → Func) : (s.modFunc i f).verified = s.verified := rfl
@[simp] theorem State.modFunc_seals (s : State) (i : Nat) (f : Func → Func) : (s.modFunc i f).seals = s.seals := rfl
@[simp] theorem State.modFunc_keys (s : State) (i : Nat) (f : Func → Func) : (s.modFunc i f).keys = s.keys := rfl
@[simp] theorem State.modFunc_keyData (s : State) (i : Nat) (f : Func → Func) : (s.modFunc i f).keyData = s.keyData := rfl
@[simp] theorem State.modFunc_keyCmd (s : State) (i : Nat) (f : Func → Func) : (s.modFunc i f).keyCmd = s.keyCmd := rfl
@[simp] theorem State.modFunc_keyResult (s : State) (i : Nat) (f : Func → Func) : (s.modFunc i f).keyResult = s.keyResult := rfl
@[simp] theorem State.modFunc_late (s : State) (i : Nat) (f : Func → Func) : (s.modFunc i f).late = s.late := rfl
@[simp] theorem State.modFunc_hcwBase (s : State) (i : Nat) (f : Func → Func) : (s.modFunc i f).hcwBase = s.hcwBase := rfl
@[simp] theorem State.modFunc_hcwSize (s : State) (i : Nat) (f : Func → Func) : (s.modFunc i f).hcwSize = s.hcwSize := rfl
@[simp] theorem State.modFunc_fwStat (s : State) (i : Nat) (f : Func → Func) : (s.modFunc i f).fwStat = s.fwStat := rfl
@[simp] theorem State.modFunc_fwImage (s : State) (i : Nat) (f : Func → Func) : (s.modFunc i f).fwImage = s.fwImage := rfl
@[simp] theorem State.modFunc_spCore (s : State) (i : Nat) (f : Func → Func) : (s.modFunc i f).spCore = s.spCore := rfl
@[simp] theorem State.modFunc_spDram (s : State) (i : Nat) (f : Func → Func) : (s.modFunc i f).spDram = s.spDram := rfl
@[simp] theorem State.modFunc_spRows (s : State) (i : Nat) (f : Func → Func) : (s.modFunc i f).spRows = s.spRows := rfl
@[simp] theorem State.modFunc_spWays (s : State) (i : Nat) (f : Func → Func) : (s.modFunc i f).spWays = s.spWays := rfl
@[simp] theorem State.modFunc_spErr (s : State) (i : Nat) (f : Func → Func) : (s.modFunc i f).spErr = s.spErr := rfl
@[simp] theorem State.modFunc_degraded (s : State) (i : Nat) (f : Func → Func) : (s.modFunc i f).degraded = s.degraded := rfl
@[simp] theorem State.modFunc_noPlace (s : State) (i : Nat) (f : Func → Func) : (s.modFunc i f).noPlace = s.noPlace := rfl
@[simp] theorem State.modFunc_recovery (s : State) (i : Nat) (f : Func → Func) : (s.modFunc i f).recovery = s.recovery := rfl
@[simp] theorem State.modFunc_lastExchange (s : State) (i : Nat) (f : Func → Func) : (s.modFunc i f).lastExchange = s.lastExchange := rfl
@[simp] theorem State.modFunc_irqs (s : State) (i : Nat) (f : Func → Func) : (s.modFunc i f).irqs = s.irqs := rfl
@[simp] theorem State.modFunc_strong (s : State) (i : Nat) (f : Func → Func) : (s.modFunc i f).strong = s.strong := rfl
@[simp] theorem State.modFunc_dbgEvents (s : State) (i : Nat) (f : Func → Func) : (s.modFunc i f).dbgEvents = s.dbgEvents := rfl
@[simp] theorem State.modFunc_links (s : State) (i : Nat) (f : Func → Func) : (s.modFunc i f).links = s.links := rfl
@[simp] theorem State.modFunc_busData (s : State) (i : Nat) (f : Func → Func) : (s.modFunc i f).busData = s.busData := rfl

/-! ### setCur -/

@[simp] theorem State.setCur_mem (s : State) (w : Wave) : (s.setCur w).mem = s.mem := rfl
@[simp] theorem State.setCur_tick (s : State) (w : Wave) : (s.setCur w).tick = s.tick := rfl
@[simp] theorem State.setCur_dies (s : State) (w : Wave) : (s.setCur w).dies = s.dies := rfl
@[simp] theorem State.setCur_agenda (s : State) (w : Wave) : (s.setCur w).agenda = s.agenda := rfl
@[simp] theorem State.setCur_turn (s : State) (w : Wave) : (s.setCur w).turn = s.turn := rfl
@[simp] theorem State.setCur_issuing (s : State) (w : Wave) : (s.setCur w).issuing = s.issuing := rfl
@[simp] theorem State.setCur_issues (s : State) (w : Wave) : (s.setCur w).issues = s.issues := rfl
@[simp] theorem State.setCur_free (s : State) (w : Wave) : (s.setCur w).free = s.free := rfl
@[simp] theorem State.setCur_funcs (s : State) (w : Wave) : (s.setCur w).funcs = s.funcs := rfl
@[simp] theorem State.setCur_launches (s : State) (w : Wave) : (s.setCur w).launches = s.launches := rfl
@[simp] theorem State.setCur_blocks (s : State) (w : Wave) : (s.setCur w).blocks = s.blocks := rfl
@[simp] theorem State.setCur_cores (s : State) (w : Wave) : (s.setCur w).cores = s.cores := rfl
@[simp] theorem State.setCur_towers (s : State) (w : Wave) : (s.setCur w).towers = s.towers := rfl
@[simp] theorem State.setCur_reqs (s : State) (w : Wave) : (s.setCur w).reqs = s.reqs := rfl
@[simp] theorem State.setCur_nextReq (s : State) (w : Wave) : (s.setCur w).nextReq = s.nextReq := rfl
@[simp] theorem State.setCur_resvs (s : State) (w : Wave) : (s.setCur w).resvs = s.resvs := rfl
@[simp] theorem State.setCur_copies (s : State) (w : Wave) : (s.setCur w).copies = s.copies := rfl
@[simp] theorem State.setCur_xfers (s : State) (w : Wave) : (s.setCur w).xfers = s.xfers := rfl
@[simp] theorem State.setCur_nextOp (s : State) (w : Wave) : (s.setCur w).nextOp = s.nextOp := rfl
@[simp] theorem State.setCur_placements (s : State) (w : Wave) : (s.setCur w).placements = s.placements := rfl
@[simp] theorem State.setCur_verified (s : State) (w : Wave) : (s.setCur w).verified = s.verified := rfl
@[simp] theorem State.setCur_seals (s : State) (w : Wave) : (s.setCur w).seals = s.seals := rfl
@[simp] theorem State.setCur_keys (s : State) (w : Wave) : (s.setCur w).keys = s.keys := rfl
@[simp] theorem State.setCur_keyData (s : State) (w : Wave) : (s.setCur w).keyData = s.keyData := rfl
@[simp] theorem State.setCur_keyCmd (s : State) (w : Wave) : (s.setCur w).keyCmd = s.keyCmd := rfl
@[simp] theorem State.setCur_keyResult (s : State) (w : Wave) : (s.setCur w).keyResult = s.keyResult := rfl
@[simp] theorem State.setCur_late (s : State) (w : Wave) : (s.setCur w).late = s.late := rfl
@[simp] theorem State.setCur_hcwBase (s : State) (w : Wave) : (s.setCur w).hcwBase = s.hcwBase := rfl
@[simp] theorem State.setCur_hcwSize (s : State) (w : Wave) : (s.setCur w).hcwSize = s.hcwSize := rfl
@[simp] theorem State.setCur_fwStat (s : State) (w : Wave) : (s.setCur w).fwStat = s.fwStat := rfl
@[simp] theorem State.setCur_fwImage (s : State) (w : Wave) : (s.setCur w).fwImage = s.fwImage := rfl
@[simp] theorem State.setCur_spCore (s : State) (w : Wave) : (s.setCur w).spCore = s.spCore := rfl
@[simp] theorem State.setCur_spDram (s : State) (w : Wave) : (s.setCur w).spDram = s.spDram := rfl
@[simp] theorem State.setCur_spRows (s : State) (w : Wave) : (s.setCur w).spRows = s.spRows := rfl
@[simp] theorem State.setCur_spWays (s : State) (w : Wave) : (s.setCur w).spWays = s.spWays := rfl
@[simp] theorem State.setCur_spErr (s : State) (w : Wave) : (s.setCur w).spErr = s.spErr := rfl
@[simp] theorem State.setCur_degraded (s : State) (w : Wave) : (s.setCur w).degraded = s.degraded := rfl
@[simp] theorem State.setCur_noPlace (s : State) (w : Wave) : (s.setCur w).noPlace = s.noPlace := rfl
@[simp] theorem State.setCur_recovery (s : State) (w : Wave) : (s.setCur w).recovery = s.recovery := rfl
@[simp] theorem State.setCur_lastExchange (s : State) (w : Wave) : (s.setCur w).lastExchange = s.lastExchange := rfl
@[simp] theorem State.setCur_irqs (s : State) (w : Wave) : (s.setCur w).irqs = s.irqs := rfl
@[simp] theorem State.setCur_strong (s : State) (w : Wave) : (s.setCur w).strong = s.strong := rfl
@[simp] theorem State.setCur_dbgEvents (s : State) (w : Wave) : (s.setCur w).dbgEvents = s.dbgEvents := rfl
@[simp] theorem State.setCur_links (s : State) (w : Wave) : (s.setCur w).links = s.links := rfl
@[simp] theorem State.setCur_busData (s : State) (w : Wave) : (s.setCur w).busData = s.busData := rfl

/-! ### poke -/

@[simp] theorem State.poke_tick (s : State) (bs : List (Nat × Byte)) : (s.poke bs).tick = s.tick := rfl
@[simp] theorem State.poke_dies (s : State) (bs : List (Nat × Byte)) : (s.poke bs).dies = s.dies := rfl
@[simp] theorem State.poke_agenda (s : State) (bs : List (Nat × Byte)) : (s.poke bs).agenda = s.agenda := rfl
@[simp] theorem State.poke_turn (s : State) (bs : List (Nat × Byte)) : (s.poke bs).turn = s.turn := rfl
@[simp] theorem State.poke_issuing (s : State) (bs : List (Nat × Byte)) : (s.poke bs).issuing = s.issuing := rfl
@[simp] theorem State.poke_issues (s : State) (bs : List (Nat × Byte)) : (s.poke bs).issues = s.issues := rfl
@[simp] theorem State.poke_free (s : State) (bs : List (Nat × Byte)) : (s.poke bs).free = s.free := rfl
@[simp] theorem State.poke_funcs (s : State) (bs : List (Nat × Byte)) : (s.poke bs).funcs = s.funcs := rfl
@[simp] theorem State.poke_launches (s : State) (bs : List (Nat × Byte)) : (s.poke bs).launches = s.launches := rfl
@[simp] theorem State.poke_blocks (s : State) (bs : List (Nat × Byte)) : (s.poke bs).blocks = s.blocks := rfl
@[simp] theorem State.poke_waves (s : State) (bs : List (Nat × Byte)) : (s.poke bs).waves = s.waves := rfl
@[simp] theorem State.poke_cores (s : State) (bs : List (Nat × Byte)) : (s.poke bs).cores = s.cores := rfl
@[simp] theorem State.poke_towers (s : State) (bs : List (Nat × Byte)) : (s.poke bs).towers = s.towers := rfl
@[simp] theorem State.poke_reqs (s : State) (bs : List (Nat × Byte)) : (s.poke bs).reqs = s.reqs := rfl
@[simp] theorem State.poke_nextReq (s : State) (bs : List (Nat × Byte)) : (s.poke bs).nextReq = s.nextReq := rfl
@[simp] theorem State.poke_resvs (s : State) (bs : List (Nat × Byte)) : (s.poke bs).resvs = s.resvs := rfl
@[simp] theorem State.poke_copies (s : State) (bs : List (Nat × Byte)) : (s.poke bs).copies = s.copies := rfl
@[simp] theorem State.poke_xfers (s : State) (bs : List (Nat × Byte)) : (s.poke bs).xfers = s.xfers := rfl
@[simp] theorem State.poke_nextOp (s : State) (bs : List (Nat × Byte)) : (s.poke bs).nextOp = s.nextOp := rfl
@[simp] theorem State.poke_placements (s : State) (bs : List (Nat × Byte)) : (s.poke bs).placements = s.placements := rfl
@[simp] theorem State.poke_verified (s : State) (bs : List (Nat × Byte)) : (s.poke bs).verified = s.verified := rfl
@[simp] theorem State.poke_seals (s : State) (bs : List (Nat × Byte)) : (s.poke bs).seals = s.seals := rfl
@[simp] theorem State.poke_keys (s : State) (bs : List (Nat × Byte)) : (s.poke bs).keys = s.keys := rfl
@[simp] theorem State.poke_keyData (s : State) (bs : List (Nat × Byte)) : (s.poke bs).keyData = s.keyData := rfl
@[simp] theorem State.poke_keyCmd (s : State) (bs : List (Nat × Byte)) : (s.poke bs).keyCmd = s.keyCmd := rfl
@[simp] theorem State.poke_keyResult (s : State) (bs : List (Nat × Byte)) : (s.poke bs).keyResult = s.keyResult := rfl
@[simp] theorem State.poke_late (s : State) (bs : List (Nat × Byte)) : (s.poke bs).late = s.late := rfl
@[simp] theorem State.poke_hcwBase (s : State) (bs : List (Nat × Byte)) : (s.poke bs).hcwBase = s.hcwBase := rfl
@[simp] theorem State.poke_hcwSize (s : State) (bs : List (Nat × Byte)) : (s.poke bs).hcwSize = s.hcwSize := rfl
@[simp] theorem State.poke_fwStat (s : State) (bs : List (Nat × Byte)) : (s.poke bs).fwStat = s.fwStat := rfl
@[simp] theorem State.poke_fwImage (s : State) (bs : List (Nat × Byte)) : (s.poke bs).fwImage = s.fwImage := rfl
@[simp] theorem State.poke_spCore (s : State) (bs : List (Nat × Byte)) : (s.poke bs).spCore = s.spCore := rfl
@[simp] theorem State.poke_spDram (s : State) (bs : List (Nat × Byte)) : (s.poke bs).spDram = s.spDram := rfl
@[simp] theorem State.poke_spRows (s : State) (bs : List (Nat × Byte)) : (s.poke bs).spRows = s.spRows := rfl
@[simp] theorem State.poke_spWays (s : State) (bs : List (Nat × Byte)) : (s.poke bs).spWays = s.spWays := rfl
@[simp] theorem State.poke_spErr (s : State) (bs : List (Nat × Byte)) : (s.poke bs).spErr = s.spErr := rfl
@[simp] theorem State.poke_degraded (s : State) (bs : List (Nat × Byte)) : (s.poke bs).degraded = s.degraded := rfl
@[simp] theorem State.poke_noPlace (s : State) (bs : List (Nat × Byte)) : (s.poke bs).noPlace = s.noPlace := rfl
@[simp] theorem State.poke_recovery (s : State) (bs : List (Nat × Byte)) : (s.poke bs).recovery = s.recovery := rfl
@[simp] theorem State.poke_lastExchange (s : State) (bs : List (Nat × Byte)) : (s.poke bs).lastExchange = s.lastExchange := rfl
@[simp] theorem State.poke_irqs (s : State) (bs : List (Nat × Byte)) : (s.poke bs).irqs = s.irqs := rfl
@[simp] theorem State.poke_strong (s : State) (bs : List (Nat × Byte)) : (s.poke bs).strong = s.strong := rfl
@[simp] theorem State.poke_dbgEvents (s : State) (bs : List (Nat × Byte)) : (s.poke bs).dbgEvents = s.dbgEvents := rfl
@[simp] theorem State.poke_links (s : State) (bs : List (Nat × Byte)) : (s.poke bs).links = s.links := rfl
@[simp] theorem State.poke_busData (s : State) (bs : List (Nat × Byte)) : (s.poke bs).busData = s.busData := rfl

/-! ### interrupt -/

@[simp] theorem State.interrupt_mem (s : State) (f v : Nat) : (s.interrupt f v).mem = s.mem := rfl
@[simp] theorem State.interrupt_tick (s : State) (f v : Nat) : (s.interrupt f v).tick = s.tick := rfl
@[simp] theorem State.interrupt_dies (s : State) (f v : Nat) : (s.interrupt f v).dies = s.dies := rfl
@[simp] theorem State.interrupt_agenda (s : State) (f v : Nat) : (s.interrupt f v).agenda = s.agenda := rfl
@[simp] theorem State.interrupt_turn (s : State) (f v : Nat) : (s.interrupt f v).turn = s.turn := rfl
@[simp] theorem State.interrupt_issuing (s : State) (f v : Nat) : (s.interrupt f v).issuing = s.issuing := rfl
@[simp] theorem State.interrupt_issues (s : State) (f v : Nat) : (s.interrupt f v).issues = s.issues := rfl
@[simp] theorem State.interrupt_free (s : State) (f v : Nat) : (s.interrupt f v).free = s.free := rfl
@[simp] theorem State.interrupt_funcs (s : State) (f v : Nat) : (s.interrupt f v).funcs = s.funcs := rfl
@[simp] theorem State.interrupt_launches (s : State) (f v : Nat) : (s.interrupt f v).launches = s.launches := rfl
@[simp] theorem State.interrupt_blocks (s : State) (f v : Nat) : (s.interrupt f v).blocks = s.blocks := rfl
@[simp] theorem State.interrupt_waves (s : State) (f v : Nat) : (s.interrupt f v).waves = s.waves := rfl
@[simp] theorem State.interrupt_cores (s : State) (f v : Nat) : (s.interrupt f v).cores = s.cores := rfl
@[simp] theorem State.interrupt_towers (s : State) (f v : Nat) : (s.interrupt f v).towers = s.towers := rfl
@[simp] theorem State.interrupt_reqs (s : State) (f v : Nat) : (s.interrupt f v).reqs = s.reqs := rfl
@[simp] theorem State.interrupt_nextReq (s : State) (f v : Nat) : (s.interrupt f v).nextReq = s.nextReq := rfl
@[simp] theorem State.interrupt_resvs (s : State) (f v : Nat) : (s.interrupt f v).resvs = s.resvs := rfl
@[simp] theorem State.interrupt_copies (s : State) (f v : Nat) : (s.interrupt f v).copies = s.copies := rfl
@[simp] theorem State.interrupt_xfers (s : State) (f v : Nat) : (s.interrupt f v).xfers = s.xfers := rfl
@[simp] theorem State.interrupt_nextOp (s : State) (f v : Nat) : (s.interrupt f v).nextOp = s.nextOp := rfl
@[simp] theorem State.interrupt_placements (s : State) (f v : Nat) : (s.interrupt f v).placements = s.placements := rfl
@[simp] theorem State.interrupt_verified (s : State) (f v : Nat) : (s.interrupt f v).verified = s.verified := rfl
@[simp] theorem State.interrupt_seals (s : State) (f v : Nat) : (s.interrupt f v).seals = s.seals := rfl
@[simp] theorem State.interrupt_keys (s : State) (f v : Nat) : (s.interrupt f v).keys = s.keys := rfl
@[simp] theorem State.interrupt_keyData (s : State) (f v : Nat) : (s.interrupt f v).keyData = s.keyData := rfl
@[simp] theorem State.interrupt_keyCmd (s : State) (f v : Nat) : (s.interrupt f v).keyCmd = s.keyCmd := rfl
@[simp] theorem State.interrupt_keyResult (s : State) (f v : Nat) : (s.interrupt f v).keyResult = s.keyResult := rfl
@[simp] theorem State.interrupt_late (s : State) (f v : Nat) : (s.interrupt f v).late = s.late := rfl
@[simp] theorem State.interrupt_hcwBase (s : State) (f v : Nat) : (s.interrupt f v).hcwBase = s.hcwBase := rfl
@[simp] theorem State.interrupt_hcwSize (s : State) (f v : Nat) : (s.interrupt f v).hcwSize = s.hcwSize := rfl
@[simp] theorem State.interrupt_fwStat (s : State) (f v : Nat) : (s.interrupt f v).fwStat = s.fwStat := rfl
@[simp] theorem State.interrupt_fwImage (s : State) (f v : Nat) : (s.interrupt f v).fwImage = s.fwImage := rfl
@[simp] theorem State.interrupt_spCore (s : State) (f v : Nat) : (s.interrupt f v).spCore = s.spCore := rfl
@[simp] theorem State.interrupt_spDram (s : State) (f v : Nat) : (s.interrupt f v).spDram = s.spDram := rfl
@[simp] theorem State.interrupt_spRows (s : State) (f v : Nat) : (s.interrupt f v).spRows = s.spRows := rfl
@[simp] theorem State.interrupt_spWays (s : State) (f v : Nat) : (s.interrupt f v).spWays = s.spWays := rfl
@[simp] theorem State.interrupt_spErr (s : State) (f v : Nat) : (s.interrupt f v).spErr = s.spErr := rfl
@[simp] theorem State.interrupt_degraded (s : State) (f v : Nat) : (s.interrupt f v).degraded = s.degraded := rfl
@[simp] theorem State.interrupt_noPlace (s : State) (f v : Nat) : (s.interrupt f v).noPlace = s.noPlace := rfl
@[simp] theorem State.interrupt_recovery (s : State) (f v : Nat) : (s.interrupt f v).recovery = s.recovery := rfl
@[simp] theorem State.interrupt_lastExchange (s : State) (f v : Nat) : (s.interrupt f v).lastExchange = s.lastExchange := rfl
@[simp] theorem State.interrupt_strong (s : State) (f v : Nat) : (s.interrupt f v).strong = s.strong := rfl
@[simp] theorem State.interrupt_dbgEvents (s : State) (f v : Nat) : (s.interrupt f v).dbgEvents = s.dbgEvents := rfl
@[simp] theorem State.interrupt_links (s : State) (f v : Nat) : (s.interrupt f v).links = s.links := rfl
@[simp] theorem State.interrupt_busData (s : State) (f v : Nat) : (s.interrupt f v).busData = s.busData := rfl

/-! ### setExec -/

@[simp] theorem Wave.setExec_block (w : Wave) (x : Mask) : (w.setExec x).block = w.block := rfl
@[simp] theorem Wave.setExec_index (w : Wave) (x : Mask) : (w.setExec x).index = w.index := rfl
@[simp] theorem Wave.setExec_part (w : Wave) (x : Mask) : (w.setExec x).part = w.part := rfl
@[simp] theorem Wave.setExec_slot (w : Wave) (x : Mask) : (w.setExec x).slot = w.slot := rfl
@[simp] theorem Wave.setExec_width (w : Wave) (x : Mask) : (w.setExec x).width = w.width := rfl
@[simp] theorem Wave.setExec_ended (w : Wave) (x : Mask) : (w.setExec x).ended = w.ended := rfl
@[simp] theorem Wave.setExec_sregs (w : Wave) (x : Mask) : (w.setExec x).sregs = w.sregs := rfl
@[simp] theorem Wave.setExec_vregs (w : Wave) (x : Mask) : (w.setExec x).vregs = w.vregs := rfl
@[simp] theorem Wave.setExec_scc (w : Wave) (x : Mask) : (w.setExec x).scc = w.scc := rfl
@[simp] theorem Wave.setExec_pc (w : Wave) (x : Mask) : (w.setExec x).pc = w.pc := rfl
@[simp] theorem Wave.setExec_cur (w : Wave) (x : Mask) : (w.setExec x).cur = w.cur := rfl
@[simp] theorem Wave.setExec_frags (w : Wave) (x : Mask) : (w.setExec x).frags = w.frags := rfl
@[simp] theorem Wave.setExec_hints (w : Wave) (x : Mask) : (w.setExec x).hints = w.hints := rfl
@[simp] theorem Wave.setExec_sf (w : Wave) (x : Mask) : (w.setExec x).sf = w.sf := rfl
@[simp] theorem Wave.setExec_outC (w : Wave) (x : Mask) : (w.setExec x).outC = w.outC := rfl
@[simp] theorem Wave.setExec_outM (w : Wave) (x : Mask) : (w.setExec x).outM = w.outM := rfl
@[simp] theorem Wave.setExec_outK (w : Wave) (x : Mask) : (w.setExec x).outK = w.outK := rfl
@[simp] theorem Wave.setExec_outD (w : Wave) (x : Mask) : (w.setExec x).outD = w.outD := rfl
@[simp] theorem Wave.setExec_recent (w : Wave) (x : Mask) : (w.setExec x).recent = w.recent := rfl
@[simp] theorem Wave.setExec_rndMode (w : Wave) (x : Mask) : (w.setExec x).rndMode = w.rndMode := rfl
@[simp] theorem Wave.setExec_quantum (w : Wave) (x : Mask) : (w.setExec x).quantum = w.quantum := rfl
@[simp] theorem Wave.setExec_hzStaged (w : Wave) (x : Mask) : (w.setExec x).hzStaged = w.hzStaged := rfl
@[simp] theorem Wave.setExec_gate (w : Wave) (x : Mask) : (w.setExec x).gate = w.gate := rfl
@[simp] theorem Wave.setExec_wakeTo (w : Wave) (x : Mask) : (w.setExec x).wakeTo = w.wakeTo := rfl
@[simp] theorem Wave.setExec_cause (w : Wave) (x : Mask) : (w.setExec x).cause = w.cause := rfl
@[simp] theorem Wave.setExec_trapPc (w : Wave) (x : Mask) : (w.setExec x).trapPc = w.trapPc := rfl
@[simp] theorem Wave.setExec_trapMask (w : Wave) (x : Mask) : (w.setExec x).trapMask = w.trapMask := rfl
@[simp] theorem Wave.setExec_trapAddr (w : Wave) (x : Mask) : (w.setExec x).trapAddr = w.trapAddr := rfl
@[simp] theorem Wave.setExec_srSeed (w : Wave) (x : Mask) : (w.setExec x).srSeed = w.srSeed := rfl
@[simp] theorem Wave.setExec_clockLatch (w : Wave) (x : Mask) : (w.setExec x).clockLatch = w.clockLatch := rfl
@[simp] theorem Wave.setExec_savExec (w : Wave) (x : Mask) : (w.setExec x).savExec = w.savExec := rfl
@[simp] theorem Wave.setExec_inTrap (w : Wave) (x : Mask) : (w.setExec x).inTrap = w.inTrap := rfl
@[simp] theorem Wave.setExec_skipPc (w : Wave) (x : Mask) : (w.setExec x).skipPc = w.skipPc := rfl
@[simp] theorem Wave.setExec_srState (w : Wave) (x : Mask) : (w.setExec x).srState = w.srState := rfl
@[simp] theorem Wave.setExec_rank (w : Wave) (x : Mask) : (w.setExec x).rank = w.rank := rfl
@[simp] theorem Wave.setExec_pending (w : Wave) (x : Mask) : (w.setExec x).pending = w.pending := rfl
@[simp] theorem Wave.setExec_held (w : Wave) (x : Mask) : (w.setExec x).held = w.held := rfl
@[simp] theorem Wave.setExec_susp (w : Wave) (x : Mask) : (w.setExec x).susp = w.susp := rfl
@[simp] theorem Wave.setExec_trapPending (w : Wave) (x : Mask) : (w.setExec x).trapPending = w.trapPending := rfl
@[simp] theorem Wave.setExec_entering (w : Wave) (x : Mask) : (w.setExec x).entering = w.entering := rfl
@[simp] theorem Wave.setExec_qcount (w : Wave) (x : Mask) : (w.setExec x).qcount = w.qcount := rfl
@[simp] theorem Wave.setExec_qActive (w : Wave) (x : Mask) : (w.setExec x).qActive = w.qActive := rfl
@[simp] theorem Wave.setExec_defer (w : Wave) (x : Mask) : (w.setExec x).defer = w.defer := rfl
@[simp] theorem Wave.setExec_switchDue (w : Wave) (x : Mask) : (w.setExec x).switchDue = w.switchDue := rfl
@[simp] theorem Wave.setExec_fuseDue (w : Wave) (x : Mask) : (w.setExec x).fuseDue = w.fuseDue := rfl
@[simp] theorem Wave.setExec_gang (w : Wave) (x : Mask) : (w.setExec x).gang = w.gang := rfl
@[simp] theorem Wave.setExec_keepOut (w : Wave) (x : Mask) : (w.setExec x).keepOut = w.keepOut := rfl
@[simp] theorem Wave.setExec_holds (w : Wave) (x : Mask) : (w.setExec x).holds = w.holds := rfl
@[simp] theorem Wave.setExec_readPc (w : Wave) (x : Mask) : (w.setExec x).readPc = w.readPc := rfl
@[simp] theorem Wave.setExec_units (w : Wave) (x : Mask) : (w.setExec x).units = w.units := rfl
@[simp] theorem Wave.setExec_waitCount (w : Wave) (x : Mask) : (w.setExec x).waitCount = w.waitCount := rfl
@[simp] theorem Wave.setExec_lastIssue (w : Wave) (x : Mask) : (w.setExec x).lastIssue = w.lastIssue := rfl
@[simp] theorem Wave.setExec_skipCycle (w : Wave) (x : Mask) : (w.setExec x).skipCycle = w.skipCycle := rfl
@[simp] theorem Wave.setExec_taken (w : Wave) (x : Mask) : (w.setExec x).taken = w.taken := rfl
@[simp] theorem Wave.setExec_marker (w : Wave) (x : Mask) : (w.setExec x).marker = w.marker := rfl
@[simp] theorem Wave.setExec_sliceDone (w : Wave) (x : Mask) : (w.setExec x).sliceDone = w.sliceDone := rfl
@[simp] theorem Wave.setExec_sliceFrom (w : Wave) (x : Mask) : (w.setExec x).sliceFrom = w.sliceFrom := rfl
@[simp] theorem Wave.setExec_stall (w : Wave) (x : Mask) : (w.setExec x).stall = w.stall := rfl
@[simp] theorem Wave.setExec_stallAt (w : Wave) (x : Mask) : (w.setExec x).stallAt = w.stallAt := rfl
@[simp] theorem Wave.setExec_ibuf (w : Wave) (x : Mask) : (w.setExec x).ibuf = w.ibuf := rfl
@[simp] theorem Wave.setExec_retired (w : Wave) (x : Mask) : (w.setExec x).retired = w.retired := rfl
@[simp] theorem Wave.setExec_pinLost (w : Wave) (x : Mask) : (w.setExec x).pinLost = w.pinLost := rfl
@[simp] theorem Wave.setExec_endAt (w : Wave) (x : Mask) : (w.setExec x).endAt = w.endAt := rfl

/-! ### setM -/

@[simp] theorem Wave.setM_block (w : Wave) (r : MReg) (x : Mask) : (w.setM r x).block = w.block := rfl
@[simp] theorem Wave.setM_index (w : Wave) (r : MReg) (x : Mask) : (w.setM r x).index = w.index := rfl
@[simp] theorem Wave.setM_part (w : Wave) (r : MReg) (x : Mask) : (w.setM r x).part = w.part := rfl
@[simp] theorem Wave.setM_slot (w : Wave) (r : MReg) (x : Mask) : (w.setM r x).slot = w.slot := rfl
@[simp] theorem Wave.setM_width (w : Wave) (r : MReg) (x : Mask) : (w.setM r x).width = w.width := rfl
@[simp] theorem Wave.setM_ended (w : Wave) (r : MReg) (x : Mask) : (w.setM r x).ended = w.ended := rfl
@[simp] theorem Wave.setM_sregs (w : Wave) (r : MReg) (x : Mask) : (w.setM r x).sregs = w.sregs := rfl
@[simp] theorem Wave.setM_vregs (w : Wave) (r : MReg) (x : Mask) : (w.setM r x).vregs = w.vregs := rfl
@[simp] theorem Wave.setM_scc (w : Wave) (r : MReg) (x : Mask) : (w.setM r x).scc = w.scc := rfl
@[simp] theorem Wave.setM_pc (w : Wave) (r : MReg) (x : Mask) : (w.setM r x).pc = w.pc := rfl
@[simp] theorem Wave.setM_cur (w : Wave) (r : MReg) (x : Mask) : (w.setM r x).cur = w.cur := rfl
@[simp] theorem Wave.setM_frags (w : Wave) (r : MReg) (x : Mask) : (w.setM r x).frags = w.frags := rfl
@[simp] theorem Wave.setM_hints (w : Wave) (r : MReg) (x : Mask) : (w.setM r x).hints = w.hints := rfl
@[simp] theorem Wave.setM_sf (w : Wave) (r : MReg) (x : Mask) : (w.setM r x).sf = w.sf := rfl
@[simp] theorem Wave.setM_outC (w : Wave) (r : MReg) (x : Mask) : (w.setM r x).outC = w.outC := rfl
@[simp] theorem Wave.setM_outM (w : Wave) (r : MReg) (x : Mask) : (w.setM r x).outM = w.outM := rfl
@[simp] theorem Wave.setM_outK (w : Wave) (r : MReg) (x : Mask) : (w.setM r x).outK = w.outK := rfl
@[simp] theorem Wave.setM_outD (w : Wave) (r : MReg) (x : Mask) : (w.setM r x).outD = w.outD := rfl
@[simp] theorem Wave.setM_recent (w : Wave) (r : MReg) (x : Mask) : (w.setM r x).recent = w.recent := rfl
@[simp] theorem Wave.setM_rndMode (w : Wave) (r : MReg) (x : Mask) : (w.setM r x).rndMode = w.rndMode := rfl
@[simp] theorem Wave.setM_quantum (w : Wave) (r : MReg) (x : Mask) : (w.setM r x).quantum = w.quantum := rfl
@[simp] theorem Wave.setM_hzStaged (w : Wave) (r : MReg) (x : Mask) : (w.setM r x).hzStaged = w.hzStaged := rfl
@[simp] theorem Wave.setM_gate (w : Wave) (r : MReg) (x : Mask) : (w.setM r x).gate = w.gate := rfl
@[simp] theorem Wave.setM_wakeTo (w : Wave) (r : MReg) (x : Mask) : (w.setM r x).wakeTo = w.wakeTo := rfl
@[simp] theorem Wave.setM_cause (w : Wave) (r : MReg) (x : Mask) : (w.setM r x).cause = w.cause := rfl
@[simp] theorem Wave.setM_trapPc (w : Wave) (r : MReg) (x : Mask) : (w.setM r x).trapPc = w.trapPc := rfl
@[simp] theorem Wave.setM_trapMask (w : Wave) (r : MReg) (x : Mask) : (w.setM r x).trapMask = w.trapMask := rfl
@[simp] theorem Wave.setM_trapAddr (w : Wave) (r : MReg) (x : Mask) : (w.setM r x).trapAddr = w.trapAddr := rfl
@[simp] theorem Wave.setM_srSeed (w : Wave) (r : MReg) (x : Mask) : (w.setM r x).srSeed = w.srSeed := rfl
@[simp] theorem Wave.setM_clockLatch (w : Wave) (r : MReg) (x : Mask) : (w.setM r x).clockLatch = w.clockLatch := rfl
@[simp] theorem Wave.setM_savExec (w : Wave) (r : MReg) (x : Mask) : (w.setM r x).savExec = w.savExec := rfl
@[simp] theorem Wave.setM_inTrap (w : Wave) (r : MReg) (x : Mask) : (w.setM r x).inTrap = w.inTrap := rfl
@[simp] theorem Wave.setM_skipPc (w : Wave) (r : MReg) (x : Mask) : (w.setM r x).skipPc = w.skipPc := rfl
@[simp] theorem Wave.setM_srState (w : Wave) (r : MReg) (x : Mask) : (w.setM r x).srState = w.srState := rfl
@[simp] theorem Wave.setM_rank (w : Wave) (r : MReg) (x : Mask) : (w.setM r x).rank = w.rank := rfl
@[simp] theorem Wave.setM_pending (w : Wave) (r : MReg) (x : Mask) : (w.setM r x).pending = w.pending := rfl
@[simp] theorem Wave.setM_held (w : Wave) (r : MReg) (x : Mask) : (w.setM r x).held = w.held := rfl
@[simp] theorem Wave.setM_susp (w : Wave) (r : MReg) (x : Mask) : (w.setM r x).susp = w.susp := rfl
@[simp] theorem Wave.setM_trapPending (w : Wave) (r : MReg) (x : Mask) : (w.setM r x).trapPending = w.trapPending := rfl
@[simp] theorem Wave.setM_entering (w : Wave) (r : MReg) (x : Mask) : (w.setM r x).entering = w.entering := rfl
@[simp] theorem Wave.setM_qcount (w : Wave) (r : MReg) (x : Mask) : (w.setM r x).qcount = w.qcount := rfl
@[simp] theorem Wave.setM_qActive (w : Wave) (r : MReg) (x : Mask) : (w.setM r x).qActive = w.qActive := rfl
@[simp] theorem Wave.setM_defer (w : Wave) (r : MReg) (x : Mask) : (w.setM r x).defer = w.defer := rfl
@[simp] theorem Wave.setM_switchDue (w : Wave) (r : MReg) (x : Mask) : (w.setM r x).switchDue = w.switchDue := rfl
@[simp] theorem Wave.setM_fuseDue (w : Wave) (r : MReg) (x : Mask) : (w.setM r x).fuseDue = w.fuseDue := rfl
@[simp] theorem Wave.setM_gang (w : Wave) (r : MReg) (x : Mask) : (w.setM r x).gang = w.gang := rfl
@[simp] theorem Wave.setM_keepOut (w : Wave) (r : MReg) (x : Mask) : (w.setM r x).keepOut = w.keepOut := rfl
@[simp] theorem Wave.setM_holds (w : Wave) (r : MReg) (x : Mask) : (w.setM r x).holds = w.holds := rfl
@[simp] theorem Wave.setM_readPc (w : Wave) (r : MReg) (x : Mask) : (w.setM r x).readPc = w.readPc := rfl
@[simp] theorem Wave.setM_units (w : Wave) (r : MReg) (x : Mask) : (w.setM r x).units = w.units := rfl
@[simp] theorem Wave.setM_waitCount (w : Wave) (r : MReg) (x : Mask) : (w.setM r x).waitCount = w.waitCount := rfl
@[simp] theorem Wave.setM_lastIssue (w : Wave) (r : MReg) (x : Mask) : (w.setM r x).lastIssue = w.lastIssue := rfl
@[simp] theorem Wave.setM_skipCycle (w : Wave) (r : MReg) (x : Mask) : (w.setM r x).skipCycle = w.skipCycle := rfl
@[simp] theorem Wave.setM_taken (w : Wave) (r : MReg) (x : Mask) : (w.setM r x).taken = w.taken := rfl
@[simp] theorem Wave.setM_marker (w : Wave) (r : MReg) (x : Mask) : (w.setM r x).marker = w.marker := rfl
@[simp] theorem Wave.setM_sliceDone (w : Wave) (r : MReg) (x : Mask) : (w.setM r x).sliceDone = w.sliceDone := rfl
@[simp] theorem Wave.setM_sliceFrom (w : Wave) (r : MReg) (x : Mask) : (w.setM r x).sliceFrom = w.sliceFrom := rfl
@[simp] theorem Wave.setM_stall (w : Wave) (r : MReg) (x : Mask) : (w.setM r x).stall = w.stall := rfl
@[simp] theorem Wave.setM_stallAt (w : Wave) (r : MReg) (x : Mask) : (w.setM r x).stallAt = w.stallAt := rfl
@[simp] theorem Wave.setM_ibuf (w : Wave) (r : MReg) (x : Mask) : (w.setM r x).ibuf = w.ibuf := rfl
@[simp] theorem Wave.setM_retired (w : Wave) (r : MReg) (x : Mask) : (w.setM r x).retired = w.retired := rfl
@[simp] theorem Wave.setM_pinLost (w : Wave) (r : MReg) (x : Mask) : (w.setM r x).pinLost = w.pinLost := rfl
@[simp] theorem Wave.setM_endAt (w : Wave) (r : MReg) (x : Mask) : (w.setM r x).endAt = w.endAt := rfl

/-! ### setVn -/

@[simp] theorem Wave.setVn_block (w : Wave) (r : Nat) (m : Mask) (f : Nat → Word) : (w.setVn r m f).block = w.block := rfl
@[simp] theorem Wave.setVn_index (w : Wave) (r : Nat) (m : Mask) (f : Nat → Word) : (w.setVn r m f).index = w.index := rfl
@[simp] theorem Wave.setVn_part (w : Wave) (r : Nat) (m : Mask) (f : Nat → Word) : (w.setVn r m f).part = w.part := rfl
@[simp] theorem Wave.setVn_slot (w : Wave) (r : Nat) (m : Mask) (f : Nat → Word) : (w.setVn r m f).slot = w.slot := rfl
@[simp] theorem Wave.setVn_width (w : Wave) (r : Nat) (m : Mask) (f : Nat → Word) : (w.setVn r m f).width = w.width := rfl
@[simp] theorem Wave.setVn_ended (w : Wave) (r : Nat) (m : Mask) (f : Nat → Word) : (w.setVn r m f).ended = w.ended := rfl
@[simp] theorem Wave.setVn_sregs (w : Wave) (r : Nat) (m : Mask) (f : Nat → Word) : (w.setVn r m f).sregs = w.sregs := rfl
@[simp] theorem Wave.setVn_mregs (w : Wave) (r : Nat) (m : Mask) (f : Nat → Word) : (w.setVn r m f).mregs = w.mregs := rfl
@[simp] theorem Wave.setVn_scc (w : Wave) (r : Nat) (m : Mask) (f : Nat → Word) : (w.setVn r m f).scc = w.scc := rfl
@[simp] theorem Wave.setVn_pc (w : Wave) (r : Nat) (m : Mask) (f : Nat → Word) : (w.setVn r m f).pc = w.pc := rfl
@[simp] theorem Wave.setVn_cur (w : Wave) (r : Nat) (m : Mask) (f : Nat → Word) : (w.setVn r m f).cur = w.cur := rfl
@[simp] theorem Wave.setVn_frags (w : Wave) (r : Nat) (m : Mask) (f : Nat → Word) : (w.setVn r m f).frags = w.frags := rfl
@[simp] theorem Wave.setVn_hints (w : Wave) (r : Nat) (m : Mask) (f : Nat → Word) : (w.setVn r m f).hints = w.hints := rfl
@[simp] theorem Wave.setVn_sf (w : Wave) (r : Nat) (m : Mask) (f : Nat → Word) : (w.setVn r m f).sf = w.sf := rfl
@[simp] theorem Wave.setVn_outC (w : Wave) (r : Nat) (m : Mask) (f : Nat → Word) : (w.setVn r m f).outC = w.outC := rfl
@[simp] theorem Wave.setVn_outM (w : Wave) (r : Nat) (m : Mask) (f : Nat → Word) : (w.setVn r m f).outM = w.outM := rfl
@[simp] theorem Wave.setVn_outK (w : Wave) (r : Nat) (m : Mask) (f : Nat → Word) : (w.setVn r m f).outK = w.outK := rfl
@[simp] theorem Wave.setVn_outD (w : Wave) (r : Nat) (m : Mask) (f : Nat → Word) : (w.setVn r m f).outD = w.outD := rfl
@[simp] theorem Wave.setVn_recent (w : Wave) (r : Nat) (m : Mask) (f : Nat → Word) : (w.setVn r m f).recent = w.recent := rfl
@[simp] theorem Wave.setVn_rndMode (w : Wave) (r : Nat) (m : Mask) (f : Nat → Word) : (w.setVn r m f).rndMode = w.rndMode := rfl
@[simp] theorem Wave.setVn_quantum (w : Wave) (r : Nat) (m : Mask) (f : Nat → Word) : (w.setVn r m f).quantum = w.quantum := rfl
@[simp] theorem Wave.setVn_hzStaged (w : Wave) (r : Nat) (m : Mask) (f : Nat → Word) : (w.setVn r m f).hzStaged = w.hzStaged := rfl
@[simp] theorem Wave.setVn_gate (w : Wave) (r : Nat) (m : Mask) (f : Nat → Word) : (w.setVn r m f).gate = w.gate := rfl
@[simp] theorem Wave.setVn_wakeTo (w : Wave) (r : Nat) (m : Mask) (f : Nat → Word) : (w.setVn r m f).wakeTo = w.wakeTo := rfl
@[simp] theorem Wave.setVn_cause (w : Wave) (r : Nat) (m : Mask) (f : Nat → Word) : (w.setVn r m f).cause = w.cause := rfl
@[simp] theorem Wave.setVn_trapPc (w : Wave) (r : Nat) (m : Mask) (f : Nat → Word) : (w.setVn r m f).trapPc = w.trapPc := rfl
@[simp] theorem Wave.setVn_trapMask (w : Wave) (r : Nat) (m : Mask) (f : Nat → Word) : (w.setVn r m f).trapMask = w.trapMask := rfl
@[simp] theorem Wave.setVn_trapAddr (w : Wave) (r : Nat) (m : Mask) (f : Nat → Word) : (w.setVn r m f).trapAddr = w.trapAddr := rfl
@[simp] theorem Wave.setVn_srSeed (w : Wave) (r : Nat) (m : Mask) (f : Nat → Word) : (w.setVn r m f).srSeed = w.srSeed := rfl
@[simp] theorem Wave.setVn_clockLatch (w : Wave) (r : Nat) (m : Mask) (f : Nat → Word) : (w.setVn r m f).clockLatch = w.clockLatch := rfl
@[simp] theorem Wave.setVn_savExec (w : Wave) (r : Nat) (m : Mask) (f : Nat → Word) : (w.setVn r m f).savExec = w.savExec := rfl
@[simp] theorem Wave.setVn_inTrap (w : Wave) (r : Nat) (m : Mask) (f : Nat → Word) : (w.setVn r m f).inTrap = w.inTrap := rfl
@[simp] theorem Wave.setVn_skipPc (w : Wave) (r : Nat) (m : Mask) (f : Nat → Word) : (w.setVn r m f).skipPc = w.skipPc := rfl
@[simp] theorem Wave.setVn_srState (w : Wave) (r : Nat) (m : Mask) (f : Nat → Word) : (w.setVn r m f).srState = w.srState := rfl
@[simp] theorem Wave.setVn_rank (w : Wave) (r : Nat) (m : Mask) (f : Nat → Word) : (w.setVn r m f).rank = w.rank := rfl
@[simp] theorem Wave.setVn_pending (w : Wave) (r : Nat) (m : Mask) (f : Nat → Word) : (w.setVn r m f).pending = w.pending := rfl
@[simp] theorem Wave.setVn_held (w : Wave) (r : Nat) (m : Mask) (f : Nat → Word) : (w.setVn r m f).held = w.held := rfl
@[simp] theorem Wave.setVn_susp (w : Wave) (r : Nat) (m : Mask) (f : Nat → Word) : (w.setVn r m f).susp = w.susp := rfl
@[simp] theorem Wave.setVn_trapPending (w : Wave) (r : Nat) (m : Mask) (f : Nat → Word) : (w.setVn r m f).trapPending = w.trapPending := rfl
@[simp] theorem Wave.setVn_entering (w : Wave) (r : Nat) (m : Mask) (f : Nat → Word) : (w.setVn r m f).entering = w.entering := rfl
@[simp] theorem Wave.setVn_qcount (w : Wave) (r : Nat) (m : Mask) (f : Nat → Word) : (w.setVn r m f).qcount = w.qcount := rfl
@[simp] theorem Wave.setVn_qActive (w : Wave) (r : Nat) (m : Mask) (f : Nat → Word) : (w.setVn r m f).qActive = w.qActive := rfl
@[simp] theorem Wave.setVn_defer (w : Wave) (r : Nat) (m : Mask) (f : Nat → Word) : (w.setVn r m f).defer = w.defer := rfl
@[simp] theorem Wave.setVn_switchDue (w : Wave) (r : Nat) (m : Mask) (f : Nat → Word) : (w.setVn r m f).switchDue = w.switchDue := rfl
@[simp] theorem Wave.setVn_fuseDue (w : Wave) (r : Nat) (m : Mask) (f : Nat → Word) : (w.setVn r m f).fuseDue = w.fuseDue := rfl
@[simp] theorem Wave.setVn_gang (w : Wave) (r : Nat) (m : Mask) (f : Nat → Word) : (w.setVn r m f).gang = w.gang := rfl
@[simp] theorem Wave.setVn_keepOut (w : Wave) (r : Nat) (m : Mask) (f : Nat → Word) : (w.setVn r m f).keepOut = w.keepOut := rfl
@[simp] theorem Wave.setVn_holds (w : Wave) (r : Nat) (m : Mask) (f : Nat → Word) : (w.setVn r m f).holds = w.holds := rfl
@[simp] theorem Wave.setVn_readPc (w : Wave) (r : Nat) (m : Mask) (f : Nat → Word) : (w.setVn r m f).readPc = w.readPc := rfl
@[simp] theorem Wave.setVn_units (w : Wave) (r : Nat) (m : Mask) (f : Nat → Word) : (w.setVn r m f).units = w.units := rfl
@[simp] theorem Wave.setVn_waitCount (w : Wave) (r : Nat) (m : Mask) (f : Nat → Word) : (w.setVn r m f).waitCount = w.waitCount := rfl
@[simp] theorem Wave.setVn_lastIssue (w : Wave) (r : Nat) (m : Mask) (f : Nat → Word) : (w.setVn r m f).lastIssue = w.lastIssue := rfl
@[simp] theorem Wave.setVn_skipCycle (w : Wave) (r : Nat) (m : Mask) (f : Nat → Word) : (w.setVn r m f).skipCycle = w.skipCycle := rfl
@[simp] theorem Wave.setVn_taken (w : Wave) (r : Nat) (m : Mask) (f : Nat → Word) : (w.setVn r m f).taken = w.taken := rfl
@[simp] theorem Wave.setVn_marker (w : Wave) (r : Nat) (m : Mask) (f : Nat → Word) : (w.setVn r m f).marker = w.marker := rfl
@[simp] theorem Wave.setVn_sliceDone (w : Wave) (r : Nat) (m : Mask) (f : Nat → Word) : (w.setVn r m f).sliceDone = w.sliceDone := rfl
@[simp] theorem Wave.setVn_sliceFrom (w : Wave) (r : Nat) (m : Mask) (f : Nat → Word) : (w.setVn r m f).sliceFrom = w.sliceFrom := rfl
@[simp] theorem Wave.setVn_stall (w : Wave) (r : Nat) (m : Mask) (f : Nat → Word) : (w.setVn r m f).stall = w.stall := rfl
@[simp] theorem Wave.setVn_stallAt (w : Wave) (r : Nat) (m : Mask) (f : Nat → Word) : (w.setVn r m f).stallAt = w.stallAt := rfl
@[simp] theorem Wave.setVn_ibuf (w : Wave) (r : Nat) (m : Mask) (f : Nat → Word) : (w.setVn r m f).ibuf = w.ibuf := rfl
@[simp] theorem Wave.setVn_retired (w : Wave) (r : Nat) (m : Mask) (f : Nat → Word) : (w.setVn r m f).retired = w.retired := rfl
@[simp] theorem Wave.setVn_pinLost (w : Wave) (r : Nat) (m : Mask) (f : Nat → Word) : (w.setVn r m f).pinLost = w.pinLost := rfl
@[simp] theorem Wave.setVn_endAt (w : Wave) (r : Nat) (m : Mask) (f : Nat → Word) : (w.setVn r m f).endAt = w.endAt := rfl

/-! ### raise -/

@[simp] theorem Wave.raise_block (w : Wave) (x : Stamp) : (w.raise x).block = w.block := rfl
@[simp] theorem Wave.raise_index (w : Wave) (x : Stamp) : (w.raise x).index = w.index := rfl
@[simp] theorem Wave.raise_part (w : Wave) (x : Stamp) : (w.raise x).part = w.part := rfl
@[simp] theorem Wave.raise_slot (w : Wave) (x : Stamp) : (w.raise x).slot = w.slot := rfl
@[simp] theorem Wave.raise_width (w : Wave) (x : Stamp) : (w.raise x).width = w.width := rfl
@[simp] theorem Wave.raise_ended (w : Wave) (x : Stamp) : (w.raise x).ended = w.ended := rfl
@[simp] theorem Wave.raise_sregs (w : Wave) (x : Stamp) : (w.raise x).sregs = w.sregs := rfl
@[simp] theorem Wave.raise_vregs (w : Wave) (x : Stamp) : (w.raise x).vregs = w.vregs := rfl
@[simp] theorem Wave.raise_mregs (w : Wave) (x : Stamp) : (w.raise x).mregs = w.mregs := rfl
@[simp] theorem Wave.raise_scc (w : Wave) (x : Stamp) : (w.raise x).scc = w.scc := rfl
@[simp] theorem Wave.raise_pc (w : Wave) (x : Stamp) : (w.raise x).pc = w.pc := rfl
@[simp] theorem Wave.raise_cur (w : Wave) (x : Stamp) : (w.raise x).cur = w.cur := rfl
@[simp] theorem Wave.raise_frags (w : Wave) (x : Stamp) : (w.raise x).frags = w.frags := rfl
@[simp] theorem Wave.raise_hints (w : Wave) (x : Stamp) : (w.raise x).hints = w.hints := rfl
@[simp] theorem Wave.raise_outC (w : Wave) (x : Stamp) : (w.raise x).outC = w.outC := rfl
@[simp] theorem Wave.raise_outM (w : Wave) (x : Stamp) : (w.raise x).outM = w.outM := rfl
@[simp] theorem Wave.raise_outK (w : Wave) (x : Stamp) : (w.raise x).outK = w.outK := rfl
@[simp] theorem Wave.raise_outD (w : Wave) (x : Stamp) : (w.raise x).outD = w.outD := rfl
@[simp] theorem Wave.raise_recent (w : Wave) (x : Stamp) : (w.raise x).recent = w.recent := rfl
@[simp] theorem Wave.raise_rndMode (w : Wave) (x : Stamp) : (w.raise x).rndMode = w.rndMode := rfl
@[simp] theorem Wave.raise_quantum (w : Wave) (x : Stamp) : (w.raise x).quantum = w.quantum := rfl
@[simp] theorem Wave.raise_hzStaged (w : Wave) (x : Stamp) : (w.raise x).hzStaged = w.hzStaged := rfl
@[simp] theorem Wave.raise_gate (w : Wave) (x : Stamp) : (w.raise x).gate = w.gate := rfl
@[simp] theorem Wave.raise_wakeTo (w : Wave) (x : Stamp) : (w.raise x).wakeTo = w.wakeTo := rfl
@[simp] theorem Wave.raise_cause (w : Wave) (x : Stamp) : (w.raise x).cause = w.cause := rfl
@[simp] theorem Wave.raise_trapPc (w : Wave) (x : Stamp) : (w.raise x).trapPc = w.trapPc := rfl
@[simp] theorem Wave.raise_trapMask (w : Wave) (x : Stamp) : (w.raise x).trapMask = w.trapMask := rfl
@[simp] theorem Wave.raise_trapAddr (w : Wave) (x : Stamp) : (w.raise x).trapAddr = w.trapAddr := rfl
@[simp] theorem Wave.raise_srSeed (w : Wave) (x : Stamp) : (w.raise x).srSeed = w.srSeed := rfl
@[simp] theorem Wave.raise_clockLatch (w : Wave) (x : Stamp) : (w.raise x).clockLatch = w.clockLatch := rfl
@[simp] theorem Wave.raise_savExec (w : Wave) (x : Stamp) : (w.raise x).savExec = w.savExec := rfl
@[simp] theorem Wave.raise_inTrap (w : Wave) (x : Stamp) : (w.raise x).inTrap = w.inTrap := rfl
@[simp] theorem Wave.raise_skipPc (w : Wave) (x : Stamp) : (w.raise x).skipPc = w.skipPc := rfl
@[simp] theorem Wave.raise_srState (w : Wave) (x : Stamp) : (w.raise x).srState = w.srState := rfl
@[simp] theorem Wave.raise_rank (w : Wave) (x : Stamp) : (w.raise x).rank = w.rank := rfl
@[simp] theorem Wave.raise_pending (w : Wave) (x : Stamp) : (w.raise x).pending = w.pending := rfl
@[simp] theorem Wave.raise_held (w : Wave) (x : Stamp) : (w.raise x).held = w.held := rfl
@[simp] theorem Wave.raise_susp (w : Wave) (x : Stamp) : (w.raise x).susp = w.susp := rfl
@[simp] theorem Wave.raise_trapPending (w : Wave) (x : Stamp) : (w.raise x).trapPending = w.trapPending := rfl
@[simp] theorem Wave.raise_entering (w : Wave) (x : Stamp) : (w.raise x).entering = w.entering := rfl
@[simp] theorem Wave.raise_qcount (w : Wave) (x : Stamp) : (w.raise x).qcount = w.qcount := rfl
@[simp] theorem Wave.raise_qActive (w : Wave) (x : Stamp) : (w.raise x).qActive = w.qActive := rfl
@[simp] theorem Wave.raise_defer (w : Wave) (x : Stamp) : (w.raise x).defer = w.defer := rfl
@[simp] theorem Wave.raise_switchDue (w : Wave) (x : Stamp) : (w.raise x).switchDue = w.switchDue := rfl
@[simp] theorem Wave.raise_fuseDue (w : Wave) (x : Stamp) : (w.raise x).fuseDue = w.fuseDue := rfl
@[simp] theorem Wave.raise_gang (w : Wave) (x : Stamp) : (w.raise x).gang = w.gang := rfl
@[simp] theorem Wave.raise_keepOut (w : Wave) (x : Stamp) : (w.raise x).keepOut = w.keepOut := rfl
@[simp] theorem Wave.raise_holds (w : Wave) (x : Stamp) : (w.raise x).holds = w.holds := rfl
@[simp] theorem Wave.raise_readPc (w : Wave) (x : Stamp) : (w.raise x).readPc = w.readPc := rfl
@[simp] theorem Wave.raise_units (w : Wave) (x : Stamp) : (w.raise x).units = w.units := rfl
@[simp] theorem Wave.raise_waitCount (w : Wave) (x : Stamp) : (w.raise x).waitCount = w.waitCount := rfl
@[simp] theorem Wave.raise_lastIssue (w : Wave) (x : Stamp) : (w.raise x).lastIssue = w.lastIssue := rfl
@[simp] theorem Wave.raise_skipCycle (w : Wave) (x : Stamp) : (w.raise x).skipCycle = w.skipCycle := rfl
@[simp] theorem Wave.raise_taken (w : Wave) (x : Stamp) : (w.raise x).taken = w.taken := rfl
@[simp] theorem Wave.raise_marker (w : Wave) (x : Stamp) : (w.raise x).marker = w.marker := rfl
@[simp] theorem Wave.raise_sliceDone (w : Wave) (x : Stamp) : (w.raise x).sliceDone = w.sliceDone := rfl
@[simp] theorem Wave.raise_sliceFrom (w : Wave) (x : Stamp) : (w.raise x).sliceFrom = w.sliceFrom := rfl
@[simp] theorem Wave.raise_stall (w : Wave) (x : Stamp) : (w.raise x).stall = w.stall := rfl
@[simp] theorem Wave.raise_stallAt (w : Wave) (x : Stamp) : (w.raise x).stallAt = w.stallAt := rfl
@[simp] theorem Wave.raise_ibuf (w : Wave) (x : Stamp) : (w.raise x).ibuf = w.ibuf := rfl
@[simp] theorem Wave.raise_retired (w : Wave) (x : Stamp) : (w.raise x).retired = w.retired := rfl
@[simp] theorem Wave.raise_pinLost (w : Wave) (x : Stamp) : (w.raise x).pinLost = w.pinLost := rfl
@[simp] theorem Wave.raise_endAt (w : Wave) (x : Stamp) : (w.raise x).endAt = w.endAt := rfl

/-! ### modFrag -/

@[simp] theorem Wave.modFrag_block (w : Wave) (e : Nat) (f : Frag → Frag) : (w.modFrag e f).block = w.block := rfl
@[simp] theorem Wave.modFrag_index (w : Wave) (e : Nat) (f : Frag → Frag) : (w.modFrag e f).index = w.index := rfl
@[simp] theorem Wave.modFrag_part (w : Wave) (e : Nat) (f : Frag → Frag) : (w.modFrag e f).part = w.part := rfl
@[simp] theorem Wave.modFrag_slot (w : Wave) (e : Nat) (f : Frag → Frag) : (w.modFrag e f).slot = w.slot := rfl
@[simp] theorem Wave.modFrag_width (w : Wave) (e : Nat) (f : Frag → Frag) : (w.modFrag e f).width = w.width := rfl
@[simp] theorem Wave.modFrag_ended (w : Wave) (e : Nat) (f : Frag → Frag) : (w.modFrag e f).ended = w.ended := rfl
@[simp] theorem Wave.modFrag_sregs (w : Wave) (e : Nat) (f : Frag → Frag) : (w.modFrag e f).sregs = w.sregs := rfl
@[simp] theorem Wave.modFrag_vregs (w : Wave) (e : Nat) (f : Frag → Frag) : (w.modFrag e f).vregs = w.vregs := rfl
@[simp] theorem Wave.modFrag_mregs (w : Wave) (e : Nat) (f : Frag → Frag) : (w.modFrag e f).mregs = w.mregs := rfl
@[simp] theorem Wave.modFrag_scc (w : Wave) (e : Nat) (f : Frag → Frag) : (w.modFrag e f).scc = w.scc := rfl
@[simp] theorem Wave.modFrag_pc (w : Wave) (e : Nat) (f : Frag → Frag) : (w.modFrag e f).pc = w.pc := rfl
@[simp] theorem Wave.modFrag_cur (w : Wave) (e : Nat) (f : Frag → Frag) : (w.modFrag e f).cur = w.cur := rfl
@[simp] theorem Wave.modFrag_hints (w : Wave) (e : Nat) (f : Frag → Frag) : (w.modFrag e f).hints = w.hints := rfl
@[simp] theorem Wave.modFrag_sf (w : Wave) (e : Nat) (f : Frag → Frag) : (w.modFrag e f).sf = w.sf := rfl
@[simp] theorem Wave.modFrag_outC (w : Wave) (e : Nat) (f : Frag → Frag) : (w.modFrag e f).outC = w.outC := rfl
@[simp] theorem Wave.modFrag_outM (w : Wave) (e : Nat) (f : Frag → Frag) : (w.modFrag e f).outM = w.outM := rfl
@[simp] theorem Wave.modFrag_outK (w : Wave) (e : Nat) (f : Frag → Frag) : (w.modFrag e f).outK = w.outK := rfl
@[simp] theorem Wave.modFrag_outD (w : Wave) (e : Nat) (f : Frag → Frag) : (w.modFrag e f).outD = w.outD := rfl
@[simp] theorem Wave.modFrag_recent (w : Wave) (e : Nat) (f : Frag → Frag) : (w.modFrag e f).recent = w.recent := rfl
@[simp] theorem Wave.modFrag_rndMode (w : Wave) (e : Nat) (f : Frag → Frag) : (w.modFrag e f).rndMode = w.rndMode := rfl
@[simp] theorem Wave.modFrag_quantum (w : Wave) (e : Nat) (f : Frag → Frag) : (w.modFrag e f).quantum = w.quantum := rfl
@[simp] theorem Wave.modFrag_hzStaged (w : Wave) (e : Nat) (f : Frag → Frag) : (w.modFrag e f).hzStaged = w.hzStaged := rfl
@[simp] theorem Wave.modFrag_gate (w : Wave) (e : Nat) (f : Frag → Frag) : (w.modFrag e f).gate = w.gate := rfl
@[simp] theorem Wave.modFrag_wakeTo (w : Wave) (e : Nat) (f : Frag → Frag) : (w.modFrag e f).wakeTo = w.wakeTo := rfl
@[simp] theorem Wave.modFrag_cause (w : Wave) (e : Nat) (f : Frag → Frag) : (w.modFrag e f).cause = w.cause := rfl
@[simp] theorem Wave.modFrag_trapPc (w : Wave) (e : Nat) (f : Frag → Frag) : (w.modFrag e f).trapPc = w.trapPc := rfl
@[simp] theorem Wave.modFrag_trapMask (w : Wave) (e : Nat) (f : Frag → Frag) : (w.modFrag e f).trapMask = w.trapMask := rfl
@[simp] theorem Wave.modFrag_trapAddr (w : Wave) (e : Nat) (f : Frag → Frag) : (w.modFrag e f).trapAddr = w.trapAddr := rfl
@[simp] theorem Wave.modFrag_srSeed (w : Wave) (e : Nat) (f : Frag → Frag) : (w.modFrag e f).srSeed = w.srSeed := rfl
@[simp] theorem Wave.modFrag_clockLatch (w : Wave) (e : Nat) (f : Frag → Frag) : (w.modFrag e f).clockLatch = w.clockLatch := rfl
@[simp] theorem Wave.modFrag_savExec (w : Wave) (e : Nat) (f : Frag → Frag) : (w.modFrag e f).savExec = w.savExec := rfl
@[simp] theorem Wave.modFrag_inTrap (w : Wave) (e : Nat) (f : Frag → Frag) : (w.modFrag e f).inTrap = w.inTrap := rfl
@[simp] theorem Wave.modFrag_skipPc (w : Wave) (e : Nat) (f : Frag → Frag) : (w.modFrag e f).skipPc = w.skipPc := rfl
@[simp] theorem Wave.modFrag_srState (w : Wave) (e : Nat) (f : Frag → Frag) : (w.modFrag e f).srState = w.srState := rfl
@[simp] theorem Wave.modFrag_rank (w : Wave) (e : Nat) (f : Frag → Frag) : (w.modFrag e f).rank = w.rank := rfl
@[simp] theorem Wave.modFrag_pending (w : Wave) (e : Nat) (f : Frag → Frag) : (w.modFrag e f).pending = w.pending := rfl
@[simp] theorem Wave.modFrag_held (w : Wave) (e : Nat) (f : Frag → Frag) : (w.modFrag e f).held = w.held := rfl
@[simp] theorem Wave.modFrag_susp (w : Wave) (e : Nat) (f : Frag → Frag) : (w.modFrag e f).susp = w.susp := rfl
@[simp] theorem Wave.modFrag_trapPending (w : Wave) (e : Nat) (f : Frag → Frag) : (w.modFrag e f).trapPending = w.trapPending := rfl
@[simp] theorem Wave.modFrag_entering (w : Wave) (e : Nat) (f : Frag → Frag) : (w.modFrag e f).entering = w.entering := rfl
@[simp] theorem Wave.modFrag_qcount (w : Wave) (e : Nat) (f : Frag → Frag) : (w.modFrag e f).qcount = w.qcount := rfl
@[simp] theorem Wave.modFrag_qActive (w : Wave) (e : Nat) (f : Frag → Frag) : (w.modFrag e f).qActive = w.qActive := rfl
@[simp] theorem Wave.modFrag_defer (w : Wave) (e : Nat) (f : Frag → Frag) : (w.modFrag e f).defer = w.defer := rfl
@[simp] theorem Wave.modFrag_switchDue (w : Wave) (e : Nat) (f : Frag → Frag) : (w.modFrag e f).switchDue = w.switchDue := rfl
@[simp] theorem Wave.modFrag_fuseDue (w : Wave) (e : Nat) (f : Frag → Frag) : (w.modFrag e f).fuseDue = w.fuseDue := rfl
@[simp] theorem Wave.modFrag_gang (w : Wave) (e : Nat) (f : Frag → Frag) : (w.modFrag e f).gang = w.gang := rfl
@[simp] theorem Wave.modFrag_keepOut (w : Wave) (e : Nat) (f : Frag → Frag) : (w.modFrag e f).keepOut = w.keepOut := rfl
@[simp] theorem Wave.modFrag_holds (w : Wave) (e : Nat) (f : Frag → Frag) : (w.modFrag e f).holds = w.holds := rfl
@[simp] theorem Wave.modFrag_readPc (w : Wave) (e : Nat) (f : Frag → Frag) : (w.modFrag e f).readPc = w.readPc := rfl
@[simp] theorem Wave.modFrag_units (w : Wave) (e : Nat) (f : Frag → Frag) : (w.modFrag e f).units = w.units := rfl
@[simp] theorem Wave.modFrag_waitCount (w : Wave) (e : Nat) (f : Frag → Frag) : (w.modFrag e f).waitCount = w.waitCount := rfl
@[simp] theorem Wave.modFrag_lastIssue (w : Wave) (e : Nat) (f : Frag → Frag) : (w.modFrag e f).lastIssue = w.lastIssue := rfl
@[simp] theorem Wave.modFrag_skipCycle (w : Wave) (e : Nat) (f : Frag → Frag) : (w.modFrag e f).skipCycle = w.skipCycle := rfl
@[simp] theorem Wave.modFrag_taken (w : Wave) (e : Nat) (f : Frag → Frag) : (w.modFrag e f).taken = w.taken := rfl
@[simp] theorem Wave.modFrag_marker (w : Wave) (e : Nat) (f : Frag → Frag) : (w.modFrag e f).marker = w.marker := rfl
@[simp] theorem Wave.modFrag_sliceDone (w : Wave) (e : Nat) (f : Frag → Frag) : (w.modFrag e f).sliceDone = w.sliceDone := rfl
@[simp] theorem Wave.modFrag_sliceFrom (w : Wave) (e : Nat) (f : Frag → Frag) : (w.modFrag e f).sliceFrom = w.sliceFrom := rfl
@[simp] theorem Wave.modFrag_stall (w : Wave) (e : Nat) (f : Frag → Frag) : (w.modFrag e f).stall = w.stall := rfl
@[simp] theorem Wave.modFrag_stallAt (w : Wave) (e : Nat) (f : Frag → Frag) : (w.modFrag e f).stallAt = w.stallAt := rfl
@[simp] theorem Wave.modFrag_ibuf (w : Wave) (e : Nat) (f : Frag → Frag) : (w.modFrag e f).ibuf = w.ibuf := rfl
@[simp] theorem Wave.modFrag_retired (w : Wave) (e : Nat) (f : Frag → Frag) : (w.modFrag e f).retired = w.retired := rfl
@[simp] theorem Wave.modFrag_pinLost (w : Wave) (e : Nat) (f : Frag → Frag) : (w.modFrag e f).pinLost = w.pinLost := rfl
@[simp] theorem Wave.modFrag_endAt (w : Wave) (e : Nat) (f : Frag → Frag) : (w.modFrag e f).endAt = w.endAt := rfl

/-! ### setS -/

@[simp] theorem Wave.setS_block (w : Wave) (r : SReg) (x : Word) : (w.setS r x).block = w.block := by unfold Wave.setS; split <;> rfl
@[simp] theorem Wave.setS_index (w : Wave) (r : SReg) (x : Word) : (w.setS r x).index = w.index := by unfold Wave.setS; split <;> rfl
@[simp] theorem Wave.setS_part (w : Wave) (r : SReg) (x : Word) : (w.setS r x).part = w.part := by unfold Wave.setS; split <;> rfl
@[simp] theorem Wave.setS_slot (w : Wave) (r : SReg) (x : Word) : (w.setS r x).slot = w.slot := by unfold Wave.setS; split <;> rfl
@[simp] theorem Wave.setS_width (w : Wave) (r : SReg) (x : Word) : (w.setS r x).width = w.width := by unfold Wave.setS; split <;> rfl
@[simp] theorem Wave.setS_ended (w : Wave) (r : SReg) (x : Word) : (w.setS r x).ended = w.ended := by unfold Wave.setS; split <;> rfl
@[simp] theorem Wave.setS_vregs (w : Wave) (r : SReg) (x : Word) : (w.setS r x).vregs = w.vregs := by unfold Wave.setS; split <;> rfl
@[simp] theorem Wave.setS_mregs (w : Wave) (r : SReg) (x : Word) : (w.setS r x).mregs = w.mregs := by unfold Wave.setS; split <;> rfl
@[simp] theorem Wave.setS_scc (w : Wave) (r : SReg) (x : Word) : (w.setS r x).scc = w.scc := by unfold Wave.setS; split <;> rfl
@[simp] theorem Wave.setS_pc (w : Wave) (r : SReg) (x : Word) : (w.setS r x).pc = w.pc := by unfold Wave.setS; split <;> rfl
@[simp] theorem Wave.setS_cur (w : Wave) (r : SReg) (x : Word) : (w.setS r x).cur = w.cur := by unfold Wave.setS; split <;> rfl
@[simp] theorem Wave.setS_frags (w : Wave) (r : SReg) (x : Word) : (w.setS r x).frags = w.frags := by unfold Wave.setS; split <;> rfl
@[simp] theorem Wave.setS_hints (w : Wave) (r : SReg) (x : Word) : (w.setS r x).hints = w.hints := by unfold Wave.setS; split <;> rfl
@[simp] theorem Wave.setS_sf (w : Wave) (r : SReg) (x : Word) : (w.setS r x).sf = w.sf := by unfold Wave.setS; split <;> rfl
@[simp] theorem Wave.setS_outC (w : Wave) (r : SReg) (x : Word) : (w.setS r x).outC = w.outC := by unfold Wave.setS; split <;> rfl
@[simp] theorem Wave.setS_outM (w : Wave) (r : SReg) (x : Word) : (w.setS r x).outM = w.outM := by unfold Wave.setS; split <;> rfl
@[simp] theorem Wave.setS_outK (w : Wave) (r : SReg) (x : Word) : (w.setS r x).outK = w.outK := by unfold Wave.setS; split <;> rfl
@[simp] theorem Wave.setS_outD (w : Wave) (r : SReg) (x : Word) : (w.setS r x).outD = w.outD := by unfold Wave.setS; split <;> rfl
@[simp] theorem Wave.setS_recent (w : Wave) (r : SReg) (x : Word) : (w.setS r x).recent = w.recent := by unfold Wave.setS; split <;> rfl
@[simp] theorem Wave.setS_rndMode (w : Wave) (r : SReg) (x : Word) : (w.setS r x).rndMode = w.rndMode := by unfold Wave.setS; split <;> rfl
@[simp] theorem Wave.setS_quantum (w : Wave) (r : SReg) (x : Word) : (w.setS r x).quantum = w.quantum := by unfold Wave.setS; split <;> rfl
@[simp] theorem Wave.setS_hzStaged (w : Wave) (r : SReg) (x : Word) : (w.setS r x).hzStaged = w.hzStaged := by unfold Wave.setS; split <;> rfl
@[simp] theorem Wave.setS_gate (w : Wave) (r : SReg) (x : Word) : (w.setS r x).gate = w.gate := by unfold Wave.setS; split <;> rfl
@[simp] theorem Wave.setS_wakeTo (w : Wave) (r : SReg) (x : Word) : (w.setS r x).wakeTo = w.wakeTo := by unfold Wave.setS; split <;> rfl
@[simp] theorem Wave.setS_cause (w : Wave) (r : SReg) (x : Word) : (w.setS r x).cause = w.cause := by unfold Wave.setS; split <;> rfl
@[simp] theorem Wave.setS_trapPc (w : Wave) (r : SReg) (x : Word) : (w.setS r x).trapPc = w.trapPc := by unfold Wave.setS; split <;> rfl
@[simp] theorem Wave.setS_trapMask (w : Wave) (r : SReg) (x : Word) : (w.setS r x).trapMask = w.trapMask := by unfold Wave.setS; split <;> rfl
@[simp] theorem Wave.setS_trapAddr (w : Wave) (r : SReg) (x : Word) : (w.setS r x).trapAddr = w.trapAddr := by unfold Wave.setS; split <;> rfl
@[simp] theorem Wave.setS_srSeed (w : Wave) (r : SReg) (x : Word) : (w.setS r x).srSeed = w.srSeed := by unfold Wave.setS; split <;> rfl
@[simp] theorem Wave.setS_clockLatch (w : Wave) (r : SReg) (x : Word) : (w.setS r x).clockLatch = w.clockLatch := by unfold Wave.setS; split <;> rfl
@[simp] theorem Wave.setS_savExec (w : Wave) (r : SReg) (x : Word) : (w.setS r x).savExec = w.savExec := by unfold Wave.setS; split <;> rfl
@[simp] theorem Wave.setS_inTrap (w : Wave) (r : SReg) (x : Word) : (w.setS r x).inTrap = w.inTrap := by unfold Wave.setS; split <;> rfl
@[simp] theorem Wave.setS_skipPc (w : Wave) (r : SReg) (x : Word) : (w.setS r x).skipPc = w.skipPc := by unfold Wave.setS; split <;> rfl
@[simp] theorem Wave.setS_srState (w : Wave) (r : SReg) (x : Word) : (w.setS r x).srState = w.srState := by unfold Wave.setS; split <;> rfl
@[simp] theorem Wave.setS_rank (w : Wave) (r : SReg) (x : Word) : (w.setS r x).rank = w.rank := by unfold Wave.setS; split <;> rfl
@[simp] theorem Wave.setS_pending (w : Wave) (r : SReg) (x : Word) : (w.setS r x).pending = w.pending := by unfold Wave.setS; split <;> rfl
@[simp] theorem Wave.setS_held (w : Wave) (r : SReg) (x : Word) : (w.setS r x).held = w.held := by unfold Wave.setS; split <;> rfl
@[simp] theorem Wave.setS_susp (w : Wave) (r : SReg) (x : Word) : (w.setS r x).susp = w.susp := by unfold Wave.setS; split <;> rfl
@[simp] theorem Wave.setS_trapPending (w : Wave) (r : SReg) (x : Word) : (w.setS r x).trapPending = w.trapPending := by unfold Wave.setS; split <;> rfl
@[simp] theorem Wave.setS_entering (w : Wave) (r : SReg) (x : Word) : (w.setS r x).entering = w.entering := by unfold Wave.setS; split <;> rfl
@[simp] theorem Wave.setS_qcount (w : Wave) (r : SReg) (x : Word) : (w.setS r x).qcount = w.qcount := by unfold Wave.setS; split <;> rfl
@[simp] theorem Wave.setS_qActive (w : Wave) (r : SReg) (x : Word) : (w.setS r x).qActive = w.qActive := by unfold Wave.setS; split <;> rfl
@[simp] theorem Wave.setS_defer (w : Wave) (r : SReg) (x : Word) : (w.setS r x).defer = w.defer := by unfold Wave.setS; split <;> rfl
@[simp] theorem Wave.setS_switchDue (w : Wave) (r : SReg) (x : Word) : (w.setS r x).switchDue = w.switchDue := by unfold Wave.setS; split <;> rfl
@[simp] theorem Wave.setS_fuseDue (w : Wave) (r : SReg) (x : Word) : (w.setS r x).fuseDue = w.fuseDue := by unfold Wave.setS; split <;> rfl
@[simp] theorem Wave.setS_gang (w : Wave) (r : SReg) (x : Word) : (w.setS r x).gang = w.gang := by unfold Wave.setS; split <;> rfl
@[simp] theorem Wave.setS_keepOut (w : Wave) (r : SReg) (x : Word) : (w.setS r x).keepOut = w.keepOut := by unfold Wave.setS; split <;> rfl
@[simp] theorem Wave.setS_holds (w : Wave) (r : SReg) (x : Word) : (w.setS r x).holds = w.holds := by unfold Wave.setS; split <;> rfl
@[simp] theorem Wave.setS_readPc (w : Wave) (r : SReg) (x : Word) : (w.setS r x).readPc = w.readPc := by unfold Wave.setS; split <;> rfl
@[simp] theorem Wave.setS_units (w : Wave) (r : SReg) (x : Word) : (w.setS r x).units = w.units := by unfold Wave.setS; split <;> rfl
@[simp] theorem Wave.setS_waitCount (w : Wave) (r : SReg) (x : Word) : (w.setS r x).waitCount = w.waitCount := by unfold Wave.setS; split <;> rfl
@[simp] theorem Wave.setS_lastIssue (w : Wave) (r : SReg) (x : Word) : (w.setS r x).lastIssue = w.lastIssue := by unfold Wave.setS; split <;> rfl
@[simp] theorem Wave.setS_skipCycle (w : Wave) (r : SReg) (x : Word) : (w.setS r x).skipCycle = w.skipCycle := by unfold Wave.setS; split <;> rfl
@[simp] theorem Wave.setS_taken (w : Wave) (r : SReg) (x : Word) : (w.setS r x).taken = w.taken := by unfold Wave.setS; split <;> rfl
@[simp] theorem Wave.setS_marker (w : Wave) (r : SReg) (x : Word) : (w.setS r x).marker = w.marker := by unfold Wave.setS; split <;> rfl
@[simp] theorem Wave.setS_sliceDone (w : Wave) (r : SReg) (x : Word) : (w.setS r x).sliceDone = w.sliceDone := by unfold Wave.setS; split <;> rfl
@[simp] theorem Wave.setS_sliceFrom (w : Wave) (r : SReg) (x : Word) : (w.setS r x).sliceFrom = w.sliceFrom := by unfold Wave.setS; split <;> rfl
@[simp] theorem Wave.setS_stall (w : Wave) (r : SReg) (x : Word) : (w.setS r x).stall = w.stall := by unfold Wave.setS; split <;> rfl
@[simp] theorem Wave.setS_stallAt (w : Wave) (r : SReg) (x : Word) : (w.setS r x).stallAt = w.stallAt := by unfold Wave.setS; split <;> rfl
@[simp] theorem Wave.setS_ibuf (w : Wave) (r : SReg) (x : Word) : (w.setS r x).ibuf = w.ibuf := by unfold Wave.setS; split <;> rfl
@[simp] theorem Wave.setS_retired (w : Wave) (r : SReg) (x : Word) : (w.setS r x).retired = w.retired := by unfold Wave.setS; split <;> rfl
@[simp] theorem Wave.setS_pinLost (w : Wave) (r : SReg) (x : Word) : (w.setS r x).pinLost = w.pinLost := by unfold Wave.setS; split <;> rfl
@[simp] theorem Wave.setS_endAt (w : Wave) (r : SReg) (x : Word) : (w.setS r x).endAt = w.endAt := by unfold Wave.setS; split <;> rfl

/-! ### What the accessors read -/

/-- The element of a list with one element changed. -/
theorem getD_modify {α : Type} [Inhabited α] (l : List α) (i j : Nat) (f : α → α) :
    (l.modify i f).getD j default = if i = j ∧ i < l.length then f (l.getD j default) else l.getD j default := by
  simp only [List.getD_eq_getElem?_getD, List.getElem?_modify]
  by_cases h : i = j
  · subst h
    by_cases hl : i < l.length
    · simp [hl]
    · simp [hl]
  · simp [h]

theorem State.wave_modWave (s : State) (i j : Nat) (f : Wave → Wave) :
    (s.modWave i f).wave j = if i = j ∧ i < s.waves.length then f (s.wave j) else s.wave j := getD_modify ..
@[simp] theorem State.wave_modBlock' (s : State) (i : Nat) (f : Block → Block) (j : Nat) : (s.modBlock i f).wave j = s.wave j := rfl
@[simp] theorem State.wave_modLaunch' (s : State) (i : Nat) (f : Launch → Launch) (j : Nat) : (s.modLaunch i f).wave j = s.wave j := rfl
@[simp] theorem State.wave_modCore' (s : State) (i : Nat) (f : Core → Core) (j : Nat) : (s.modCore i f).wave j = s.wave j := rfl
@[simp] theorem State.wave_modTower' (s : State) (i : Nat) (f : Tower → Tower) (j : Nat) : (s.modTower i f).wave j = s.wave j := rfl
@[simp] theorem State.wave_modFunc' (s : State) (i : Nat) (f : Func → Func) (j : Nat) : (s.modFunc i f).wave j = s.wave j := rfl
@[simp] theorem State.wave_poke' (s : State) (bs : List (Nat × Byte)) (j : Nat) : (s.poke bs).wave j = s.wave j := rfl
@[simp] theorem State.wave_interrupt' (s : State) (f v : Nat) (j : Nat) : (s.interrupt f v).wave j = s.wave j := rfl
theorem State.block_modBlock (s : State) (i j : Nat) (f : Block → Block) :
    (s.modBlock i f).block j = if i = j ∧ i < s.blocks.length then f (s.block j) else s.block j := getD_modify ..
@[simp] theorem State.block_modWave' (s : State) (i : Nat) (f : Wave → Wave) (j : Nat) : (s.modWave i f).block j = s.block j := rfl
@[simp] theorem State.block_modLaunch' (s : State) (i : Nat) (f : Launch → Launch) (j : Nat) : (s.modLaunch i f).block j = s.block j := rfl
@[simp] theorem State.block_modCore' (s : State) (i : Nat) (f : Core → Core) (j : Nat) : (s.modCore i f).block j = s.block j := rfl
@[simp] theorem State.block_modTower' (s : State) (i : Nat) (f : Tower → Tower) (j : Nat) : (s.modTower i f).block j = s.block j := rfl
@[simp] theorem State.block_modFunc' (s : State) (i : Nat) (f : Func → Func) (j : Nat) : (s.modFunc i f).block j = s.block j := rfl
@[simp] theorem State.block_setCur' (s : State) (w : Wave) (j : Nat) : (s.setCur w).block j = s.block j := rfl
@[simp] theorem State.block_poke' (s : State) (bs : List (Nat × Byte)) (j : Nat) : (s.poke bs).block j = s.block j := rfl
@[simp] theorem State.block_interrupt' (s : State) (f v : Nat) (j : Nat) : (s.interrupt f v).block j = s.block j := rfl
theorem State.launch_modLaunch (s : State) (i j : Nat) (f : Launch → Launch) :
    (s.modLaunch i f).launch j = if i = j ∧ i < s.launches.length then f (s.launch j) else s.launch j := getD_modify ..
@[simp] theorem State.launch_modWave' (s : State) (i : Nat) (f : Wave → Wave) (j : Nat) : (s.modWave i f).launch j = s.launch j := rfl
@[simp] theorem State.launch_modBlock' (s : State) (i : Nat) (f : Block → Block) (j : Nat) : (s.modBlock i f).launch j = s.launch j := rfl
@[simp] theorem State.launch_modCore' (s : State) (i : Nat) (f : Core → Core) (j : Nat) : (s.modCore i f).launch j = s.launch j := rfl
@[simp] theorem State.launch_modTower' (s : State) (i : Nat) (f : Tower → Tower) (j : Nat) : (s.modTower i f).launch j = s.launch j := rfl
@[simp] theorem State.launch_modFunc' (s : State) (i : Nat) (f : Func → Func) (j : Nat) : (s.modFunc i f).launch j = s.launch j := rfl
@[simp] theorem State.launch_setCur' (s : State) (w : Wave) (j : Nat) : (s.setCur w).launch j = s.launch j := rfl
@[simp] theorem State.launch_poke' (s : State) (bs : List (Nat × Byte)) (j : Nat) : (s.poke bs).launch j = s.launch j := rfl
@[simp] theorem State.launch_interrupt' (s : State) (f v : Nat) (j : Nat) : (s.interrupt f v).launch j = s.launch j := rfl
theorem State.core_modCore (s : State) (i j : Nat) (f : Core → Core) :
    (s.modCore i f).core j = if i = j ∧ i < s.cores.length then f (s.core j) else s.core j := getD_modify ..
@[simp] theorem State.core_modWave' (s : State) (i : Nat) (f : Wave → Wave) (j : Nat) : (s.modWave i f).core j = s.core j := rfl
@[simp] theorem State.core_modBlock' (s : State) (i : Nat) (f : Block → Block) (j : Nat) : (s.modBlock i f).core j = s.core j := rfl
@[simp] theorem State.core_modLaunch' (s : State) (i : Nat) (f : Launch → Launch) (j : Nat) : (s.modLaunch i f).core j = s.core j := rfl
@[simp] theorem State.core_modTower' (s : State) (i : Nat) (f : Tower → Tower) (j : Nat) : (s.modTower i f).core j = s.core j := rfl
@[simp] theorem State.core_modFunc' (s : State) (i : Nat) (f : Func → Func) (j : Nat) : (s.modFunc i f).core j = s.core j := rfl
@[simp] theorem State.core_setCur' (s : State) (w : Wave) (j : Nat) : (s.setCur w).core j = s.core j := rfl
@[simp] theorem State.core_poke' (s : State) (bs : List (Nat × Byte)) (j : Nat) : (s.poke bs).core j = s.core j := rfl
@[simp] theorem State.core_interrupt' (s : State) (f v : Nat) (j : Nat) : (s.interrupt f v).core j = s.core j := rfl
theorem State.tower_modTower (s : State) (i j : Nat) (f : Tower → Tower) :
    (s.modTower i f).tower j = if i = j ∧ i < s.towers.length then f (s.tower j) else s.tower j := getD_modify ..
@[simp] theorem State.tower_modWave' (s : State) (i : Nat) (f : Wave → Wave) (j : Nat) : (s.modWave i f).tower j = s.tower j := rfl
@[simp] theorem State.tower_modBlock' (s : State) (i : Nat) (f : Block → Block) (j : Nat) : (s.modBlock i f).tower j = s.tower j := rfl
@[simp] theorem State.tower_modLaunch' (s : State) (i : Nat) (f : Launch → Launch) (j : Nat) : (s.modLaunch i f).tower j = s.tower j := rfl
@[simp] theorem State.tower_modCore' (s : State) (i : Nat) (f : Core → Core) (j : Nat) : (s.modCore i f).tower j = s.tower j := rfl
@[simp] theorem State.tower_modFunc' (s : State) (i : Nat) (f : Func → Func) (j : Nat) : (s.modFunc i f).tower j = s.tower j := rfl
@[simp] theorem State.tower_setCur' (s : State) (w : Wave) (j : Nat) : (s.setCur w).tower j = s.tower j := rfl
@[simp] theorem State.tower_poke' (s : State) (bs : List (Nat × Byte)) (j : Nat) : (s.poke bs).tower j = s.tower j := rfl
@[simp] theorem State.tower_interrupt' (s : State) (f v : Nat) (j : Nat) : (s.interrupt f v).tower j = s.tower j := rfl
theorem State.func_modFunc (s : State) (i j : Nat) (f : Func → Func) :
    (s.modFunc i f).func j = if i = j ∧ i < s.funcs.length then f (s.func j) else s.func j := getD_modify ..
@[simp] theorem State.func_modWave' (s : State) (i : Nat) (f : Wave → Wave) (j : Nat) : (s.modWave i f).func j = s.func j := rfl
@[simp] theorem State.func_modBlock' (s : State) (i : Nat) (f : Block → Block) (j : Nat) : (s.modBlock i f).func j = s.func j := rfl
@[simp] theorem State.func_modLaunch' (s : State) (i : Nat) (f : Launch → Launch) (j : Nat) : (s.modLaunch i f).func j = s.func j := rfl
@[simp] theorem State.func_modCore' (s : State) (i : Nat) (f : Core → Core) (j : Nat) : (s.modCore i f).func j = s.func j := rfl
@[simp] theorem State.func_modTower' (s : State) (i : Nat) (f : Tower → Tower) (j : Nat) : (s.modTower i f).func j = s.func j := rfl
@[simp] theorem State.func_setCur' (s : State) (w : Wave) (j : Nat) : (s.setCur w).func j = s.func j := rfl
@[simp] theorem State.func_poke' (s : State) (bs : List (Nat × Byte)) (j : Nat) : (s.poke bs).func j = s.func j := rfl
@[simp] theorem State.func_interrupt' (s : State) (f v : Nat) (j : Nat) : (s.interrupt f v).func j = s.func j := rfl

@[simp] theorem State.cur_modWave_self (s : State) (f : Wave → Wave) : (s.modWave s.issuing f).cur = s.cur.map f := by
  simp [State.cur, State.modWave]

/-- The issuing wave is the wave of its number. -/
theorem State.wave_of_cur {s : State} {w : Wave} (h : s.cur = some w) : s.wave s.issuing = w := by
  unfold State.cur at h; unfold State.wave; rw [List.getD_eq_getElem?_getD, h]; rfl

theorem State.issuing_lt {s : State} {w : Wave} (h : s.cur = some w) : s.issuing < s.waves.length := by
  unfold State.cur at h
  exact (List.getElem?_eq_some_iff.mp h).1

theorem State.wave_setCur {s : State} {w : Wave} (h : s.cur = some w) (v : Wave) : (s.setCur v).wave s.issuing = v := by
  have hl := State.issuing_lt h
  simp [State.wave, State.setCur, List.getD_eq_getElem?_getD, hl]

theorem State.wave_setCur_ne (s : State) (v : Wave) {j : Nat} (h : s.issuing ≠ j) : (s.setCur v).wave j = s.wave j := by
  simp [State.wave, State.setCur, List.getD_eq_getElem?_getD, h]

/-- A meaning that needs the issuing wave runs with the wave on the issue port. -/
theorem State.onWave_of_cur {s : State} {w : Wave} (h : s.cur = some w) (f : Wave → Out) : s.onWave f = f w := by
  unfold State.onWave; rw [h]

theorem State.updWave_of_cur {s : State} {w : Wave} (h : s.cur = some w) (f : Wave → Wave) : s.updWave f = .next (s.setCur (f w)) := by
  unfold State.updWave; rw [State.onWave_of_cur h]

end Sys2Proof.Machine
end

