-- ==== Sys2Proof/Laws/Ops.lean ====
section
/-! SUPPORT. What each shared operation over a wave and over the state can do, said once: what it keeps of a wave's registers, the sizes that it
keeps, what the registers and the scratchpad read afterwards, the state after a trap, and what a walk of the page tables depends on. -/

namespace Sys2Proof.Machine

/-! ### Registers and the scratchpad -/

theorem mergeLanes_length (m : Mask) (f : Nat → Word) (l : Nat) (xs : List Word) : (mergeLanes m f l xs).length = xs.length := by
  induction xs generalizing l with
  | nil => rfl
  | cons x r ih => simp [mergeLanes, ih]

theorem mergeLanes_getD (m : Mask) (f : Nat → Word) (l : Nat) (xs : List Word) (k : Nat) :
    (mergeLanes m f l xs).getD k 0 = if k < xs.length ∧ m.getLsbD (l + k) = true then f (l + k) else xs.getD k 0 := by
  induction xs generalizing l k with
  | nil => simp [mergeLanes]
  | cons x r ih =>
    cases k with
    | zero => simp [mergeLanes]
    | succ k =>
      have h := ih (l + 1) k
      rw [show l + 1 + k = l + (k + 1) by omega] at h
      simpa [mergeLanes] using h

/-- A write to some lanes of a vector register: those lanes hold the new values, and every other lane and register is as before (R31, R353). -/
theorem Wave.vn_setVn (w : Wave) (r : Nat) (m : Mask) (f : Nat → Word) (q l : Nat) : (w.setVn r m f).vn q l =
    if q = r ∧ l < (w.vregs.getD q []).length ∧ m.getLsbD l = true then f l else w.vn q l := by
  have h : (w.vregs.modify r (mergeLanes m f 0)).getD q [] = if r = q then mergeLanes m f 0 (w.vregs.getD q []) else w.vregs.getD q [] := by
    simp only [List.getD_eq_getElem?_getD, List.getElem?_modify]
    by_cases hq : r = q
    · cases w.vregs[q]? <;> simp [hq, mergeLanes]
    · simp [hq]
  unfold Wave.vn Wave.setVn
  simp only [h]
  by_cases hq : q = r
  · subst hq
    rw [if_pos rfl, mergeLanes_getD]
    simp only [Nat.zero_add, true_and]
  · have hr : ¬ r = q := fun e => hq e.symm
    simp [hq, hr]

/-- A scratchpad after some bytes are written: of one address the last one holds, and elsewhere what was there (R90). -/
theorem Scratch.get_put_cons (c : Scratch) (a : Nat) (b : Byte) (x : Nat) :
    (c.put [(a, b)]).get x = if x = a then b else c.get x := by
  unfold Scratch.get Scratch.put
  simp only [List.foldl, Cells.get_put]
  by_cases h : x = a <;> simp [h]

theorem Scratch.put_append (c : Scratch) (xs ys : List (Nat × Byte)) : c.put (xs ++ ys) = (c.put xs).put ys := by
  simp [Scratch.put, List.foldl_append]

@[simp] theorem Scratch.put_size (c : Scratch) (bs : List (Nat × Byte)) : (c.put bs).size = c.size := rfl
@[simp] theorem Scratch.put_fills (c : Scratch) (bs : List (Nat × Byte)) : (c.put bs).fills = c.fills := rfl

/-! ### The end of a word: what it keeps (R39, R41, R43) -/

@[simp] theorem Wave.setExec_regs (w : Wave) (x : Mask) : (w.setExec x).regs = w.regs := by
  simp [Wave.regs, Wave.setExec, List.set_set]

@[simp] theorem Wave.modFrag_regs (w : Wave) (e : Nat) (f : Frag → Frag) : (w.modFrag e f).regs = w.regs := rfl

@[simp] theorem Wave.stow_regs (w : Wave) : w.stow.regs = w.regs := rfl

@[simp] theorem Wave.become_regs (w : Wave) (e : Nat) : (w.become e).regs = w.regs := by
  have h := Wave.setExec_regs w (w.fragAt e).xmask
  simp only [Wave.regs, Wave.setExec, Wave.become] at h ⊢
  simp_all

/-- A switch keeps every register of the wave (R39, R43). -/
@[simp] theorem Wave.switch_regs (w : Wave) : w.switch.regs = w.regs := by
  unfold Wave.switch
  split
  · rfl
  · next e _ =>
    split
    · rfl
    · have h := Wave.become_regs w.stow e
      rw [Wave.stow_regs] at h
      simpa [Wave.regs] using h

theorem Wave.foldl_modFrag_regs (l : List Nat) (f : Frag → Frag) (w : Wave) :
    (l.foldl (fun w e => w.modFrag e f) w).regs = w.regs := by
  induction l generalizing w with
  | nil => rfl
  | cons e r ih => exact (ih _).trans (Wave.modFrag_regs w e f)

theorem Wave.ite_regs {c : Prop} [Decidable c] {u v w : Wave} (hu : u.regs = w.regs) (hv : v.regs = w.regs) :
    (if c then u else v).regs = w.regs := by split <;> assumption

/-- A fusion keeps every register of the wave (R41). -/
@[simp] theorem Wave.fuse_regs (n p : Nat) (w : Wave) : (Wave.fuse n p w).regs = w.regs := by
  induction n generalizing p w with
  | zero => rfl
  | succ n ih =>
    unfold Wave.fuse
    dsimp only
    refine Wave.ite_regs (Wave.ite_regs ?_ ?_) rfl
    · rw [ih, Wave.modFrag_regs, Wave.foldl_modFrag_regs]
    · generalize hv : List.foldl (fun w e => w.modFrag e fun _ => Frag.none) w
        ((w.children p).filter fun e => (w.fragAt e).state == .parked) = v
      have hr : v.regs = w.regs := by rw [← hv]; exact Wave.foldl_modFrag_regs ..
      rw [← hr]
      simp [Wave.regs, Wave.setExec, Wave.modFrag, List.set_set]

/-- A fusion and a switch that waited keep every register of the wave (R41, R43). -/
@[simp] theorem Wave.settle_regs (w : Wave) : w.settle.regs = w.regs := by
  unfold Wave.settle
  split
  · dsimp only
    split <;> split
    all_goals first
      | rfl
      | exact Wave.switch_regs _
      | (rw [Wave.switch_regs, Wave.fuse_regs]; rfl)
      | (rw [Wave.fuse_regs]; rfl)
  · rfl

@[simp] theorem Wave.mark_regs (w : Wave) (k : WordKind) (p : Bool) : (w.mark k p).regs = w.regs := rfl
@[simp] theorem Wave.retired'_regs (w : Wave) (k : WordKind) (p : Bool) : (w.retired' k p).regs = w.regs := by
  simp [Wave.retired']
/-- The end of a word keeps every register of the wave. -/
@[simp] theorem Wave.step_regs (w : Wave) (p : Bool) : (w.step p).regs = w.regs := by
  rw [Wave.step, Wave.retired'_regs]; rfl
@[simp] theorem Wave.stepAs_regs (w : Wave) (k : WordKind) (p : Bool) : (w.stepAs k p).regs = w.regs := by
  rw [Wave.stepAs, Wave.retired'_regs]; rfl
@[simp] theorem Wave.jump_regs (w : Wave) (k : WordKind) (t : VAddr) : (w.jump k t).regs = w.regs := by
  rw [Wave.jump, Wave.retired'_regs]; rfl
@[simp] theorem Wave.block'_regs (w : Wave) (c : WaitFor) : (w.block' c).regs = w.regs := by
  rw [Wave.block', Wave.settle_regs]; rfl
@[simp] theorem Wave.wake_regs (w : Wave) (e : Nat) : (w.wake e).regs = w.regs := by
  rw [Wave.wake, Wave.settle_regs]; rfl

/-- Waves with equal registers agree on a mask register but EXEC. -/
theorem Wave.m_of_regs {v w : Wave} (h : v.regs = w.regs) {r : MReg} (hr : r ≠ 0) : v.m r = w.m r := by
  have hm : v.mregs.set 0 0 = w.mregs.set 0 0 := (congrArg Wave.mregs h :)
  have hw : v.width = w.width := (congrArg Wave.width h :)
  have hn : r.toNat ≠ 0 := fun e => hr (by apply BitVec.eq_of_toNat_eq; simpa using e)
  have key : v.mregs.getD r.toNat 0 = w.mregs.getD r.toNat 0 := by
    have := congrArg (fun l : List Mask => l.getD r.toNat 0) hm
    simpa [List.getD_eq_getElem?_getD, List.getElem?_set, hn, Ne.symm hn] using this
  unfold Wave.m Wave.lanes
  rw [key, hw]


/-! ### What memory reads after an update of anything else -/

@[simp] theorem State.peek_modWave (s : State) (i : Nat) (f : Wave → Wave) (a : Nat) : (s.modWave i f).peek a = s.peek a := rfl
@[simp] theorem State.peek_modBlock (s : State) (i : Nat) (f : Block → Block) (a : Nat) : (s.modBlock i f).peek a = s.peek a := rfl
@[simp] theorem State.peek_modLaunch (s : State) (i : Nat) (f : Launch → Launch) (a : Nat) : (s.modLaunch i f).peek a = s.peek a := rfl
@[simp] theorem State.peek_modCore (s : State) (i : Nat) (f : Core → Core) (a : Nat) : (s.modCore i f).peek a = s.peek a := rfl
@[simp] theorem State.peek_modTower (s : State) (i : Nat) (f : Tower → Tower) (a : Nat) : (s.modTower i f).peek a = s.peek a := rfl
@[simp] theorem State.peek_modFunc (s : State) (i : Nat) (f : Func → Func) (a : Nat) : (s.modFunc i f).peek a = s.peek a := rfl
@[simp] theorem State.peek_setCur (s : State) (w : Wave) (a : Nat) : (s.setCur w).peek a = s.peek a := rfl
@[simp] theorem State.peek_interrupt (s : State) (f v : Nat) (a : Nat) : (s.interrupt f v).peek a = s.peek a := rfl

/-- Memory reads by what it holds: states of one memory read the same at every address. -/
theorem State.peek_of_mem {s t : State} (h : t.mem = s.mem) (a : Nat) : t.peek a = s.peek a := by unfold State.peek; rw [h]

/-! ### The same, field by field -/

@[simp] theorem Wave.settle_block (w : Wave) : w.settle.block = w.block := (congrArg Wave.block (Wave.settle_regs w) :)
@[simp] theorem Wave.settle_index (w : Wave) : w.settle.index = w.index := (congrArg Wave.index (Wave.settle_regs w) :)
@[simp] theorem Wave.settle_part (w : Wave) : w.settle.part = w.part := (congrArg Wave.part (Wave.settle_regs w) :)
@[simp] theorem Wave.settle_slot (w : Wave) : w.settle.slot = w.slot := (congrArg Wave.slot (Wave.settle_regs w) :)
@[simp] theorem Wave.settle_width (w : Wave) : w.settle.width = w.width := (congrArg Wave.width (Wave.settle_regs w) :)
@[simp] theorem Wave.settle_ended (w : Wave) : w.settle.ended = w.ended := (congrArg Wave.ended (Wave.settle_regs w) :)
@[simp] theorem Wave.settle_sregs (w : Wave) : w.settle.sregs = w.sregs := (congrArg Wave.sregs (Wave.settle_regs w) :)
@[simp] theorem Wave.settle_vregs (w : Wave) : w.settle.vregs = w.vregs := (congrArg Wave.vregs (Wave.settle_regs w) :)
@[simp] theorem Wave.settle_sf (w : Wave) : w.settle.sf = w.sf := (congrArg Wave.sf (Wave.settle_regs w) :)
@[simp] theorem Wave.settle_outC (w : Wave) : w.settle.outC = w.outC := (congrArg Wave.outC (Wave.settle_regs w) :)
@[simp] theorem Wave.settle_outM (w : Wave) : w.settle.outM = w.outM := (congrArg Wave.outM (Wave.settle_regs w) :)
@[simp] theorem Wave.settle_outK (w : Wave) : w.settle.outK = w.outK := (congrArg Wave.outK (Wave.settle_regs w) :)
@[simp] theorem Wave.settle_outD (w : Wave) : w.settle.outD = w.outD := (congrArg Wave.outD (Wave.settle_regs w) :)
@[simp] theorem Wave.settle_recent (w : Wave) : w.settle.recent = w.recent := (congrArg Wave.recent (Wave.settle_regs w) :)
@[simp] theorem Wave.settle_rndMode (w : Wave) : w.settle.rndMode = w.rndMode := (congrArg Wave.rndMode (Wave.settle_regs w) :)
@[simp] theorem Wave.settle_quantum (w : Wave) : w.settle.quantum = w.quantum := (congrArg Wave.quantum (Wave.settle_regs w) :)
@[simp] theorem Wave.settle_hzStaged (w : Wave) : w.settle.hzStaged = w.hzStaged := (congrArg Wave.hzStaged (Wave.settle_regs w) :)
@[simp] theorem Wave.settle_gate (w : Wave) : w.settle.gate = w.gate := (congrArg Wave.gate (Wave.settle_regs w) :)
@[simp] theorem Wave.settle_wakeTo (w : Wave) : w.settle.wakeTo = w.wakeTo := (congrArg Wave.wakeTo (Wave.settle_regs w) :)
@[simp] theorem Wave.settle_cause (w : Wave) : w.settle.cause = w.cause := (congrArg Wave.cause (Wave.settle_regs w) :)
@[simp] theorem Wave.settle_trapPc (w : Wave) : w.settle.trapPc = w.trapPc := (congrArg Wave.trapPc (Wave.settle_regs w) :)
@[simp] theorem Wave.settle_trapMask (w : Wave) : w.settle.trapMask = w.trapMask := (congrArg Wave.trapMask (Wave.settle_regs w) :)
@[simp] theorem Wave.settle_trapAddr (w : Wave) : w.settle.trapAddr = w.trapAddr := (congrArg Wave.trapAddr (Wave.settle_regs w) :)
@[simp] theorem Wave.settle_srSeed (w : Wave) : w.settle.srSeed = w.srSeed := (congrArg Wave.srSeed (Wave.settle_regs w) :)
@[simp] theorem Wave.settle_clockLatch (w : Wave) : w.settle.clockLatch = w.clockLatch := (congrArg Wave.clockLatch (Wave.settle_regs w) :)
@[simp] theorem Wave.settle_savExec (w : Wave) : w.settle.savExec = w.savExec := (congrArg Wave.savExec (Wave.settle_regs w) :)
@[simp] theorem Wave.settle_inTrap (w : Wave) : w.settle.inTrap = w.inTrap := (congrArg Wave.inTrap (Wave.settle_regs w) :)
@[simp] theorem Wave.settle_skipPc (w : Wave) : w.settle.skipPc = w.skipPc := (congrArg Wave.skipPc (Wave.settle_regs w) :)
@[simp] theorem Wave.settle_srState (w : Wave) : w.settle.srState = w.srState := (congrArg Wave.srState (Wave.settle_regs w) :)
@[simp] theorem Wave.settle_rank (w : Wave) : w.settle.rank = w.rank := (congrArg Wave.rank (Wave.settle_regs w) :)
@[simp] theorem Wave.settle_pending (w : Wave) : w.settle.pending = w.pending := (congrArg Wave.pending (Wave.settle_regs w) :)
@[simp] theorem Wave.settle_trapPending (w : Wave) : w.settle.trapPending = w.trapPending := (congrArg Wave.trapPending (Wave.settle_regs w) :)
@[simp] theorem Wave.settle_gang (w : Wave) : w.settle.gang = w.gang := (congrArg Wave.gang (Wave.settle_regs w) :)
@[simp] theorem Wave.settle_keepOut (w : Wave) : w.settle.keepOut = w.keepOut := (congrArg Wave.keepOut (Wave.settle_regs w) :)
@[simp] theorem Wave.settle_holds (w : Wave) : w.settle.holds = w.holds := (congrArg Wave.holds (Wave.settle_regs w) :)
@[simp] theorem Wave.settle_readPc (w : Wave) : w.settle.readPc = w.readPc := (congrArg Wave.readPc (Wave.settle_regs w) :)
@[simp] theorem Wave.settle_units (w : Wave) : w.settle.units = w.units := (congrArg Wave.units (Wave.settle_regs w) :)
@[simp] theorem Wave.settle_waitCount (w : Wave) : w.settle.waitCount = w.waitCount := (congrArg Wave.waitCount (Wave.settle_regs w) :)
@[simp] theorem Wave.settle_lastIssue (w : Wave) : w.settle.lastIssue = w.lastIssue := (congrArg Wave.lastIssue (Wave.settle_regs w) :)
@[simp] theorem Wave.settle_skipCycle (w : Wave) : w.settle.skipCycle = w.skipCycle := (congrArg Wave.skipCycle (Wave.settle_regs w) :)
@[simp] theorem Wave.settle_taken (w : Wave) : w.settle.taken = w.taken := (congrArg Wave.taken (Wave.settle_regs w) :)
@[simp] theorem Wave.settle_sliceDone (w : Wave) : w.settle.sliceDone = w.sliceDone := (congrArg Wave.sliceDone (Wave.settle_regs w) :)
@[simp] theorem Wave.settle_stallAt (w : Wave) : w.settle.stallAt = w.stallAt := (congrArg Wave.stallAt (Wave.settle_regs w) :)
@[simp] theorem Wave.settle_pinLost (w : Wave) : w.settle.pinLost = w.pinLost := (congrArg Wave.pinLost (Wave.settle_regs w) :)
@[simp] theorem Wave.settle_endAt (w : Wave) : w.settle.endAt = w.endAt := (congrArg Wave.endAt (Wave.settle_regs w) :)

@[simp] theorem Wave.step_block (w : Wave) (p : Bool) : (w.step p).block = w.block := (congrArg Wave.block (Wave.step_regs w p) :)
@[simp] theorem Wave.step_index (w : Wave) (p : Bool) : (w.step p).index = w.index := (congrArg Wave.index (Wave.step_regs w p) :)
@[simp] theorem Wave.step_part (w : Wave) (p : Bool) : (w.step p).part = w.part := (congrArg Wave.part (Wave.step_regs w p) :)
@[simp] theorem Wave.step_slot (w : Wave) (p : Bool) : (w.step p).slot = w.slot := (congrArg Wave.slot (Wave.step_regs w p) :)
@[simp] theorem Wave.step_width (w : Wave) (p : Bool) : (w.step p).width = w.width := (congrArg Wave.width (Wave.step_regs w p) :)
@[simp] theorem Wave.step_ended (w : Wave) (p : Bool) : (w.step p).ended = w.ended := (congrArg Wave.ended (Wave.step_regs w p) :)
@[simp] theorem Wave.step_sregs (w : Wave) (p : Bool) : (w.step p).sregs = w.sregs := (congrArg Wave.sregs (Wave.step_regs w p) :)
@[simp] theorem Wave.step_vregs (w : Wave) (p : Bool) : (w.step p).vregs = w.vregs := (congrArg Wave.vregs (Wave.step_regs w p) :)
@[simp] theorem Wave.step_sf (w : Wave) (p : Bool) : (w.step p).sf = w.sf := (congrArg Wave.sf (Wave.step_regs w p) :)
@[simp] theorem Wave.step_outC (w : Wave) (p : Bool) : (w.step p).outC = w.outC := (congrArg Wave.outC (Wave.step_regs w p) :)
@[simp] theorem Wave.step_outM (w : Wave) (p : Bool) : (w.step p).outM = w.outM := (congrArg Wave.outM (Wave.step_regs w p) :)
@[simp] theorem Wave.step_outK (w : Wave) (p : Bool) : (w.step p).outK = w.outK := (congrArg Wave.outK (Wave.step_regs w p) :)
@[simp] theorem Wave.step_outD (w : Wave) (p : Bool) : (w.step p).outD = w.outD := (congrArg Wave.outD (Wave.step_regs w p) :)
@[simp] theorem Wave.step_recent (w : Wave) (p : Bool) : (w.step p).recent = w.recent := (congrArg Wave.recent (Wave.step_regs w p) :)
@[simp] theorem Wave.step_rndMode (w : Wave) (p : Bool) : (w.step p).rndMode = w.rndMode := (congrArg Wave.rndMode (Wave.step_regs w p) :)
@[simp] theorem Wave.step_quantum (w : Wave) (p : Bool) : (w.step p).quantum = w.quantum := (congrArg Wave.quantum (Wave.step_regs w p) :)
@[simp] theorem Wave.step_hzStaged (w : Wave) (p : Bool) : (w.step p).hzStaged = w.hzStaged := (congrArg Wave.hzStaged (Wave.step_regs w p) :)
@[simp] theorem Wave.step_gate (w : Wave) (p : Bool) : (w.step p).gate = w.gate := (congrArg Wave.gate (Wave.step_regs w p) :)
@[simp] theorem Wave.step_wakeTo (w : Wave) (p : Bool) : (w.step p).wakeTo = w.wakeTo := (congrArg Wave.wakeTo (Wave.step_regs w p) :)
@[simp] theorem Wave.step_cause (w : Wave) (p : Bool) : (w.step p).cause = w.cause := (congrArg Wave.cause (Wave.step_regs w p) :)
@[simp] theorem Wave.step_trapPc (w : Wave) (p : Bool) : (w.step p).trapPc = w.trapPc := (congrArg Wave.trapPc (Wave.step_regs w p) :)
@[simp] theorem Wave.step_trapMask (w : Wave) (p : Bool) : (w.step p).trapMask = w.trapMask := (congrArg Wave.trapMask (Wave.step_regs w p) :)
@[simp] theorem Wave.step_trapAddr (w : Wave) (p : Bool) : (w.step p).trapAddr = w.trapAddr := (congrArg Wave.trapAddr (Wave.step_regs w p) :)
@[simp] theorem Wave.step_srSeed (w : Wave) (p : Bool) : (w.step p).srSeed = w.srSeed := (congrArg Wave.srSeed (Wave.step_regs w p) :)
@[simp] theorem Wave.step_clockLatch (w : Wave) (p : Bool) : (w.step p).clockLatch = w.clockLatch := (congrArg Wave.clockLatch (Wave.step_regs w p) :)
@[simp] theorem Wave.step_savExec (w : Wave) (p : Bool) : (w.step p).savExec = w.savExec := (congrArg Wave.savExec (Wave.step_regs w p) :)
@[simp] theorem Wave.step_inTrap (w : Wave) (p : Bool) : (w.step p).inTrap = w.inTrap := (congrArg Wave.inTrap (Wave.step_regs w p) :)
@[simp] theorem Wave.step_skipPc (w : Wave) (p : Bool) : (w.step p).skipPc = w.skipPc := (congrArg Wave.skipPc (Wave.step_regs w p) :)
@[simp] theorem Wave.step_srState (w : Wave) (p : Bool) : (w.step p).srState = w.srState := (congrArg Wave.srState (Wave.step_regs w p) :)
@[simp] theorem Wave.step_rank (w : Wave) (p : Bool) : (w.step p).rank = w.rank := (congrArg Wave.rank (Wave.step_regs w p) :)
@[simp] theorem Wave.step_pending (w : Wave) (p : Bool) : (w.step p).pending = w.pending := (congrArg Wave.pending (Wave.step_regs w p) :)
@[simp] theorem Wave.step_trapPending (w : Wave) (p : Bool) : (w.step p).trapPending = w.trapPending := (congrArg Wave.trapPending (Wave.step_regs w p) :)
@[simp] theorem Wave.step_gang (w : Wave) (p : Bool) : (w.step p).gang = w.gang := (congrArg Wave.gang (Wave.step_regs w p) :)
@[simp] theorem Wave.step_keepOut (w : Wave) (p : Bool) : (w.step p).keepOut = w.keepOut := (congrArg Wave.keepOut (Wave.step_regs w p) :)
@[simp] theorem Wave.step_holds (w : Wave) (p : Bool) : (w.step p).holds = w.holds := (congrArg Wave.holds (Wave.step_regs w p) :)
@[simp] theorem Wave.step_readPc (w : Wave) (p : Bool) : (w.step p).readPc = w.readPc := (congrArg Wave.readPc (Wave.step_regs w p) :)
@[simp] theorem Wave.step_units (w : Wave) (p : Bool) : (w.step p).units = w.units := (congrArg Wave.units (Wave.step_regs w p) :)
@[simp] theorem Wave.step_waitCount (w : Wave) (p : Bool) : (w.step p).waitCount = w.waitCount := (congrArg Wave.waitCount (Wave.step_regs w p) :)
@[simp] theorem Wave.step_lastIssue (w : Wave) (p : Bool) : (w.step p).lastIssue = w.lastIssue := (congrArg Wave.lastIssue (Wave.step_regs w p) :)
@[simp] theorem Wave.step_skipCycle (w : Wave) (p : Bool) : (w.step p).skipCycle = w.skipCycle := (congrArg Wave.skipCycle (Wave.step_regs w p) :)
@[simp] theorem Wave.step_taken (w : Wave) (p : Bool) : (w.step p).taken = w.taken := (congrArg Wave.taken (Wave.step_regs w p) :)
@[simp] theorem Wave.step_sliceDone (w : Wave) (p : Bool) : (w.step p).sliceDone = w.sliceDone := (congrArg Wave.sliceDone (Wave.step_regs w p) :)
@[simp] theorem Wave.step_stallAt (w : Wave) (p : Bool) : (w.step p).stallAt = w.stallAt := (congrArg Wave.stallAt (Wave.step_regs w p) :)
@[simp] theorem Wave.step_pinLost (w : Wave) (p : Bool) : (w.step p).pinLost = w.pinLost := (congrArg Wave.pinLost (Wave.step_regs w p) :)
@[simp] theorem Wave.step_endAt (w : Wave) (p : Bool) : (w.step p).endAt = w.endAt := (congrArg Wave.endAt (Wave.step_regs w p) :)

@[simp] theorem Wave.stepAs_block (w : Wave) (k : WordKind) (p : Bool) : (w.stepAs k p).block = w.block := (congrArg Wave.block (Wave.stepAs_regs w k p) :)
@[simp] theorem Wave.stepAs_index (w : Wave) (k : WordKind) (p : Bool) : (w.stepAs k p).index = w.index := (congrArg Wave.index (Wave.stepAs_regs w k p) :)
@[simp] theorem Wave.stepAs_part (w : Wave) (k : WordKind) (p : Bool) : (w.stepAs k p).part = w.part := (congrArg Wave.part (Wave.stepAs_regs w k p) :)
@[simp] theorem Wave.stepAs_slot (w : Wave) (k : WordKind) (p : Bool) : (w.stepAs k p).slot = w.slot := (congrArg Wave.slot (Wave.stepAs_regs w k p) :)
@[simp] theorem Wave.stepAs_width (w : Wave) (k : WordKind) (p : Bool) : (w.stepAs k p).width = w.width := (congrArg Wave.width (Wave.stepAs_regs w k p) :)
@[simp] theorem Wave.stepAs_ended (w : Wave) (k : WordKind) (p : Bool) : (w.stepAs k p).ended = w.ended := (congrArg Wave.ended (Wave.stepAs_regs w k p) :)
@[simp] theorem Wave.stepAs_sregs (w : Wave) (k : WordKind) (p : Bool) : (w.stepAs k p).sregs = w.sregs := (congrArg Wave.sregs (Wave.stepAs_regs w k p) :)
@[simp] theorem Wave.stepAs_vregs (w : Wave) (k : WordKind) (p : Bool) : (w.stepAs k p).vregs = w.vregs := (congrArg Wave.vregs (Wave.stepAs_regs w k p) :)
@[simp] theorem Wave.stepAs_sf (w : Wave) (k : WordKind) (p : Bool) : (w.stepAs k p).sf = w.sf := (congrArg Wave.sf (Wave.stepAs_regs w k p) :)
@[simp] theorem Wave.stepAs_outC (w : Wave) (k : WordKind) (p : Bool) : (w.stepAs k p).outC = w.outC := (congrArg Wave.outC (Wave.stepAs_regs w k p) :)
@[simp] theorem Wave.stepAs_outM (w : Wave) (k : WordKind) (p : Bool) : (w.stepAs k p).outM = w.outM := (congrArg Wave.outM (Wave.stepAs_regs w k p) :)
@[simp] theorem Wave.stepAs_outK (w : Wave) (k : WordKind) (p : Bool) : (w.stepAs k p).outK = w.outK := (congrArg Wave.outK (Wave.stepAs_regs w k p) :)
@[simp] theorem Wave.stepAs_outD (w : Wave) (k : WordKind) (p : Bool) : (w.stepAs k p).outD = w.outD := (congrArg Wave.outD (Wave.stepAs_regs w k p) :)
@[simp] theorem Wave.stepAs_recent (w : Wave) (k : WordKind) (p : Bool) : (w.stepAs k p).recent = w.recent := (congrArg Wave.recent (Wave.stepAs_regs w k p) :)
@[simp] theorem Wave.stepAs_rndMode (w : Wave) (k : WordKind) (p : Bool) : (w.stepAs k p).rndMode = w.rndMode := (congrArg Wave.rndMode (Wave.stepAs_regs w k p) :)
@[simp] theorem Wave.stepAs_quantum (w : Wave) (k : WordKind) (p : Bool) : (w.stepAs k p).quantum = w.quantum := (congrArg Wave.quantum (Wave.stepAs_regs w k p) :)
@[simp] theorem Wave.stepAs_hzStaged (w : Wave) (k : WordKind) (p : Bool) : (w.stepAs k p).hzStaged = w.hzStaged := (congrArg Wave.hzStaged (Wave.stepAs_regs w k p) :)
@[simp] theorem Wave.stepAs_gate (w : Wave) (k : WordKind) (p : Bool) : (w.stepAs k p).gate = w.gate := (congrArg Wave.gate (Wave.stepAs_regs w k p) :)
@[simp] theorem Wave.stepAs_wakeTo (w : Wave) (k : WordKind) (p : Bool) : (w.stepAs k p).wakeTo = w.wakeTo := (congrArg Wave.wakeTo (Wave.stepAs_regs w k p) :)
@[simp] theorem Wave.stepAs_cause (w : Wave) (k : WordKind) (p : Bool) : (w.stepAs k p).cause = w.cause := (congrArg Wave.cause (Wave.stepAs_regs w k p) :)
@[simp] theorem Wave.stepAs_trapPc (w : Wave) (k : WordKind) (p : Bool) : (w.stepAs k p).trapPc = w.trapPc := (congrArg Wave.trapPc (Wave.stepAs_regs w k p) :)
@[simp] theorem Wave.stepAs_trapMask (w : Wave) (k : WordKind) (p : Bool) : (w.stepAs k p).trapMask = w.trapMask := (congrArg Wave.trapMask (Wave.stepAs_regs w k p) :)
@[simp] theorem Wave.stepAs_trapAddr (w : Wave) (k : WordKind) (p : Bool) : (w.stepAs k p).trapAddr = w.trapAddr := (congrArg Wave.trapAddr (Wave.stepAs_regs w k p) :)
@[simp] theorem Wave.stepAs_srSeed (w : Wave) (k : WordKind) (p : Bool) : (w.stepAs k p).srSeed = w.srSeed := (congrArg Wave.srSeed (Wave.stepAs_regs w k p) :)
@[simp] theorem Wave.stepAs_clockLatch (w : Wave) (k : WordKind) (p : Bool) : (w.stepAs k p).clockLatch = w.clockLatch := (congrArg Wave.clockLatch (Wave.stepAs_regs w k p) :)
@[simp] theorem Wave.stepAs_savExec (w : Wave) (k : WordKind) (p : Bool) : (w.stepAs k p).savExec = w.savExec := (congrArg Wave.savExec (Wave.stepAs_regs w k p) :)
@[simp] theorem Wave.stepAs_inTrap (w : Wave) (k : WordKind) (p : Bool) : (w.stepAs k p).inTrap = w.inTrap := (congrArg Wave.inTrap (Wave.stepAs_regs w k p) :)
@[simp] theorem Wave.stepAs_skipPc (w : Wave) (k : WordKind) (p : Bool) : (w.stepAs k p).skipPc = w.skipPc := (congrArg Wave.skipPc (Wave.stepAs_regs w k p) :)
@[simp] theorem Wave.stepAs_srState (w : Wave) (k : WordKind) (p : Bool) : (w.stepAs k p).srState = w.srState := (congrArg Wave.srState (Wave.stepAs_regs w k p) :)
@[simp] theorem Wave.stepAs_rank (w : Wave) (k : WordKind) (p : Bool) : (w.stepAs k p).rank = w.rank := (congrArg Wave.rank (Wave.stepAs_regs w k p) :)
@[simp] theorem Wave.stepAs_pending (w : Wave) (k : WordKind) (p : Bool) : (w.stepAs k p).pending = w.pending := (congrArg Wave.pending (Wave.stepAs_regs w k p) :)
@[simp] theorem Wave.stepAs_trapPending (w : Wave) (k : WordKind) (p : Bool) : (w.stepAs k p).trapPending = w.trapPending := (congrArg Wave.trapPending (Wave.stepAs_regs w k p) :)
@[simp] theorem Wave.stepAs_gang (w : Wave) (k : WordKind) (p : Bool) : (w.stepAs k p).gang = w.gang := (congrArg Wave.gang (Wave.stepAs_regs w k p) :)
@[simp] theorem Wave.stepAs_keepOut (w : Wave) (k : WordKind) (p : Bool) : (w.stepAs k p).keepOut = w.keepOut := (congrArg Wave.keepOut (Wave.stepAs_regs w k p) :)
@[simp] theorem Wave.stepAs_holds (w : Wave) (k : WordKind) (p : Bool) : (w.stepAs k p).holds = w.holds := (congrArg Wave.holds (Wave.stepAs_regs w k p) :)
@[simp] theorem Wave.stepAs_readPc (w : Wave) (k : WordKind) (p : Bool) : (w.stepAs k p).readPc = w.readPc := (congrArg Wave.readPc (Wave.stepAs_regs w k p) :)
@[simp] theorem Wave.stepAs_units (w : Wave) (k : WordKind) (p : Bool) : (w.stepAs k p).units = w.units := (congrArg Wave.units (Wave.stepAs_regs w k p) :)
@[simp] theorem Wave.stepAs_waitCount (w : Wave) (k : WordKind) (p : Bool) : (w.stepAs k p).waitCount = w.waitCount := (congrArg Wave.waitCount (Wave.stepAs_regs w k p) :)
@[simp] theorem Wave.stepAs_lastIssue (w : Wave) (k : WordKind) (p : Bool) : (w.stepAs k p).lastIssue = w.lastIssue := (congrArg Wave.lastIssue (Wave.stepAs_regs w k p) :)
@[simp] theorem Wave.stepAs_skipCycle (w : Wave) (k : WordKind) (p : Bool) : (w.stepAs k p).skipCycle = w.skipCycle := (congrArg Wave.skipCycle (Wave.stepAs_regs w k p) :)
@[simp] theorem Wave.stepAs_taken (w : Wave) (k : WordKind) (p : Bool) : (w.stepAs k p).taken = w.taken := (congrArg Wave.taken (Wave.stepAs_regs w k p) :)
@[simp] theorem Wave.stepAs_sliceDone (w : Wave) (k : WordKind) (p : Bool) : (w.stepAs k p).sliceDone = w.sliceDone := (congrArg Wave.sliceDone (Wave.stepAs_regs w k p) :)
@[simp] theorem Wave.stepAs_stallAt (w : Wave) (k : WordKind) (p : Bool) : (w.stepAs k p).stallAt = w.stallAt := (congrArg Wave.stallAt (Wave.stepAs_regs w k p) :)
@[simp] theorem Wave.stepAs_pinLost (w : Wave) (k : WordKind) (p : Bool) : (w.stepAs k p).pinLost = w.pinLost := (congrArg Wave.pinLost (Wave.stepAs_regs w k p) :)
@[simp] theorem Wave.stepAs_endAt (w : Wave) (k : WordKind) (p : Bool) : (w.stepAs k p).endAt = w.endAt := (congrArg Wave.endAt (Wave.stepAs_regs w k p) :)

@[simp] theorem Wave.jump_block (w : Wave) (k : WordKind) (t : VAddr) : (w.jump k t).block = w.block := (congrArg Wave.block (Wave.jump_regs w k t) :)
@[simp] theorem Wave.jump_index (w : Wave) (k : WordKind) (t : VAddr) : (w.jump k t).index = w.index := (congrArg Wave.index (Wave.jump_regs w k t) :)
@[simp] theorem Wave.jump_part (w : Wave) (k : WordKind) (t : VAddr) : (w.jump k t).part = w.part := (congrArg Wave.part (Wave.jump_regs w k t) :)
@[simp] theorem Wave.jump_slot (w : Wave) (k : WordKind) (t : VAddr) : (w.jump k t).slot = w.slot := (congrArg Wave.slot (Wave.jump_regs w k t) :)
@[simp] theorem Wave.jump_width (w : Wave) (k : WordKind) (t : VAddr) : (w.jump k t).width = w.width := (congrArg Wave.width (Wave.jump_regs w k t) :)
@[simp] theorem Wave.jump_ended (w : Wave) (k : WordKind) (t : VAddr) : (w.jump k t).ended = w.ended := (congrArg Wave.ended (Wave.jump_regs w k t) :)
@[simp] theorem Wave.jump_sregs (w : Wave) (k : WordKind) (t : VAddr) : (w.jump k t).sregs = w.sregs := (congrArg Wave.sregs (Wave.jump_regs w k t) :)
@[simp] theorem Wave.jump_vregs (w : Wave) (k : WordKind) (t : VAddr) : (w.jump k t).vregs = w.vregs := (congrArg Wave.vregs (Wave.jump_regs w k t) :)
@[simp] theorem Wave.jump_sf (w : Wave) (k : WordKind) (t : VAddr) : (w.jump k t).sf = w.sf := (congrArg Wave.sf (Wave.jump_regs w k t) :)
@[simp] theorem Wave.jump_outC (w : Wave) (k : WordKind) (t : VAddr) : (w.jump k t).outC = w.outC := (congrArg Wave.outC (Wave.jump_regs w k t) :)
@[simp] theorem Wave.jump_outM (w : Wave) (k : WordKind) (t : VAddr) : (w.jump k t).outM = w.outM := (congrArg Wave.outM (Wave.jump_regs w k t) :)
@[simp] theorem Wave.jump_outK (w : Wave) (k : WordKind) (t : VAddr) : (w.jump k t).outK = w.outK := (congrArg Wave.outK (Wave.jump_regs w k t) :)
@[simp] theorem Wave.jump_outD (w : Wave) (k : WordKind) (t : VAddr) : (w.jump k t).outD = w.outD := (congrArg Wave.outD (Wave.jump_regs w k t) :)
@[simp] theorem Wave.jump_recent (w : Wave) (k : WordKind) (t : VAddr) : (w.jump k t).recent = w.recent := (congrArg Wave.recent (Wave.jump_regs w k t) :)
@[simp] theorem Wave.jump_rndMode (w : Wave) (k : WordKind) (t : VAddr) : (w.jump k t).rndMode = w.rndMode := (congrArg Wave.rndMode (Wave.jump_regs w k t) :)
@[simp] theorem Wave.jump_quantum (w : Wave) (k : WordKind) (t : VAddr) : (w.jump k t).quantum = w.quantum := (congrArg Wave.quantum (Wave.jump_regs w k t) :)
@[simp] theorem Wave.jump_hzStaged (w : Wave) (k : WordKind) (t : VAddr) : (w.jump k t).hzStaged = w.hzStaged := (congrArg Wave.hzStaged (Wave.jump_regs w k t) :)
@[simp] theorem Wave.jump_gate (w : Wave) (k : WordKind) (t : VAddr) : (w.jump k t).gate = w.gate := (congrArg Wave.gate (Wave.jump_regs w k t) :)
@[simp] theorem Wave.jump_wakeTo (w : Wave) (k : WordKind) (t : VAddr) : (w.jump k t).wakeTo = w.wakeTo := (congrArg Wave.wakeTo (Wave.jump_regs w k t) :)
@[simp] theorem Wave.jump_cause (w : Wave) (k : WordKind) (t : VAddr) : (w.jump k t).cause = w.cause := (congrArg Wave.cause (Wave.jump_regs w k t) :)
@[simp] theorem Wave.jump_trapPc (w : Wave) (k : WordKind) (t : VAddr) : (w.jump k t).trapPc = w.trapPc := (congrArg Wave.trapPc (Wave.jump_regs w k t) :)
@[simp] theorem Wave.jump_trapMask (w : Wave) (k : WordKind) (t : VAddr) : (w.jump k t).trapMask = w.trapMask := (congrArg Wave.trapMask (Wave.jump_regs w k t) :)
@[simp] theorem Wave.jump_trapAddr (w : Wave) (k : WordKind) (t : VAddr) : (w.jump k t).trapAddr = w.trapAddr := (congrArg Wave.trapAddr (Wave.jump_regs w k t) :)
@[simp] theorem Wave.jump_srSeed (w : Wave) (k : WordKind) (t : VAddr) : (w.jump k t).srSeed = w.srSeed := (congrArg Wave.srSeed (Wave.jump_regs w k t) :)
@[simp] theorem Wave.jump_clockLatch (w : Wave) (k : WordKind) (t : VAddr) : (w.jump k t).clockLatch = w.clockLatch := (congrArg Wave.clockLatch (Wave.jump_regs w k t) :)
@[simp] theorem Wave.jump_savExec (w : Wave) (k : WordKind) (t : VAddr) : (w.jump k t).savExec = w.savExec := (congrArg Wave.savExec (Wave.jump_regs w k t) :)
@[simp] theorem Wave.jump_inTrap (w : Wave) (k : WordKind) (t : VAddr) : (w.jump k t).inTrap = w.inTrap := (congrArg Wave.inTrap (Wave.jump_regs w k t) :)
@[simp] theorem Wave.jump_skipPc (w : Wave) (k : WordKind) (t : VAddr) : (w.jump k t).skipPc = w.skipPc := (congrArg Wave.skipPc (Wave.jump_regs w k t) :)
@[simp] theorem Wave.jump_srState (w : Wave) (k : WordKind) (t : VAddr) : (w.jump k t).srState = w.srState := (congrArg Wave.srState (Wave.jump_regs w k t) :)
@[simp] theorem Wave.jump_rank (w : Wave) (k : WordKind) (t : VAddr) : (w.jump k t).rank = w.rank := (congrArg Wave.rank (Wave.jump_regs w k t) :)
@[simp] theorem Wave.jump_pending (w : Wave) (k : WordKind) (t : VAddr) : (w.jump k t).pending = w.pending := (congrArg Wave.pending (Wave.jump_regs w k t) :)
@[simp] theorem Wave.jump_trapPending (w : Wave) (k : WordKind) (t : VAddr) : (w.jump k t).trapPending = w.trapPending := (congrArg Wave.trapPending (Wave.jump_regs w k t) :)
@[simp] theorem Wave.jump_gang (w : Wave) (k : WordKind) (t : VAddr) : (w.jump k t).gang = w.gang := (congrArg Wave.gang (Wave.jump_regs w k t) :)
@[simp] theorem Wave.jump_keepOut (w : Wave) (k : WordKind) (t : VAddr) : (w.jump k t).keepOut = w.keepOut := (congrArg Wave.keepOut (Wave.jump_regs w k t) :)
@[simp] theorem Wave.jump_holds (w : Wave) (k : WordKind) (t : VAddr) : (w.jump k t).holds = w.holds := (congrArg Wave.holds (Wave.jump_regs w k t) :)
@[simp] theorem Wave.jump_readPc (w : Wave) (k : WordKind) (t : VAddr) : (w.jump k t).readPc = w.readPc := (congrArg Wave.readPc (Wave.jump_regs w k t) :)
@[simp] theorem Wave.jump_units (w : Wave) (k : WordKind) (t : VAddr) : (w.jump k t).units = w.units := (congrArg Wave.units (Wave.jump_regs w k t) :)
@[simp] theorem Wave.jump_waitCount (w : Wave) (k : WordKind) (t : VAddr) : (w.jump k t).waitCount = w.waitCount := (congrArg Wave.waitCount (Wave.jump_regs w k t) :)
@[simp] theorem Wave.jump_lastIssue (w : Wave) (k : WordKind) (t : VAddr) : (w.jump k t).lastIssue = w.lastIssue := (congrArg Wave.lastIssue (Wave.jump_regs w k t) :)
@[simp] theorem Wave.jump_skipCycle (w : Wave) (k : WordKind) (t : VAddr) : (w.jump k t).skipCycle = w.skipCycle := (congrArg Wave.skipCycle (Wave.jump_regs w k t) :)
@[simp] theorem Wave.jump_taken (w : Wave) (k : WordKind) (t : VAddr) : (w.jump k t).taken = w.taken := (congrArg Wave.taken (Wave.jump_regs w k t) :)
@[simp] theorem Wave.jump_sliceDone (w : Wave) (k : WordKind) (t : VAddr) : (w.jump k t).sliceDone = w.sliceDone := (congrArg Wave.sliceDone (Wave.jump_regs w k t) :)
@[simp] theorem Wave.jump_stallAt (w : Wave) (k : WordKind) (t : VAddr) : (w.jump k t).stallAt = w.stallAt := (congrArg Wave.stallAt (Wave.jump_regs w k t) :)
@[simp] theorem Wave.jump_pinLost (w : Wave) (k : WordKind) (t : VAddr) : (w.jump k t).pinLost = w.pinLost := (congrArg Wave.pinLost (Wave.jump_regs w k t) :)
@[simp] theorem Wave.jump_endAt (w : Wave) (k : WordKind) (t : VAddr) : (w.jump k t).endAt = w.endAt := (congrArg Wave.endAt (Wave.jump_regs w k t) :)

@[simp] theorem Wave.block'_block (w : Wave) (c : WaitFor) : (w.block' c).block = w.block := (congrArg Wave.block (Wave.block'_regs w c) :)
@[simp] theorem Wave.block'_index (w : Wave) (c : WaitFor) : (w.block' c).index = w.index := (congrArg Wave.index (Wave.block'_regs w c) :)
@[simp] theorem Wave.block'_part (w : Wave) (c : WaitFor) : (w.block' c).part = w.part := (congrArg Wave.part (Wave.block'_regs w c) :)
@[simp] theorem Wave.block'_slot (w : Wave) (c : WaitFor) : (w.block' c).slot = w.slot := (congrArg Wave.slot (Wave.block'_regs w c) :)
@[simp] theorem Wave.block'_width (w : Wave) (c : WaitFor) : (w.block' c).width = w.width := (congrArg Wave.width (Wave.block'_regs w c) :)
@[simp] theorem Wave.block'_ended (w : Wave) (c : WaitFor) : (w.block' c).ended = w.ended := (congrArg Wave.ended (Wave.block'_regs w c) :)
@[simp] theorem Wave.block'_sregs (w : Wave) (c : WaitFor) : (w.block' c).sregs = w.sregs := (congrArg Wave.sregs (Wave.block'_regs w c) :)
@[simp] theorem Wave.block'_vregs (w : Wave) (c : WaitFor) : (w.block' c).vregs = w.vregs := (congrArg Wave.vregs (Wave.block'_regs w c) :)
@[simp] theorem Wave.block'_sf (w : Wave) (c : WaitFor) : (w.block' c).sf = w.sf := (congrArg Wave.sf (Wave.block'_regs w c) :)
@[simp] theorem Wave.block'_outC (w : Wave) (c : WaitFor) : (w.block' c).outC = w.outC := (congrArg Wave.outC (Wave.block'_regs w c) :)
@[simp] theorem Wave.block'_outM (w : Wave) (c : WaitFor) : (w.block' c).outM = w.outM := (congrArg Wave.outM (Wave.block'_regs w c) :)
@[simp] theorem Wave.block'_outK (w : Wave) (c : WaitFor) : (w.block' c).outK = w.outK := (congrArg Wave.outK (Wave.block'_regs w c) :)
@[simp] theorem Wave.block'_outD (w : Wave) (c : WaitFor) : (w.block' c).outD = w.outD := (congrArg Wave.outD (Wave.block'_regs w c) :)
@[simp] theorem Wave.block'_recent (w : Wave) (c : WaitFor) : (w.block' c).recent = w.recent := (congrArg Wave.recent (Wave.block'_regs w c) :)
@[simp] theorem Wave.block'_rndMode (w : Wave) (c : WaitFor) : (w.block' c).rndMode = w.rndMode := (congrArg Wave.rndMode (Wave.block'_regs w c) :)
@[simp] theorem Wave.block'_quantum (w : Wave) (c : WaitFor) : (w.block' c).quantum = w.quantum := (congrArg Wave.quantum (Wave.block'_regs w c) :)
@[simp] theorem Wave.block'_hzStaged (w : Wave) (c : WaitFor) : (w.block' c).hzStaged = w.hzStaged := (congrArg Wave.hzStaged (Wave.block'_regs w c) :)
@[simp] theorem Wave.block'_gate (w : Wave) (c : WaitFor) : (w.block' c).gate = w.gate := (congrArg Wave.gate (Wave.block'_regs w c) :)
@[simp] theorem Wave.block'_wakeTo (w : Wave) (c : WaitFor) : (w.block' c).wakeTo = w.wakeTo := (congrArg Wave.wakeTo (Wave.block'_regs w c) :)
@[simp] theorem Wave.block'_cause (w : Wave) (c : WaitFor) : (w.block' c).cause = w.cause := (congrArg Wave.cause (Wave.block'_regs w c) :)
@[simp] theorem Wave.block'_trapPc (w : Wave) (c : WaitFor) : (w.block' c).trapPc = w.trapPc := (congrArg Wave.trapPc (Wave.block'_regs w c) :)
@[simp] theorem Wave.block'_trapMask (w : Wave) (c : WaitFor) : (w.block' c).trapMask = w.trapMask := (congrArg Wave.trapMask (Wave.block'_regs w c) :)
@[simp] theorem Wave.block'_trapAddr (w : Wave) (c : WaitFor) : (w.block' c).trapAddr = w.trapAddr := (congrArg Wave.trapAddr (Wave.block'_regs w c) :)
@[simp] theorem Wave.block'_srSeed (w : Wave) (c : WaitFor) : (w.block' c).srSeed = w.srSeed := (congrArg Wave.srSeed (Wave.block'_regs w c) :)
@[simp] theorem Wave.block'_clockLatch (w : Wave) (c : WaitFor) : (w.block' c).clockLatch = w.clockLatch := (congrArg Wave.clockLatch (Wave.block'_regs w c) :)
@[simp] theorem Wave.block'_savExec (w : Wave) (c : WaitFor) : (w.block' c).savExec = w.savExec := (congrArg Wave.savExec (Wave.block'_regs w c) :)
@[simp] theorem Wave.block'_inTrap (w : Wave) (c : WaitFor) : (w.block' c).inTrap = w.inTrap := (congrArg Wave.inTrap (Wave.block'_regs w c) :)
@[simp] theorem Wave.block'_skipPc (w : Wave) (c : WaitFor) : (w.block' c).skipPc = w.skipPc := (congrArg Wave.skipPc (Wave.block'_regs w c) :)
@[simp] theorem Wave.block'_srState (w : Wave) (c : WaitFor) : (w.block' c).srState = w.srState := (congrArg Wave.srState (Wave.block'_regs w c) :)
@[simp] theorem Wave.block'_rank (w : Wave) (c : WaitFor) : (w.block' c).rank = w.rank := (congrArg Wave.rank (Wave.block'_regs w c) :)
@[simp] theorem Wave.block'_pending (w : Wave) (c : WaitFor) : (w.block' c).pending = w.pending := (congrArg Wave.pending (Wave.block'_regs w c) :)
@[simp] theorem Wave.block'_trapPending (w : Wave) (c : WaitFor) : (w.block' c).trapPending = w.trapPending := (congrArg Wave.trapPending (Wave.block'_regs w c) :)
@[simp] theorem Wave.block'_gang (w : Wave) (c : WaitFor) : (w.block' c).gang = w.gang := (congrArg Wave.gang (Wave.block'_regs w c) :)
@[simp] theorem Wave.block'_keepOut (w : Wave) (c : WaitFor) : (w.block' c).keepOut = w.keepOut := (congrArg Wave.keepOut (Wave.block'_regs w c) :)
@[simp] theorem Wave.block'_holds (w : Wave) (c : WaitFor) : (w.block' c).holds = w.holds := (congrArg Wave.holds (Wave.block'_regs w c) :)
@[simp] theorem Wave.block'_readPc (w : Wave) (c : WaitFor) : (w.block' c).readPc = w.readPc := (congrArg Wave.readPc (Wave.block'_regs w c) :)
@[simp] theorem Wave.block'_units (w : Wave) (c : WaitFor) : (w.block' c).units = w.units := (congrArg Wave.units (Wave.block'_regs w c) :)
@[simp] theorem Wave.block'_waitCount (w : Wave) (c : WaitFor) : (w.block' c).waitCount = w.waitCount := (congrArg Wave.waitCount (Wave.block'_regs w c) :)
@[simp] theorem Wave.block'_lastIssue (w : Wave) (c : WaitFor) : (w.block' c).lastIssue = w.lastIssue := (congrArg Wave.lastIssue (Wave.block'_regs w c) :)
@[simp] theorem Wave.block'_skipCycle (w : Wave) (c : WaitFor) : (w.block' c).skipCycle = w.skipCycle := (congrArg Wave.skipCycle (Wave.block'_regs w c) :)
@[simp] theorem Wave.block'_taken (w : Wave) (c : WaitFor) : (w.block' c).taken = w.taken := (congrArg Wave.taken (Wave.block'_regs w c) :)
@[simp] theorem Wave.block'_sliceDone (w : Wave) (c : WaitFor) : (w.block' c).sliceDone = w.sliceDone := (congrArg Wave.sliceDone (Wave.block'_regs w c) :)
@[simp] theorem Wave.block'_stallAt (w : Wave) (c : WaitFor) : (w.block' c).stallAt = w.stallAt := (congrArg Wave.stallAt (Wave.block'_regs w c) :)
@[simp] theorem Wave.block'_pinLost (w : Wave) (c : WaitFor) : (w.block' c).pinLost = w.pinLost := (congrArg Wave.pinLost (Wave.block'_regs w c) :)
@[simp] theorem Wave.block'_endAt (w : Wave) (c : WaitFor) : (w.block' c).endAt = w.endAt := (congrArg Wave.endAt (Wave.block'_regs w c) :)

@[simp] theorem Wave.wake_block (w : Wave) (e : Nat) : (w.wake e).block = w.block := (congrArg Wave.block (Wave.wake_regs w e) :)
@[simp] theorem Wave.wake_index (w : Wave) (e : Nat) : (w.wake e).index = w.index := (congrArg Wave.index (Wave.wake_regs w e) :)
@[simp] theorem Wave.wake_part (w : Wave) (e : Nat) : (w.wake e).part = w.part := (congrArg Wave.part (Wave.wake_regs w e) :)
@[simp] theorem Wave.wake_slot (w : Wave) (e : Nat) : (w.wake e).slot = w.slot := (congrArg Wave.slot (Wave.wake_regs w e) :)
@[simp] theorem Wave.wake_width (w : Wave) (e : Nat) : (w.wake e).width = w.width := (congrArg Wave.width (Wave.wake_regs w e) :)
@[simp] theorem Wave.wake_ended (w : Wave) (e : Nat) : (w.wake e).ended = w.ended := (congrArg Wave.ended (Wave.wake_regs w e) :)
@[simp] theorem Wave.wake_sregs (w : Wave) (e : Nat) : (w.wake e).sregs = w.sregs := (congrArg Wave.sregs (Wave.wake_regs w e) :)
@[simp] theorem Wave.wake_vregs (w : Wave) (e : Nat) : (w.wake e).vregs = w.vregs := (congrArg Wave.vregs (Wave.wake_regs w e) :)
@[simp] theorem Wave.wake_sf (w : Wave) (e : Nat) : (w.wake e).sf = w.sf := (congrArg Wave.sf (Wave.wake_regs w e) :)
@[simp] theorem Wave.wake_outC (w : Wave) (e : Nat) : (w.wake e).outC = w.outC := (congrArg Wave.outC (Wave.wake_regs w e) :)
@[simp] theorem Wave.wake_outM (w : Wave) (e : Nat) : (w.wake e).outM = w.outM := (congrArg Wave.outM (Wave.wake_regs w e) :)
@[simp] theorem Wave.wake_outK (w : Wave) (e : Nat) : (w.wake e).outK = w.outK := (congrArg Wave.outK (Wave.wake_regs w e) :)
@[simp] theorem Wave.wake_outD (w : Wave) (e : Nat) : (w.wake e).outD = w.outD := (congrArg Wave.outD (Wave.wake_regs w e) :)
@[simp] theorem Wave.wake_recent (w : Wave) (e : Nat) : (w.wake e).recent = w.recent := (congrArg Wave.recent (Wave.wake_regs w e) :)
@[simp] theorem Wave.wake_rndMode (w : Wave) (e : Nat) : (w.wake e).rndMode = w.rndMode := (congrArg Wave.rndMode (Wave.wake_regs w e) :)
@[simp] theorem Wave.wake_quantum (w : Wave) (e : Nat) : (w.wake e).quantum = w.quantum := (congrArg Wave.quantum (Wave.wake_regs w e) :)
@[simp] theorem Wave.wake_hzStaged (w : Wave) (e : Nat) : (w.wake e).hzStaged = w.hzStaged := (congrArg Wave.hzStaged (Wave.wake_regs w e) :)
@[simp] theorem Wave.wake_gate (w : Wave) (e : Nat) : (w.wake e).gate = w.gate := (congrArg Wave.gate (Wave.wake_regs w e) :)
@[simp] theorem Wave.wake_wakeTo (w : Wave) (e : Nat) : (w.wake e).wakeTo = w.wakeTo := (congrArg Wave.wakeTo (Wave.wake_regs w e) :)
@[simp] theorem Wave.wake_cause (w : Wave) (e : Nat) : (w.wake e).cause = w.cause := (congrArg Wave.cause (Wave.wake_regs w e) :)
@[simp] theorem Wave.wake_trapPc (w : Wave) (e : Nat) : (w.wake e).trapPc = w.trapPc := (congrArg Wave.trapPc (Wave.wake_regs w e) :)
@[simp] theorem Wave.wake_trapMask (w : Wave) (e : Nat) : (w.wake e).trapMask = w.trapMask := (congrArg Wave.trapMask (Wave.wake_regs w e) :)
@[simp] theorem Wave.wake_trapAddr (w : Wave) (e : Nat) : (w.wake e).trapAddr = w.trapAddr := (congrArg Wave.trapAddr (Wave.wake_regs w e) :)
@[simp] theorem Wave.wake_srSeed (w : Wave) (e : Nat) : (w.wake e).srSeed = w.srSeed := (congrArg Wave.srSeed (Wave.wake_regs w e) :)
@[simp] theorem Wave.wake_clockLatch (w : Wave) (e : Nat) : (w.wake e).clockLatch = w.clockLatch := (congrArg Wave.clockLatch (Wave.wake_regs w e) :)
@[simp] theorem Wave.wake_savExec (w : Wave) (e : Nat) : (w.wake e).savExec = w.savExec := (congrArg Wave.savExec (Wave.wake_regs w e) :)
@[simp] theorem Wave.wake_inTrap (w : Wave) (e : Nat) : (w.wake e).inTrap = w.inTrap := (congrArg Wave.inTrap (Wave.wake_regs w e) :)
@[simp] theorem Wave.wake_skipPc (w : Wave) (e : Nat) : (w.wake e).skipPc = w.skipPc := (congrArg Wave.skipPc (Wave.wake_regs w e) :)
@[simp] theorem Wave.wake_srState (w : Wave) (e : Nat) : (w.wake e).srState = w.srState := (congrArg Wave.srState (Wave.wake_regs w e) :)
@[simp] theorem Wave.wake_rank (w : Wave) (e : Nat) : (w.wake e).rank = w.rank := (congrArg Wave.rank (Wave.wake_regs w e) :)
@[simp] theorem Wave.wake_pending (w : Wave) (e : Nat) : (w.wake e).pending = w.pending := (congrArg Wave.pending (Wave.wake_regs w e) :)
@[simp] theorem Wave.wake_trapPending (w : Wave) (e : Nat) : (w.wake e).trapPending = w.trapPending := (congrArg Wave.trapPending (Wave.wake_regs w e) :)
@[simp] theorem Wave.wake_gang (w : Wave) (e : Nat) : (w.wake e).gang = w.gang := (congrArg Wave.gang (Wave.wake_regs w e) :)
@[simp] theorem Wave.wake_keepOut (w : Wave) (e : Nat) : (w.wake e).keepOut = w.keepOut := (congrArg Wave.keepOut (Wave.wake_regs w e) :)
@[simp] theorem Wave.wake_holds (w : Wave) (e : Nat) : (w.wake e).holds = w.holds := (congrArg Wave.holds (Wave.wake_regs w e) :)
@[simp] theorem Wave.wake_readPc (w : Wave) (e : Nat) : (w.wake e).readPc = w.readPc := (congrArg Wave.readPc (Wave.wake_regs w e) :)
@[simp] theorem Wave.wake_units (w : Wave) (e : Nat) : (w.wake e).units = w.units := (congrArg Wave.units (Wave.wake_regs w e) :)
@[simp] theorem Wave.wake_waitCount (w : Wave) (e : Nat) : (w.wake e).waitCount = w.waitCount := (congrArg Wave.waitCount (Wave.wake_regs w e) :)
@[simp] theorem Wave.wake_lastIssue (w : Wave) (e : Nat) : (w.wake e).lastIssue = w.lastIssue := (congrArg Wave.lastIssue (Wave.wake_regs w e) :)
@[simp] theorem Wave.wake_skipCycle (w : Wave) (e : Nat) : (w.wake e).skipCycle = w.skipCycle := (congrArg Wave.skipCycle (Wave.wake_regs w e) :)
@[simp] theorem Wave.wake_taken (w : Wave) (e : Nat) : (w.wake e).taken = w.taken := (congrArg Wave.taken (Wave.wake_regs w e) :)
@[simp] theorem Wave.wake_sliceDone (w : Wave) (e : Nat) : (w.wake e).sliceDone = w.sliceDone := (congrArg Wave.sliceDone (Wave.wake_regs w e) :)
@[simp] theorem Wave.wake_stallAt (w : Wave) (e : Nat) : (w.wake e).stallAt = w.stallAt := (congrArg Wave.stallAt (Wave.wake_regs w e) :)
@[simp] theorem Wave.wake_pinLost (w : Wave) (e : Nat) : (w.wake e).pinLost = w.pinLost := (congrArg Wave.pinLost (Wave.wake_regs w e) :)
@[simp] theorem Wave.wake_endAt (w : Wave) (e : Nat) : (w.wake e).endAt = w.endAt := (congrArg Wave.endAt (Wave.wake_regs w e) :)

/-! ### Translation -/

/-- A page of every level is a whole number of pages of 64 KiB (R161). -/
theorem levelShift_page (n : Nat) : ∃ k, 2 ^ levelShift n = 65536 * k := by
  match n with
  | 0 => exact ⟨1, rfl⟩
  | 1 => exact ⟨2 ^ 5, rfl⟩
  | 2 => exact ⟨2 ^ 14, rfl⟩
  | k + 3 => exact ⟨2 ^ 23, rfl⟩

theorem levelIndex_page {a b : Nat} (h : a / 65536 = b / 65536) (n : Nat) : levelIndex n a = levelIndex n b := by
  obtain ⟨k, hk⟩ := levelShift_page n
  simp only [levelIndex, hk, ← Nat.div_div_eq_div_mul, h]

theorem walkLeaf_page {a b : Nat} (h : a / 65536 = b / 65536) (s : State) (f n e : Nat) : s.walkLeaf f a n e = s.walkLeaf f b n e := by
  obtain ⟨k, hk⟩ := levelShift_page n
  by_cases hp : entryAddr e % 2 ^ levelShift n = 0
  · have : (entryAddr e + a % 2 ^ levelShift n) / 65536 = (entryAddr e + b % 2 ^ levelShift n) / 65536 := by
      obtain ⟨q, hq⟩ := Nat.dvd_of_mod_eq_zero hp
      rw [hq, hk, Nat.mul_assoc, Nat.mul_add_div (by omega), Nat.mul_add_div (by omega), Nat.mod_mul_right_div_self, Nat.mod_mul_right_div_self, h]
    simp only [State.walkLeaf, this]
  · simp only [State.walkLeaf, hp, ne_eq, not_false_eq_true, true_or, or_true, if_true]

theorem walkFrom_page {a b : Nat} (h : a / 65536 = b / 65536) (s : State) (f n t : Nat) : s.walkFrom f a n t = s.walkFrom f b n t := by
  induction n generalizing t with
  | zero => unfold State.walkFrom; simp only [levelIndex_page h, walkLeaf_page h]
  | succ k ih => unfold State.walkFrom; simp only [levelIndex_page h, walkLeaf_page h, ih]

/-- A walk depends on the page of the address alone (R161). -/
theorem State.walk_page {a b : Nat} (h : a / 65536 = b / 65536) (s : State) (f : Nat) : s.walk f a = s.walk f b := by
  simp only [State.walk, walkFrom_page h]

/-- What the device reads at an address of the first page, by the walk of address 0. -/
theorem State.sysByte_page {s : State} {f a page : Nat} {l : Leaf} (h : s.walk f 0 = .ok page l) (ha : a < 65536)
    (hk : (s.keyOk f l.key && s.peerOk f (page * 65536) && l.rd) = true) : s.sysByte f a = s.peekBy l.key (page * 65536 + a) := by
  have hw : s.walk f (a % 2 ^ 52) = .ok page l := by rw [State.walk_page (b := 0) (by omega), h]
  simp only [State.sysByte, State.sysAddr, State.sysCheck, hw, hk, Bool.not_false, Bool.true_or, Bool.and_true, if_true, Except.toOption]
  rw [show a % 2 ^ 52 % 65536 = a by omega]

end Sys2Proof.Machine
end

