-- ==== Sys2Proof/Laws/Inv.lean ====
section
/-! SUPPORT. The invariant under each shared operation: the sizes of a wave that the end of a word keeps, and the invariant of the state under
each of its updates, with what a trap leaves. -/

namespace Sys2Proof.Machine

/-! ### The sizes of a wave -/

theorem Wave.Ok.of_sizes {v w : Wave} (h : w.Ok) (a : v.sregs.length = w.sregs.length) (b : v.mregs.length = w.mregs.length)
    (c : v.frags.length = w.frags.length) (d : v.cur < 8) (e : v.width = w.width) (f : v.vregs = w.vregs := by rfl) : v.Ok :=
  ⟨a.trans h.scalars, b.trans h.masks, c.trans h.entries, d, e ▸ h.lanes, by rw [e, f]; exact h.rows⟩

/-- A change of registers, PC, hints or book-keeping only keeps the sizes: one that keeps these five fields does. -/
theorem Wave.Ok.of_eq {v w : Wave} (h : w.Ok) (a : v.sregs = w.sregs) (b : v.mregs = w.mregs) (c : v.frags = w.frags)
    (d : v.cur = w.cur) (e : v.width = w.width) (f : v.vregs = w.vregs := by rfl) : v.Ok :=
  h.of_sizes (by rw [a]) (by rw [b]) (by rw [c]) (d ▸ h.current) e f

theorem Wave.Ok.setExec {w : Wave} (h : w.Ok) (x : Mask) : (w.setExec x).Ok :=
  h.of_sizes rfl (by simp [Wave.setExec]) rfl h.current rfl

theorem Wave.Ok.setM {w : Wave} (h : w.Ok) (r : MReg) (x : Mask) : (w.setM r x).Ok :=
  h.of_sizes rfl (by simp [Wave.setM]) rfl h.current rfl

theorem Wave.Ok.setS {w : Wave} (h : w.Ok) (r : SReg) (x : Word) : (w.setS r x).Ok := by
  unfold Wave.setS
  split
  · exact h
  · exact h.of_sizes (by simp) rfl rfl h.current rfl

theorem Wave.Ok.setS64 {w : Wave} (h : w.Ok) (r : SReg) (x : Word64) : (w.setS64 r x).Ok := (h.setS _ _).setS _ _

theorem Wave.Ok.setVn {w : Wave} (h : w.Ok) (r : Nat) (m : Mask) (f : Nat → Word) : (w.setVn r m f).Ok := by
  refine ⟨h.scalars, h.masks, h.entries, h.current, h.lanes, fun x hx => ?_⟩
  obtain ⟨k, hk, rfl⟩ := List.mem_iff_getElem.mp hx
  have hk' : k < w.vregs.length := by simpa [Wave.setVn] using hk
  have hr := h.rows _ (List.getElem_mem hk')
  simp only [Wave.setVn, List.getElem_modify]
  split
  · rw [mergeLanes_length]; exact hr
  · exact hr
theorem Wave.Ok.setV {w : Wave} (h : w.Ok) (r : VReg) (f : Nat → Word) : (w.setV r f).Ok := h.setVn ..
theorem Wave.Ok.setV64 {w : Wave} (h : w.Ok) (r : VReg) (f : Nat → Word64) : (w.setV64 r f).Ok := (h.setVn ..).setVn ..
theorem Wave.Ok.raise {w : Wave} (h : w.Ok) (x : Stamp) : (w.raise x).Ok := h.of_eq rfl rfl rfl rfl rfl
theorem Wave.Ok.later {w : Wave} (h : w.Ok) (ws : List RegWrite) : (w.later ws).Ok := h.of_eq rfl rfl rfl rfl rfl
theorem Wave.Ok.mark {w : Wave} (h : w.Ok) (k : WordKind) (p : Bool) : (w.mark k p).Ok := h.of_eq rfl rfl rfl rfl rfl

theorem Wave.Ok.applyWrite {w : Wave} (h : w.Ok) (x : RegWrite) : (w.applyWrite x).Ok := by
  cases x with
  | s r x => exact h.setS ..
  | v r m xs => exact h.setVn ..

theorem Wave.Ok.setOut {w : Wave} (h : w.Ok) (cls : EClass) (l : List Nat) : (w.setOut cls l).Ok := by
  cases cls <;> exact h.of_eq rfl rfl rfl rfl rfl

theorem Wave.Ok.modFrag {w : Wave} (h : w.Ok) (e : Nat) (f : Frag → Frag) : (w.modFrag e f).Ok :=
  h.of_sizes rfl rfl (by simp [Wave.modFrag]) h.current rfl

theorem Wave.Ok.foldl_modFrag {w : Wave} (h : w.Ok) (l : List Nat) (f : Frag → Frag) : (l.foldl (fun w e => w.modFrag e f) w).Ok := by
  induction l generalizing w with
  | nil => exact h
  | cons e r ih => exact ih (h.modFrag e f)

theorem Wave.Ok.become {w : Wave} (h : w.Ok) {e : Nat} (he : e < 8) : (w.become e).Ok :=
  ⟨h.scalars, by simp [Wave.become, Wave.setExec, h.masks], h.entries, he, h.lanes, h.rows⟩

theorem Wave.Ok.stow {w : Wave} (h : w.Ok) : w.stow.Ok := h.modFrag ..

theorem Wave.nextLive_lt {w : Wave} {e : Nat} (h : w.nextLive = some e) : e < 8 := by
  have := List.mem_of_find?_eq_some h
  simp only [List.mem_map, List.mem_range] at this
  omega

theorem Wave.nextLive_live {w : Wave} {e : Nat} (h : w.nextLive = some e) : (w.fragAt e).state = .live := by
  simpa using List.find?_some h

theorem Wave.Ok.switch {w : Wave} (h : w.Ok) : w.switch.Ok := by
  unfold Wave.switch
  split
  · exact h
  · next e he =>
    split
    · exact h.of_eq rfl rfl rfl rfl rfl
    · exact ((h.modFrag _ _).become (Wave.nextLive_lt he)).of_eq rfl rfl rfl rfl rfl

/-- An entry that is in use has a number below 8. -/
theorem Wave.Ok.entry_lt {w : Wave} (h : w.Ok) {p : Nat} (hp : (w.fragAt p).state ≠ .free) : p < 8 := by
  rcases Nat.lt_or_ge p 8 with hl | hl
  · exact hl
  · refine absurd ?_ hp
    unfold Wave.fragAt
    rw [List.getD_eq_getElem?_getD, List.getElem?_eq_none (by rw [h.entries]; exact hl)]
    rfl

theorem Wave.ok_ite {c : Prop} [Decidable c] {u v : Wave} (hu : c → u.Ok) (hv : v.Ok) : (if c then u else v).Ok := by
  split
  · exact hu ‹_›
  · exact hv

theorem Wave.Ok.fuse {w : Wave} (h : w.Ok) (n p : Nat) : (Wave.fuse n p w).Ok := by
  induction n generalizing p w with
  | zero => exact h
  | succ n ih =>
    unfold Wave.fuse
    dsimp only
    refine Wave.ok_ite (fun hc => ?_) h
    have hp : p < 8 := h.entry_lt (by rcases hc with hc | hc <;> simp_all)
    have hf := h.foldl_modFrag ((w.children p).filter fun e => (w.fragAt e).state == .parked) fun _ => Frag.none
    refine Wave.ok_ite (fun _ => ih (hf.modFrag _ _) _) ?_
    have h2 := (hf.modFrag p fun f => { f with
      state := .live
      mask := ((w.children p).filter fun e => (w.fragAt e).state == .parked).foldl (fun u e => u ||| (w.fragAt e).mask)
        (if (w.fragAt p).state = .held then (w.fragAt p).mask else 0) }).setExec
      (((w.children p).filter fun e => (w.fragAt e).state == .parked).foldl (fun u e => u ||| (w.fragAt e).mask)
        (if (w.fragAt p).state = .held then (w.fragAt p).mask else 0))
    exact ⟨h2.scalars, h2.masks, h2.entries, hp, h2.lanes, h2.rows⟩

/-- The end of a word keeps the sizes of the wave. -/
theorem Wave.Ok.settle {w : Wave} (h : w.Ok) : w.settle.Ok := by
  unfold Wave.settle
  split
  · dsimp only
    split <;> split
    · exact h.switch
    · exact h
    · refine Wave.Ok.switch (Wave.Ok.fuse ?_ _ _)
      exact h.of_eq rfl rfl rfl rfl rfl
    · refine Wave.Ok.fuse ?_ _ _
      exact h.of_eq rfl rfl rfl rfl rfl
  · exact h

theorem Wave.Ok.retired' {w : Wave} (h : w.Ok) (k : WordKind) (p : Bool) : (w.retired' k p).Ok := (h.mark k p).settle
theorem Wave.Ok.step {w : Wave} (h : w.Ok) (p : Bool) : (w.step p).Ok := by
  refine Wave.Ok.retired' ?_ _ _
  exact h.of_eq rfl rfl rfl rfl rfl
theorem Wave.Ok.stepAs {w : Wave} (h : w.Ok) (k : WordKind) (p : Bool) : (w.stepAs k p).Ok := by
  refine Wave.Ok.retired' ?_ _ _
  exact h.of_eq rfl rfl rfl rfl rfl
theorem Wave.Ok.jump {w : Wave} (h : w.Ok) (k : WordKind) (t : VAddr) : (w.jump k t).Ok := by
  refine Wave.Ok.retired' ?_ _ _
  exact h.of_eq rfl rfl rfl rfl rfl
theorem Wave.Ok.block' {w : Wave} (h : w.Ok) (c : WaitFor) : (w.block' c).Ok :=
  Wave.Ok.settle ((h.modFrag w.cur _).of_eq rfl rfl rfl rfl rfl)
theorem Wave.Ok.wake {w : Wave} (h : w.Ok) (e : Nat) : (w.wake e).Ok := Wave.Ok.settle ((h.modFrag e _).of_eq rfl rfl rfl rfl rfl)
theorem Wave.Ok.setSccOf {w : Wave} (h : w.Ok) (e : Nat) (b : Bool) : (w.setSccOf e b).Ok := by
  unfold Wave.setSccOf
  split
  · exact h.of_eq rfl rfl rfl rfl rfl
  · exact h.modFrag _ _
theorem Wave.Ok.returnFrom {w : Wave} (h : w.Ok) (n : RettMode) : (w.returnFrom n).Ok :=
  ((h.mark .plain true).setExec _).of_eq rfl rfl rfl rfl rfl

theorem Wave.Ok.exitLanes {w : Wave} (h : w.Ok) : w.exitLanes.Ok := by
  have hm : ({ ((w.setExec 0).mark .plain true) with inTrap := false, switchDue := false } : Wave).Ok :=
    ((h.setExec 0).mark .plain true).of_eq rfl rfl rfl rfl rfl
  unfold Wave.exitLanes
  dsimp only
  refine Wave.ok_ite (fun _ => Wave.Ok.step (Wave.Ok.setExec (h.modFrag _ _) _) _) ?_
  split
  · next d r hd =>
    have hmem : d ∈ ({ ((w.setExec 0).mark .plain true) with inTrap := false, switchDue := false } : Wave).children w.cur :=
      (List.mem_filter.mp (hd ▸ List.mem_cons_self)).1
    have hlt : d < 8 := List.mem_range.mp (List.mem_filter.mp hmem).1
    exact ((hm.stow.modFrag _ _).modFrag _ _).become hlt
  · exact Wave.Ok.settle ((hm.modFrag _ _).of_eq rfl rfl rfl rfl rfl)

/-! ### The invariant under updates of the state -/

/-- The invariant looks at eight fields of the state: a change of the others keeps it. -/
theorem State.Inv.of_fields {s t : State} (h : s.Inv) (a : t.mem = s.mem) (b : t.dies = s.dies) (c : t.funcs = s.funcs) (d : t.cores = s.cores)
    (e : t.towers = s.towers) (f : t.waves = s.waves) (g : t.blocks = s.blocks) (k : t.launches = s.launches) : t.Inv where
  memory := a ▸ h.memory
  dies := b ▸ h.dies
  functions := c ▸ h.functions
  cores := d ▸ h.cores
  towers := e ▸ h.towers
  waves := fun w hw => g ▸ h.waves w (f ▸ hw)
  blocks := fun x hx => by
    have := h.blocks x (g ▸ hx)
    unfold State.launch at this ⊢
    rw [k]
    exact this
  launches := fun l hl => h.launches l (k ▸ hl)

theorem mem_modify {α : Type} {l : List α} {i : Nat} {f : α → α} {x : α} (h : x ∈ l.modify i f) : x ∈ l ∨ ∃ y ∈ l, x = f y := by
  rw [List.mem_iff_getElem?] at h
  obtain ⟨n, hn⟩ := h
  rw [List.getElem?_modify] at hn
  cases hy : l[n]? with
  | none => simp [hy] at hn
  | some y =>
    have hm : y ∈ l := List.mem_iff_getElem?.mpr ⟨n, hy⟩
    by_cases hi : i = n
    · exact Or.inr ⟨y, hm, by simpa [hy, hi] using hn.symm⟩
    · rw [hy] at hn
      simp only [hi, if_false, Option.map_eq_map, Option.map_some, Option.some.injEq] at hn
      exact Or.inl (hn ▸ hm)

theorem State.Inv.poke {s : State} (h : s.Inv) (bs : List (Nat × Byte)) : (s.poke bs).Inv :=
  ⟨Memory.wf_writeAll h.memory bs, h.dies, h.functions, h.cores, h.towers, h.waves, h.blocks, h.launches⟩

theorem State.Inv.modFunc {s : State} (h : s.Inv) (i : Nat) (f : Func → Func) : (s.modFunc i f).Inv :=
  ⟨h.memory, h.dies, by simpa [State.modFunc] using h.functions, h.cores, h.towers, h.waves, h.blocks, h.launches⟩

theorem State.Inv.modCore {s : State} (h : s.Inv) (i : Nat) (f : Core → Core) : (s.modCore i f).Inv :=
  ⟨h.memory, h.dies, h.functions, by simpa [State.modCore] using h.cores, h.towers, h.waves, h.blocks, h.launches⟩

theorem State.Inv.modTower {s : State} (h : s.Inv) (i : Nat) (f : Tower → Tower) : (s.modTower i f).Inv :=
  ⟨h.memory, h.dies, h.functions, h.cores, by simpa [State.modTower] using h.towers, h.waves, h.blocks, h.launches⟩

/-- A change of a wave keeps the invariant where it keeps the wave's sizes and its block. -/
theorem State.Inv.modWave {s : State} (h : s.Inv) (i : Nat) (f : Wave → Wave) (hf : ∀ w, w.Ok → (f w).Ok ∧ (f w).block = w.block) :
    (s.modWave i f).Inv where
  memory := h.memory
  dies := h.dies
  functions := h.functions
  cores := h.cores
  towers := h.towers
  waves := fun w hw => by
    rcases mem_modify hw with hw | ⟨y, hy, rfl⟩
    · exact h.waves w hw
    · have := h.waves y hy
      exact ⟨(hf y this.1).1, (hf y this.1).2 ▸ this.2⟩
  blocks := h.blocks
  launches := h.launches

/-- The issuing wave replaced by one of the right sizes, in a block of the machine. -/
theorem State.Inv.setCur {s : State} (h : s.Inv) {w : Wave} (hw : w.Ok) (hb : w.block < s.blocks.length) : (s.setCur w).Inv where
  memory := h.memory
  dies := h.dies
  functions := h.functions
  cores := h.cores
  towers := h.towers
  waves := fun v hv => by
    rcases List.mem_or_eq_of_mem_set hv with hv | rfl
    · exact h.waves v hv
    · exact ⟨hw, hb⟩
  blocks := h.blocks
  launches := h.launches

/-- The wave on the issue port has its sizes, and a block of the machine. -/
theorem State.Inv.of_cur {s : State} (h : s.Inv) {w : Wave} (hw : s.cur = some w) : w.Ok ∧ w.block < s.blocks.length :=
  h.waves w (List.mem_of_getElem? hw)

/-- A change of a block keeps the invariant where it keeps its launch, its core, the number of its phases, and the size of its tiles. -/
theorem State.Inv.modBlock {s : State} (h : s.Inv) (i : Nat) (f : Block → Block)
    (hf : ∀ b ms, b.Ok ms → (f b).Ok ms ∧ (f b).launch = b.launch) : (s.modBlock i f).Inv where
  memory := h.memory
  dies := h.dies
  functions := h.functions
  cores := h.cores
  towers := h.towers
  waves := fun w hw => ⟨(h.waves w hw).1, by simpa [State.modBlock] using (h.waves w hw).2⟩
  blocks := fun b hb => by
    rcases mem_modify hb with hb | ⟨y, hy, rfl⟩
    · exact h.blocks b hb
    · have hy := h.blocks y hy
      have hk := hf y _ hy.2
      rw [hk.2]
      exact ⟨hy.1, hk.1⟩
  launches := h.launches

/-- A change of a launch keeps the invariant where it keeps the launch's groups and width. -/
theorem State.Inv.modLaunch {s : State} (h : s.Inv) (i : Nat) (f : Launch → Launch)
    (hf : ∀ l, (f l).members = l.members ∧ (f l).desc.width = l.desc.width) : (s.modLaunch i f).Inv where
  memory := h.memory
  dies := h.dies
  functions := h.functions
  cores := h.cores
  towers := h.towers
  waves := h.waves
  blocks := fun b hb => by
    have := h.blocks b hb
    refine ⟨by simpa [State.modLaunch] using this.1, ?_⟩
    rw [State.launch_modLaunch]
    split
    · rw [(hf _).1]; exact this.2
    · exact this.2
  launches := fun l hl => by
    rcases mem_modify hl with hl | ⟨y, hy, rfl⟩
    · exact h.launches l hl
    · rw [(hf y).2]; exact h.launches y hy

theorem State.Inv.interrupt {s : State} (h : s.Inv) (f v : Nat) : (s.interrupt f v).Inv := h.of_fields rfl rfl rfl rfl rfl rfl rfl rfl

theorem State.Inv.countOne {s : State} (h : s.Inv) (f ev n i : Nat) : (s.countOne f ev n i).Inv := by
  unfold State.countOne
  dsimp only
  split
  · split
    · exact h.modFunc ..
    · exact (h.modFunc ..).interrupt ..
  · exact h

theorem State.Inv.count {s : State} (h : s.Inv) (f ev n : Nat) : (s.count f ev n).Inv := by
  unfold State.count
  split
  · exact h
  · have key : ∀ (l : List Nat) (t : State), t.Inv → (l.foldl (fun s i => s.countOne f ev n i) t).Inv := by
      intro l
      induction l with
      | nil => exact fun t ht => ht
      | cons a r ih => exact fun t ht => ih _ (ht.countOne ..)
    exact key _ _ h

/-- A block changed without its launch, core, phases or tiles. -/
theorem Block.Ok.of_eq {b c : Block} {ms : List Word} (h : b.Ok ms) (a : c.core = b.core) (p : c.phases = b.phases) (t : c.tiles = b.tiles) :
    c.Ok ms := ⟨a ▸ h.core, p ▸ h.phases, t ▸ h.tiles⟩

/-! ### The end of a launch, and a trap (R198, R205, R206) -/

/-- The end of a launch: where it has not ended, its status, cause, PC and block are recorded; a launch that has ended stays as it is. -/
theorem State.launch_endLaunch (s : State) (li : Nat) (st : LaunchStatus) (c : BitVec 8) (pc b j : Nat) :
    (s.endLaunch li st c pc b).launch j =
      if (s.launch li).live = true ∧ li = j ∧ li < s.launches.length
      then { s.launch j with status := st, cause := c, pc := pc, block := b } else s.launch j := by
  unfold State.endLaunch
  split
  · next h =>
    show (s.modLaunch li _).launch j = _
    rw [State.launch_modLaunch]
    simp [h]
  · next h => simp [h]

@[simp] theorem State.endLaunch_mem (s : State) (li : Nat) (st : LaunchStatus) (c : BitVec 8) (pc b : Nat) :
    (s.endLaunch li st c pc b).mem = s.mem := by unfold State.endLaunch; split <;> rfl
@[simp] theorem State.endLaunch_waves (s : State) (li : Nat) (st : LaunchStatus) (c : BitVec 8) (pc b : Nat) :
    (s.endLaunch li st c pc b).waves = s.waves := by unfold State.endLaunch; split <;> rfl
@[simp] theorem State.endLaunch_resvs (s : State) (li : Nat) (st : LaunchStatus) (c : BitVec 8) (pc b : Nat) :
    (s.endLaunch li st c pc b).resvs = s.resvs := by unfold State.endLaunch; split <;> rfl
@[simp] theorem State.endLaunch_funcs (s : State) (li : Nat) (st : LaunchStatus) (c : BitVec 8) (pc b : Nat) :
    (s.endLaunch li st c pc b).funcs = s.funcs := by unfold State.endLaunch; split <;> rfl

theorem State.Inv.endLaunch {s : State} (h : s.Inv) (li : Nat) (st : LaunchStatus) (c : BitVec 8) (pc b : Nat) :
    (s.endLaunch li st c pc b).Inv := by
  unfold State.endLaunch
  split
  · dsimp only
    have hm := h.modLaunch li (fun l => { l with status := st, cause := c, pc := pc, block := b }) fun _ => ⟨rfl, rfl⟩
    refine ⟨hm.memory, hm.dies, hm.functions, hm.cores, hm.towers, fun w hw => ⟨(hm.waves w hw).1, by simpa using (hm.waves w hw).2⟩,
      fun x hx => ?_, hm.launches⟩
    obtain ⟨y, hy, rfl⟩ := List.mem_map.mp hx
    have hy := hm.blocks y hy
    show (if _ then _ else _ : Block).launch < _ ∧ (if _ then _ else _ : Block).Ok (State.launch _ (if _ then _ else _ : Block).launch).members
    split
    · exact hy
    · split
      · exact ⟨hy.1, hy.2.of_eq rfl rfl rfl⟩
      · exact ⟨hy.1, hy.2.of_eq rfl rfl rfl⟩
      · exact hy
  · exact h

@[simp] theorem State.loseResvs_mem (s : State) (i : Nat) : (s.loseResvs i).mem = s.mem := rfl
@[simp] theorem State.loseResvs_blocks (s : State) (i : Nat) : (s.loseResvs i).blocks = s.blocks := rfl
@[simp] theorem State.loseResvs_launches (s : State) (i : Nat) : (s.loseResvs i).launches = s.launches := rfl

/-- A wave that loses its reservations holds none (R207). -/
theorem State.loseResvs_none (s : State) (i : Nat) : ∀ r ∈ (s.loseResvs i).resvs, r.wave ≠ i := by
  intro r hr
  have := (List.mem_filter.mp hr).2
  simpa using this

theorem State.Inv.loseResvs {s : State} (h : s.Inv) (i : Nat) : (s.loseResvs i).Inv := by
  exact h.of_fields rfl rfl rfl rfl rfl rfl rfl rfl

@[simp] theorem State.deliver_mem (s : State) (i : Nat) (t : TrapInfo) : (s.deliver i t).mem = s.mem := by
  unfold State.deliver
  dsimp only
  split
  · rw [State.endLaunch_mem]; rfl
  · rfl

/-- A trap delivered to a wave leaves it no reservation (R207). -/
theorem State.deliver_resvs (s : State) (i : Nat) (t : TrapInfo) : ∀ r ∈ (s.deliver i t).resvs, r.wave ≠ i := by
  unfold State.deliver
  dsimp only
  split
  · rw [State.endLaunch_resvs]; exact State.loseResvs_none s i
  · exact State.loseResvs_none s i

/-- TAKING A TRAP, outside a handler and with a vector: the wave continues at the vector with the lanes of the trap, and its cause, address, lanes,
PC and EXEC are saved; every other wave, every block and every launch is as before (R198). -/
theorem State.deliver_enters (s : State) (i : Nat) (t : TrapInfo) (ht : (s.wave i).inTrap = false)
    (hv : (s.launchOf (s.wave i)).desc.trapVec ≠ 0) (hi : i < s.waves.length) :
    let w := s.wave i
    (s.deliver i t).launches = s.launches ∧ (s.deliver i t).blocks = s.blocks ∧ (∀ j, j ≠ i → (s.deliver i t).wave j = s.wave j) ∧
    (s.deliver i t).wave i = { (w.setExec t.lanes) with
      trapMask := t.lanes, trapAddr := t.addr, cause := t.cause, trapPc := w.runStart, skipPc := w.pc + 4, savExec := w.exec, inTrap := true
      hints := Hints.none, pc := BitVec.ofNat 52 (s.launchOf w).desc.trapVec, trapPending := none, susp := none, held := false, stall := .none
      marker := false, entering := true } := by
  have hn : ¬ ((s.wave i).inTrap = true ∨ (s.launchOf (s.wave i)).desc.trapVec = 0) := by simp [ht, hv]
  unfold State.deliver
  dsimp only
  rw [if_neg hn]
  refine ⟨rfl, rfl, fun j hj => ?_, ?_⟩
  · rw [State.wave_modWave, if_neg (fun h => hj h.1.symm)]
    rfl
  · rw [State.wave_modWave, if_pos ⟨rfl, hi⟩]
    rfl

/-- In a handler, or without a vector, the launch ends with FAULT and the trap's cause (R198, R205). -/
theorem State.deliver_ends (s : State) (i : Nat) (t : TrapInfo)
    (h : (s.wave i).inTrap = true ∨ (s.launchOf (s.wave i)).desc.trapVec = 0) :
    s.deliver i t = ((s.loseResvs i).modWave i fun w => { w with trapPending := none, susp := none }).endLaunch
      (s.blockOf (s.wave i)).launch .fault t.cause (s.wave i).pc.toNat (s.blockOf (s.wave i)).index := by
  unfold State.deliver
  dsimp only
  rw [if_pos h]
  rfl

theorem State.Inv.deliver {s : State} (h : s.Inv) (i : Nat) (t : TrapInfo) : (s.deliver i t).Inv := by
  unfold State.deliver
  dsimp only
  split
  · refine State.Inv.endLaunch (State.Inv.modWave (h.loseResvs i) i _ ?_) ..
    exact fun w hw => ⟨hw.of_eq rfl rfl rfl rfl rfl, rfl⟩
  · exact State.Inv.modWave (h.loseResvs i) i _ fun w hw => ⟨(hw.setExec t.lanes).of_eq rfl rfl rfl rfl rfl, rfl⟩

theorem State.Inv.trapWave {s : State} (h : s.Inv) (i : Nat) (t : TrapInfo) : (s.trapWave i t).Inv := by
  unfold State.trapWave
  split
  · exact h.deliver i t
  · exact h.modWave i _ fun w hw => ⟨hw.of_eq rfl rfl rfl rfl rfl, rfl⟩

@[simp] theorem State.trapWave_mem (s : State) (i : Nat) (t : TrapInfo) : (s.trapWave i t).mem = s.mem := by
  unfold State.trapWave
  split
  · exact State.deliver_mem ..
  · rfl

/-- A trap of the issuing wave always goes on. -/
theorem State.trap_next {s : State} {w : Wave} (h : s.cur = some w) (c : BitVec 8) (a : Word64) :
    s.trap c a = .next (s.trapWave s.issuing ⟨c, w.exec, a⟩) := State.onWave_of_cur h _

/-- What a meaning that changes the issuing wave alone can do: it answers a next state, which keeps the invariant. -/
theorem State.Inv.updWave {s t : State} (h : s.Inv) {f : Wave → Wave} (hf : ∀ w, w.Ok → (f w).Ok ∧ (f w).block = w.block)
    (ht : s.updWave f = .next t) : t.Inv := by
  unfold State.updWave State.onWave at ht
  split at ht
  · cases ht
  · next w hw =>
    cases ht
    have hk := h.of_cur hw
    exact h.setCur (hf w hk.1).1 ((hf w hk.1).2 ▸ hk.2)

end Sys2Proof.Machine
end

