-- ==== Sys2Proof/Laws/PerInstr.lean ====
section
/-! SUPPORT. Statements made of every instruction: `Encoding`, that the decoder reads an instruction back from its encoding. -/

namespace Sys2Proof.Laws.Encoding

/-- The decoder gives a well-formed instruction back from the word that encodes it (R83, R102). -/
def Statement (i : Instr) : Prop := ∀ w : Word, i.wf = true → encode i = some w → decode w = .ok i

theorem nop (p : Bool) : Statement (.nop p) := by
  intro word hwf he
  obtain ⟨f0, f1, g0, z0⟩ := layout1 he (m := 0) (c := 0) (q := 0) (by decide) (by decide) (Bool.toNat_lt p)
  refine decode_of_parse ?_ (checkWord_ok rfl (allZero1 z0) hwf nofun nofun)
  unfold parse; rw [field_toNat f0]; change parseMaj00 word = _; unfold parseMaj00; rw [field_toNat (lo := 0) (n := 4) f1, bit_of_toNat (k := 31) g0]; rfl

theorem exit : Statement (.exit) := by
  intro word hwf he
  obtain ⟨f0, f1, q, z0⟩ := layout2 he (m := 0) (c := 1) (q := 1) (by decide) (by decide)
  refine decode_of_parse ?_ (checkWord_ok rfl (allZero1 z0) hwf nofun (fun _ => bit_of_toNat (b := true) q))
  unfold parse; rw [field_toNat f0]; change parseMaj00 word = _; unfold parseMaj00; rw [field_toNat (lo := 0) (n := 4) f1]; rfl

theorem yield : Statement (.yield) := by
  intro word hwf he
  obtain ⟨f0, f1, q, z0⟩ := layout2 he (m := 0) (c := 2) (q := 1) (by decide) (by decide)
  refine decode_of_parse ?_ (checkWord_ok rfl (allZero1 z0) hwf nofun (fun _ => bit_of_toNat (b := true) q))
  unfold parse; rw [field_toNat f0]; change parseMaj00 word = _; unfold parseMaj00; rw [field_toNat (lo := 0) (n := 4) f1]; rfl

theorem brk (p : Bool) (n : BitVec 9) : Statement (.brk p n) := by
  intro word hwf he
  obtain ⟨f0, f1, g0, g1, z0⟩ := layout3 he (m := 0) (c := 3) (q := 0) (by decide) (by decide) (Bool.toNat_lt p) (n.isLt)
  refine decode_of_parse ?_ (checkWord_ok rfl (allZero1 z0) hwf nofun nofun)
  unfold parse; rw [field_toNat f0]; change parseMaj00 word = _; unfold parseMaj00; rw [field_toNat (lo := 0) (n := 4) f1, bit_of_toNat (k := 31) g0, field_of_toNat (lo := 4) (n := 9) (x := n) g1]; rfl

theorem trap (p : Bool) (n : BitVec 9) : Statement (.trap p n) := by
  intro word hwf he
  obtain ⟨f0, f1, g0, g1, z0⟩ := layout3 he (m := 0) (c := 4) (q := 0) (by decide) (by decide) (Bool.toNat_lt p) (n.isLt)
  refine decode_of_parse ?_ (checkWord_ok rfl (allZero1 z0) hwf nofun nofun)
  unfold parse; rw [field_toNat f0]; change parseMaj00 word = _; unfold parseMaj00; rw [field_toNat (lo := 0) (n := 4) f1, bit_of_toNat (k := 31) g0, field_of_toNat (lo := 4) (n := 9) (x := n) g1]; rfl

theorem rett (n : RettMode) : Statement (.rett n) := by
  intro word hwf he
  obtain ⟨f0, f1, q, g0, z0⟩ := layout4 he (m := 0) (c := 5) (q := 1) (by decide) (by decide) ((RettMode.code n).isLt)
  refine decode_of_parse ?_ (checkWord_ok rfl (allZero1 z0) hwf nofun (fun _ => bit_of_toNat (b := true) q))
  unfold parse; rw [field_toNat f0]; change parseMaj00 word = _; unfold parseMaj00; rw [field_toNat (lo := 0) (n := 4) f1, field_of_toNat (lo := 4) (n := 9) (x := RettMode.code n) g0, RettMode.code_ofCode n]; rfl

theorem getc (p : Bool) (s : SReg) (c1 : CReg) : Statement (.getc p s c1) := by
  intro word hwf he
  obtain ⟨f0, f1, g0, g1, g2, z0⟩ := layout5 he (m := 0) (c := 6) (q := 0) (by decide) (by decide) (Bool.toNat_lt p) (s.isLt) (c1.isLt)
  refine decode_of_parse ?_ (checkWord_ok rfl (allZero1 z0) hwf nofun nofun)
  unfold parse; rw [field_toNat f0]; change parseMaj00 word = _; unfold parseMaj00; rw [field_toNat (lo := 0) (n := 4) f1, bit_of_toNat (k := 31) g0, field_of_toNat (lo := 19) (n := 6) (x := s) g1, field_of_toNat (lo := 13) (n := 6) (x := c1) g2]; rfl

theorem setc (p : Bool) (s : SReg) (c1 : CReg) : Statement (.setc p s c1) := by
  intro word hwf he
  obtain ⟨f0, f1, g0, g1, g2, z0⟩ := layout5 he (m := 0) (c := 7) (q := 0) (by decide) (by decide) (Bool.toNat_lt p) (s.isLt) (c1.isLt)
  refine decode_of_parse ?_ (checkWord_ok rfl (allZero1 z0) hwf nofun nofun)
  unfold parse; rw [field_toNat f0]; change parseMaj00 word = _; unfold parseMaj00; rw [field_toNat (lo := 0) (n := 4) f1, bit_of_toNat (k := 31) g0, field_of_toNat (lo := 19) (n := 6) (x := s) g1, field_of_toNat (lo := 13) (n := 6) (x := c1) g2]; rfl

theorem stamp (p : Bool) (s : SReg) : Statement (.stamp p s) := by
  intro word hwf he
  obtain ⟨f0, f1, g0, g1, z0⟩ := layout6 he (m := 0) (c := 8) (q := 0) (by decide) (by decide) (Bool.toNat_lt p) (s.isLt)
  refine decode_of_parse ?_ (checkWord_ok rfl (allZero1 z0) hwf nofun nofun)
  unfold parse; rw [field_toNat f0]; change parseMaj00 word = _; unfold parseMaj00; rw [field_toNat (lo := 0) (n := 4) f1, bit_of_toNat (k := 31) g0, field_of_toNat (lo := 19) (n := 6) (x := s) g1]; rfl

theorem join (p : Bool) : Statement (.join p) := by
  intro word hwf he
  obtain ⟨f0, f1, g0, z0⟩ := layout1 he (m := 0) (c := 9) (q := 0) (by decide) (by decide) (Bool.toNat_lt p)
  refine decode_of_parse ?_ (checkWord_ok rfl (allZero1 z0) hwf nofun nofun)
  unfold parse; rw [field_toNat f0]; change parseMaj00 word = _; unfold parseMaj00; rw [field_toNat (lo := 0) (n := 4) f1, bit_of_toNat (k := 31) g0]; rfl

theorem hintImm (i : BitVec 21) : Statement (.hintImm i) := by
  intro word hwf he
  obtain ⟨f0, f1, q, g0⟩ := layout7 he (m := 1) (c := 0) (q := 0) (by decide) (by decide) (i.isLt)
  refine decode_of_parse ?_ (checkWord_ok rfl rfl hwf (fun _ => bit_of_toNat (b := false) q) nofun)
  unfold parse; rw [field_toNat f0]; change parseMaj01 word = _; unfold parseMaj01; rw [field_toNat (lo := 21) (n := 4) f1, field_of_toNat (lo := 0) (n := 21) (x := i) g0]; rfl

theorem hintOrd (o : Order) (s : Scope) : Statement (.hintOrd o s) := by
  intro word hwf he
  obtain ⟨f0, f1, q, g0, g1, z0⟩ := layout8 he (m := 1) (c := 1) (q := 0) (by decide) (by decide) ((Order.code o).isLt) ((Scope.code s).isLt)
  refine decode_of_parse ?_ (checkWord_ok rfl (allZero1 z0) hwf (fun _ => bit_of_toNat (b := false) q) nofun)
  unfold parse; rw [field_toNat f0]; change parseMaj01 word = _; unfold parseMaj01; rw [field_toNat (lo := 21) (n := 4) f1, field_of_toNat (lo := 19) (n := 2) (x := Order.code o) g0, field_of_toNat (lo := 16) (n := 3) (x := Scope.code s) g1, Order.code_ofCode o, Scope.code_ofCode s]; rfl

theorem hintDep (w : BitVec 8) (e : Bool) (s : BitVec 3) : Statement (.hintDep w e s) := by
  intro word hwf he
  obtain ⟨f0, f1, q, g0, g1, g2, z0⟩ := layout9 he (m := 1) (c := 2) (q := 0) (by decide) (by decide) (w.isLt) (Bool.toNat_lt e) (s.isLt)
  refine decode_of_parse ?_ (checkWord_ok rfl (allZero1 z0) hwf (fun _ => bit_of_toNat (b := false) q) nofun)
  unfold parse; rw [field_toNat f0]; change parseMaj01 word = _; unfold parseMaj01; rw [field_toNat (lo := 21) (n := 4) f1, field_of_toNat (lo := 13) (n := 8) (x := w) g0, bit_of_toNat (k := 12) g1, field_of_toNat (lo := 9) (n := 3) (x := s) g2]; rfl

theorem hintRnd (m : RMode) : Statement (.hintRnd m) := by
  intro word hwf he
  obtain ⟨f0, f1, q, g0, z0⟩ := layout10 he (m := 1) (c := 3) (q := 0) (by decide) (by decide) ((RMode.code m).isLt)
  refine decode_of_parse ?_ (checkWord_ok rfl (allZero1 z0) hwf (fun _ => bit_of_toNat (b := false) q) nofun)
  unfold parse; rw [field_toNat f0]; change parseMaj01 word = _; unfold parseMaj01; rw [field_toNat (lo := 21) (n := 4) f1, field_of_toNat (lo := 18) (n := 3) (x := RMode.code m) g0, RMode.code_ofCode m]; rfl

theorem hintOff (o : BitVec 21) : Statement (.hintOff o) := by
  intro word hwf he
  obtain ⟨f0, f1, q, g0⟩ := layout7 he (m := 1) (c := 4) (q := 0) (by decide) (by decide) (o.isLt)
  refine decode_of_parse ?_ (checkWord_ok rfl rfl hwf (fun _ => bit_of_toNat (b := false) q) nofun)
  unfold parse; rw [field_toNat f0]; change parseMaj01 word = _; unfold parseMaj01; rw [field_toNat (lo := 21) (n := 4) f1, field_of_toNat (lo := 0) (n := 21) (x := o) g0]; rfl

theorem br (c1 : BrCond) (m : MReg) (o : BitVec 18) : Statement (.br c1 m o) := by
  intro word hwf he
  obtain ⟨f0, q, g0, g1, g2⟩ := layout11 he (m := 2) (q := 1) (by decide) ((BrCond.code c1).isLt) (m.isLt) (o.isLt)
  refine decode_of_parse ?_ (checkWord_ok rfl rfl hwf nofun (fun _ => bit_of_toNat (b := true) q))
  unfold parse; rw [field_toNat f0]; change parseMaj02 word = _; unfold parseMaj02; rw [field_of_toNat (lo := 21) (n := 4) (x := BrCond.code c1) g0, field_of_toNat (lo := 18) (n := 3) (x := m) g1, field_of_toNat (lo := 0) (n := 18) (x := o) g2, BrCond.code_ofCode c1]; rfl

theorem jmp (o : BitVec 25) : Statement (.jmp o) := by
  intro word hwf he
  obtain ⟨f0, q, g0⟩ := layout12 he (m := 3) (q := 1) (by decide) (o.isLt)
  refine decode_of_parse ?_ (checkWord_ok rfl rfl hwf nofun (fun _ => bit_of_toNat (b := true) q))
  unfold parse; rw [field_toNat f0]; change parseMaj03 word = _; unfold parseMaj03; rw [field_of_toNat (lo := 0) (n := 25) (x := o) g0]

theorem call (o : BitVec 25) : Statement (.call o) := by
  intro word hwf he
  obtain ⟨f0, q, g0⟩ := layout12 he (m := 4) (q := 1) (by decide) (o.isLt)
  refine decode_of_parse ?_ (checkWord_ok rfl rfl hwf nofun (fun _ => bit_of_toNat (b := true) q))
  unfold parse; rw [field_toNat f0]; change parseMaj04 word = _; unfold parseMaj04; rw [field_of_toNat (lo := 0) (n := 25) (x := o) g0]

theorem tramp (o : BitVec 25) : Statement (.tramp o) := by
  intro word hwf he
  obtain ⟨f0, q, g0⟩ := layout12 he (m := 5) (q := 1) (by decide) (o.isLt)
  refine decode_of_parse ?_ (checkWord_ok rfl rfl hwf nofun (fun _ => bit_of_toNat (b := true) q))
  unfold parse; rw [field_toNat f0]; change parseMaj05 word = _; unfold parseMaj05; rw [field_of_toNat (lo := 0) (n := 25) (x := o) g0]

theorem jmpi (s : SReg) : Statement (.jmpi s) := by
  intro word hwf he
  obtain ⟨f0, f1, q, g0, z0⟩ := layout13 he (m := 6) (c := 0) (q := 1) (by decide) (by decide) (s.isLt)
  refine decode_of_parse ?_ (checkWord_ok rfl (allZero1 z0) hwf nofun (fun _ => bit_of_toNat (b := true) q))
  unfold parse; rw [field_toNat f0]; change parseMaj06 word = _; unfold parseMaj06; rw [field_toNat (lo := 16) (n := 3) f1, field_of_toNat (lo := 19) (n := 6) (x := s) g0]; rfl

theorem calli (s : SReg) : Statement (.calli s) := by
  intro word hwf he
  obtain ⟨f0, f1, q, g0, z0⟩ := layout13 he (m := 6) (c := 1) (q := 1) (by decide) (by decide) (s.isLt)
  refine decode_of_parse ?_ (checkWord_ok rfl (allZero1 z0) hwf nofun (fun _ => bit_of_toNat (b := true) q))
  unfold parse; rw [field_toNat f0]; change parseMaj06 word = _; unfold parseMaj06; rw [field_toNat (lo := 16) (n := 3) f1, field_of_toNat (lo := 19) (n := 6) (x := s) g0]; rfl

theorem ret : Statement (.ret) := by
  intro word hwf he
  obtain ⟨f0, f1, q, z0, z1⟩ := layout14 he (m := 6) (c := 2) (q := 1) (by decide) (by decide)
  refine decode_of_parse ?_ (checkWord_ok rfl (allZero2 z0 z1) hwf nofun (fun _ => bit_of_toNat (b := true) q))
  unfold parse; rw [field_toNat f0]; change parseMaj06 word = _; unfold parseMaj06; rw [field_toNat (lo := 16) (n := 3) f1]; rfl

theorem split (m : MReg) (o : BitVec 22) : Statement (.split m o) := by
  intro word hwf he
  obtain ⟨f0, q, g0, g1⟩ := layout15 he (m := 7) (q := 1) (by decide) (m.isLt) (o.isLt)
  refine decode_of_parse ?_ (checkWord_ok rfl rfl hwf nofun (fun _ => bit_of_toNat (b := true) q))
  unfold parse; rw [field_toNat f0]; change parseMaj07 word = _; unfold parseMaj07; rw [field_of_toNat (lo := 22) (n := 3) (x := m) g0, field_of_toNat (lo := 0) (n := 22) (x := o) g1]

theorem fence (p : Bool) (r : BitVec 8) (u : BitVec 8) (c1 : Scope) : Statement (.fence p r u c1) := by
  intro word hwf he
  obtain ⟨f0, g0, g1, g2, g3, z0⟩ := layout16 he (m := 8) (q := 0) (by decide) (Bool.toNat_lt p) (r.isLt) (u.isLt) ((Scope.code c1).isLt)
  refine decode_of_parse ?_ (checkWord_ok rfl (allZero1 z0) hwf nofun nofun)
  unfold parse; rw [field_toNat f0]; change parseMaj08 word = _; unfold parseMaj08; rw [bit_of_toNat (k := 31) g0, field_of_toNat (lo := 17) (n := 8) (x := r) g1, field_of_toNat (lo := 9) (n := 8) (x := u) g2, field_of_toNat (lo := 6) (n := 3) (x := Scope.code c1) g3, Scope.code_ofCode c1]; rfl

theorem sadd (p : Bool) (d : SReg) (a : SReg) (b : SReg) : Statement (.sadd p d a b) := by
  intro word hwf he
  obtain ⟨f0, f1, g0, g1, g2, g3⟩ := layout17 he (m := 9) (c := 0) (q := 0) (by decide) (by decide) (Bool.toNat_lt p) (d.isLt) (a.isLt) (b.isLt)
  refine decode_of_parse ?_ (checkWord_ok rfl rfl hwf nofun nofun)
  unfold parse; rw [field_toNat f0]; change parseMaj09 word = _; unfold parseMaj09; rw [field_toNat (lo := 0) (n := 7) f1, bit_of_toNat (k := 31) g0, field_of_toNat (lo := 19) (n := 6) (x := d) g1, field_of_toNat (lo := 13) (n := 6) (x := a) g2, field_of_toNat (lo := 7) (n := 6) (x := b) g3]; rfl

theorem ssub (p : Bool) (d : SReg) (a : SReg) (b : SReg) : Statement (.ssub p d a b) := by
  intro word hwf he
  obtain ⟨f0, f1, g0, g1, g2, g3⟩ := layout17 he (m := 9) (c := 1) (q := 0) (by decide) (by decide) (Bool.toNat_lt p) (d.isLt) (a.isLt) (b.isLt)
  refine decode_of_parse ?_ (checkWord_ok rfl rfl hwf nofun nofun)
  unfold parse; rw [field_toNat f0]; change parseMaj09 word = _; unfold parseMaj09; rw [field_toNat (lo := 0) (n := 7) f1, bit_of_toNat (k := 31) g0, field_of_toNat (lo := 19) (n := 6) (x := d) g1, field_of_toNat (lo := 13) (n := 6) (x := a) g2, field_of_toNat (lo := 7) (n := 6) (x := b) g3]; rfl

theorem smul (p : Bool) (d : SReg) (a : SReg) (b : SReg) : Statement (.smul p d a b) := by
  intro word hwf he
  obtain ⟨f0, f1, g0, g1, g2, g3⟩ := layout17 he (m := 9) (c := 2) (q := 0) (by decide) (by decide) (Bool.toNat_lt p) (d.isLt) (a.isLt) (b.isLt)
  refine decode_of_parse ?_ (checkWord_ok rfl rfl hwf nofun nofun)
  unfold parse; rw [field_toNat f0]; change parseMaj09 word = _; unfold parseMaj09; rw [field_toNat (lo := 0) (n := 7) f1, bit_of_toNat (k := 31) g0, field_of_toNat (lo := 19) (n := 6) (x := d) g1, field_of_toNat (lo := 13) (n := 6) (x := a) g2, field_of_toNat (lo := 7) (n := 6) (x := b) g3]; rfl

theorem smulh (p : Bool) (d : SReg) (a : SReg) (b : SReg) : Statement (.smulh p d a b) := by
  intro word hwf he
  obtain ⟨f0, f1, g0, g1, g2, g3⟩ := layout17 he (m := 9) (c := 3) (q := 0) (by decide) (by decide) (Bool.toNat_lt p) (d.isLt) (a.isLt) (b.isLt)
  refine decode_of_parse ?_ (checkWord_ok rfl rfl hwf nofun nofun)
  unfold parse; rw [field_toNat f0]; change parseMaj09 word = _; unfold parseMaj09; rw [field_toNat (lo := 0) (n := 7) f1, bit_of_toNat (k := 31) g0, field_of_toNat (lo := 19) (n := 6) (x := d) g1, field_of_toNat (lo := 13) (n := 6) (x := a) g2, field_of_toNat (lo := 7) (n := 6) (x := b) g3]; rfl

theorem smulhu (p : Bool) (d : SReg) (a : SReg) (b : SReg) : Statement (.smulhu p d a b) := by
  intro word hwf he
  obtain ⟨f0, f1, g0, g1, g2, g3⟩ := layout17 he (m := 9) (c := 4) (q := 0) (by decide) (by decide) (Bool.toNat_lt p) (d.isLt) (a.isLt) (b.isLt)
  refine decode_of_parse ?_ (checkWord_ok rfl rfl hwf nofun nofun)
  unfold parse; rw [field_toNat f0]; change parseMaj09 word = _; unfold parseMaj09; rw [field_toNat (lo := 0) (n := 7) f1, bit_of_toNat (k := 31) g0, field_of_toNat (lo := 19) (n := 6) (x := d) g1, field_of_toNat (lo := 13) (n := 6) (x := a) g2, field_of_toNat (lo := 7) (n := 6) (x := b) g3]; rfl

theorem sand (p : Bool) (d : SReg) (a : SReg) (b : SReg) : Statement (.sand p d a b) := by
  intro word hwf he
  obtain ⟨f0, f1, g0, g1, g2, g3⟩ := layout17 he (m := 9) (c := 5) (q := 0) (by decide) (by decide) (Bool.toNat_lt p) (d.isLt) (a.isLt) (b.isLt)
  refine decode_of_parse ?_ (checkWord_ok rfl rfl hwf nofun nofun)
  unfold parse; rw [field_toNat f0]; change parseMaj09 word = _; unfold parseMaj09; rw [field_toNat (lo := 0) (n := 7) f1, bit_of_toNat (k := 31) g0, field_of_toNat (lo := 19) (n := 6) (x := d) g1, field_of_toNat (lo := 13) (n := 6) (x := a) g2, field_of_toNat (lo := 7) (n := 6) (x := b) g3]; rfl

theorem sor (p : Bool) (d : SReg) (a : SReg) (b : SReg) : Statement (.sor p d a b) := by
  intro word hwf he
  obtain ⟨f0, f1, g0, g1, g2, g3⟩ := layout17 he (m := 9) (c := 6) (q := 0) (by decide) (by decide) (Bool.toNat_lt p) (d.isLt) (a.isLt) (b.isLt)
  refine decode_of_parse ?_ (checkWord_ok rfl rfl hwf nofun nofun)
  unfold parse; rw [field_toNat f0]; change parseMaj09 word = _; unfold parseMaj09; rw [field_toNat (lo := 0) (n := 7) f1, bit_of_toNat (k := 31) g0, field_of_toNat (lo := 19) (n := 6) (x := d) g1, field_of_toNat (lo := 13) (n := 6) (x := a) g2, field_of_toNat (lo := 7) (n := 6) (x := b) g3]; rfl

theorem sxor (p : Bool) (d : SReg) (a : SReg) (b : SReg) : Statement (.sxor p d a b) := by
  intro word hwf he
  obtain ⟨f0, f1, g0, g1, g2, g3⟩ := layout17 he (m := 9) (c := 7) (q := 0) (by decide) (by decide) (Bool.toNat_lt p) (d.isLt) (a.isLt) (b.isLt)
  refine decode_of_parse ?_ (checkWord_ok rfl rfl hwf nofun nofun)
  unfold parse; rw [field_toNat f0]; change parseMaj09 word = _; unfold parseMaj09; rw [field_toNat (lo := 0) (n := 7) f1, bit_of_toNat (k := 31) g0, field_of_toNat (lo := 19) (n := 6) (x := d) g1, field_of_toNat (lo := 13) (n := 6) (x := a) g2, field_of_toNat (lo := 7) (n := 6) (x := b) g3]; rfl

theorem sandn (p : Bool) (d : SReg) (a : SReg) (b : SReg) : Statement (.sandn p d a b) := by
  intro word hwf he
  obtain ⟨f0, f1, g0, g1, g2, g3⟩ := layout17 he (m := 9) (c := 8) (q := 0) (by decide) (by decide) (Bool.toNat_lt p) (d.isLt) (a.isLt) (b.isLt)
  refine decode_of_parse ?_ (checkWord_ok rfl rfl hwf nofun nofun)
  unfold parse; rw [field_toNat f0]; change parseMaj09 word = _; unfold parseMaj09; rw [field_toNat (lo := 0) (n := 7) f1, bit_of_toNat (k := 31) g0, field_of_toNat (lo := 19) (n := 6) (x := d) g1, field_of_toNat (lo := 13) (n := 6) (x := a) g2, field_of_toNat (lo := 7) (n := 6) (x := b) g3]; rfl

theorem sshl (p : Bool) (d : SReg) (a : SReg) (b : SReg) : Statement (.sshl p d a b) := by
  intro word hwf he
  obtain ⟨f0, f1, g0, g1, g2, g3⟩ := layout17 he (m := 9) (c := 9) (q := 0) (by decide) (by decide) (Bool.toNat_lt p) (d.isLt) (a.isLt) (b.isLt)
  refine decode_of_parse ?_ (checkWord_ok rfl rfl hwf nofun nofun)
  unfold parse; rw [field_toNat f0]; change parseMaj09 word = _; unfold parseMaj09; rw [field_toNat (lo := 0) (n := 7) f1, bit_of_toNat (k := 31) g0, field_of_toNat (lo := 19) (n := 6) (x := d) g1, field_of_toNat (lo := 13) (n := 6) (x := a) g2, field_of_toNat (lo := 7) (n := 6) (x := b) g3]; rfl

theorem sshr (p : Bool) (d : SReg) (a : SReg) (b : SReg) : Statement (.sshr p d a b) := by
  intro word hwf he
  obtain ⟨f0, f1, g0, g1, g2, g3⟩ := layout17 he (m := 9) (c := 10) (q := 0) (by decide) (by decide) (Bool.toNat_lt p) (d.isLt) (a.isLt) (b.isLt)
  refine decode_of_parse ?_ (checkWord_ok rfl rfl hwf nofun nofun)
  unfold parse; rw [field_toNat f0]; change parseMaj09 word = _; unfold parseMaj09; rw [field_toNat (lo := 0) (n := 7) f1, bit_of_toNat (k := 31) g0, field_of_toNat (lo := 19) (n := 6) (x := d) g1, field_of_toNat (lo := 13) (n := 6) (x := a) g2, field_of_toNat (lo := 7) (n := 6) (x := b) g3]; rfl

theorem ssra (p : Bool) (d : SReg) (a : SReg) (b : SReg) : Statement (.ssra p d a b) := by
  intro word hwf he
  obtain ⟨f0, f1, g0, g1, g2, g3⟩ := layout17 he (m := 9) (c := 11) (q := 0) (by decide) (by decide) (Bool.toNat_lt p) (d.isLt) (a.isLt) (b.isLt)
  refine decode_of_parse ?_ (checkWord_ok rfl rfl hwf nofun nofun)
  unfold parse; rw [field_toNat f0]; change parseMaj09 word = _; unfold parseMaj09; rw [field_toNat (lo := 0) (n := 7) f1, bit_of_toNat (k := 31) g0, field_of_toNat (lo := 19) (n := 6) (x := d) g1, field_of_toNat (lo := 13) (n := 6) (x := a) g2, field_of_toNat (lo := 7) (n := 6) (x := b) g3]; rfl

theorem smin (p : Bool) (d : SReg) (a : SReg) (b : SReg) : Statement (.smin p d a b) := by
  intro word hwf he
  obtain ⟨f0, f1, g0, g1, g2, g3⟩ := layout17 he (m := 9) (c := 12) (q := 0) (by decide) (by decide) (Bool.toNat_lt p) (d.isLt) (a.isLt) (b.isLt)
  refine decode_of_parse ?_ (checkWord_ok rfl rfl hwf nofun nofun)
  unfold parse; rw [field_toNat f0]; change parseMaj09 word = _; unfold parseMaj09; rw [field_toNat (lo := 0) (n := 7) f1, bit_of_toNat (k := 31) g0, field_of_toNat (lo := 19) (n := 6) (x := d) g1, field_of_toNat (lo := 13) (n := 6) (x := a) g2, field_of_toNat (lo := 7) (n := 6) (x := b) g3]; rfl

theorem smax (p : Bool) (d : SReg) (a : SReg) (b : SReg) : Statement (.smax p d a b) := by
  intro word hwf he
  obtain ⟨f0, f1, g0, g1, g2, g3⟩ := layout17 he (m := 9) (c := 13) (q := 0) (by decide) (by decide) (Bool.toNat_lt p) (d.isLt) (a.isLt) (b.isLt)
  refine decode_of_parse ?_ (checkWord_ok rfl rfl hwf nofun nofun)
  unfold parse; rw [field_toNat f0]; change parseMaj09 word = _; unfold parseMaj09; rw [field_toNat (lo := 0) (n := 7) f1, bit_of_toNat (k := 31) g0, field_of_toNat (lo := 19) (n := 6) (x := d) g1, field_of_toNat (lo := 13) (n := 6) (x := a) g2, field_of_toNat (lo := 7) (n := 6) (x := b) g3]; rfl

theorem sumin (p : Bool) (d : SReg) (a : SReg) (b : SReg) : Statement (.sumin p d a b) := by
  intro word hwf he
  obtain ⟨f0, f1, g0, g1, g2, g3⟩ := layout17 he (m := 9) (c := 14) (q := 0) (by decide) (by decide) (Bool.toNat_lt p) (d.isLt) (a.isLt) (b.isLt)
  refine decode_of_parse ?_ (checkWord_ok rfl rfl hwf nofun nofun)
  unfold parse; rw [field_toNat f0]; change parseMaj09 word = _; unfold parseMaj09; rw [field_toNat (lo := 0) (n := 7) f1, bit_of_toNat (k := 31) g0, field_of_toNat (lo := 19) (n := 6) (x := d) g1, field_of_toNat (lo := 13) (n := 6) (x := a) g2, field_of_toNat (lo := 7) (n := 6) (x := b) g3]; rfl

theorem sumax (p : Bool) (d : SReg) (a : SReg) (b : SReg) : Statement (.sumax p d a b) := by
  intro word hwf he
  obtain ⟨f0, f1, g0, g1, g2, g3⟩ := layout17 he (m := 9) (c := 15) (q := 0) (by decide) (by decide) (Bool.toNat_lt p) (d.isLt) (a.isLt) (b.isLt)
  refine decode_of_parse ?_ (checkWord_ok rfl rfl hwf nofun nofun)
  unfold parse; rw [field_toNat f0]; change parseMaj09 word = _; unfold parseMaj09; rw [field_toNat (lo := 0) (n := 7) f1, bit_of_toNat (k := 31) g0, field_of_toNat (lo := 19) (n := 6) (x := d) g1, field_of_toNat (lo := 13) (n := 6) (x := a) g2, field_of_toNat (lo := 7) (n := 6) (x := b) g3]; rfl

theorem sadd64 (p : Bool) (d : SReg) (a : SReg) (b : SReg) : Statement (.sadd64 p d a b) := by
  intro word hwf he
  obtain ⟨f0, f1, g0, g1, g2, g3⟩ := layout17 he (m := 9) (c := 16) (q := 0) (by decide) (by decide) (Bool.toNat_lt p) (d.isLt) (a.isLt) (b.isLt)
  refine decode_of_parse ?_ (checkWord_ok rfl rfl hwf nofun nofun)
  unfold parse; rw [field_toNat f0]; change parseMaj09 word = _; unfold parseMaj09; rw [field_toNat (lo := 0) (n := 7) f1, bit_of_toNat (k := 31) g0, field_of_toNat (lo := 19) (n := 6) (x := d) g1, field_of_toNat (lo := 13) (n := 6) (x := a) g2, field_of_toNat (lo := 7) (n := 6) (x := b) g3]; rfl

theorem ssub64 (p : Bool) (d : SReg) (a : SReg) (b : SReg) : Statement (.ssub64 p d a b) := by
  intro word hwf he
  obtain ⟨f0, f1, g0, g1, g2, g3⟩ := layout17 he (m := 9) (c := 17) (q := 0) (by decide) (by decide) (Bool.toNat_lt p) (d.isLt) (a.isLt) (b.isLt)
  refine decode_of_parse ?_ (checkWord_ok rfl rfl hwf nofun nofun)
  unfold parse; rw [field_toNat f0]; change parseMaj09 word = _; unfold parseMaj09; rw [field_toNat (lo := 0) (n := 7) f1, bit_of_toNat (k := 31) g0, field_of_toNat (lo := 19) (n := 6) (x := d) g1, field_of_toNat (lo := 13) (n := 6) (x := a) g2, field_of_toNat (lo := 7) (n := 6) (x := b) g3]; rfl

theorem smov (p : Bool) (d : SReg) (a : SReg) : Statement (.smov p d a) := by
  intro word hwf he
  obtain ⟨f0, f1, g0, g1, g2, z0⟩ := layout18 he (m := 9) (c := 18) (q := 0) (by decide) (by decide) (Bool.toNat_lt p) (d.isLt) (a.isLt)
  refine decode_of_parse ?_ (checkWord_ok rfl (allZero1 z0) hwf nofun nofun)
  unfold parse; rw [field_toNat f0]; change parseMaj09 word = _; unfold parseMaj09; rw [field_toNat (lo := 0) (n := 7) f1, bit_of_toNat (k := 31) g0, field_of_toNat (lo := 19) (n := 6) (x := d) g1, field_of_toNat (lo := 13) (n := 6) (x := a) g2]; rfl

theorem ssel (p : Bool) (d : SReg) (a : SReg) (b : SReg) : Statement (.ssel p d a b) := by
  intro word hwf he
  obtain ⟨f0, f1, g0, g1, g2, g3⟩ := layout17 he (m := 9) (c := 19) (q := 0) (by decide) (by decide) (Bool.toNat_lt p) (d.isLt) (a.isLt) (b.isLt)
  refine decode_of_parse ?_ (checkWord_ok rfl rfl hwf nofun nofun)
  unfold parse; rw [field_toNat f0]; change parseMaj09 word = _; unfold parseMaj09; rw [field_toNat (lo := 0) (n := 7) f1, bit_of_toNat (k := 31) g0, field_of_toNat (lo := 19) (n := 6) (x := d) g1, field_of_toNat (lo := 13) (n := 6) (x := a) g2, field_of_toNat (lo := 7) (n := 6) (x := b) g3]; rfl

theorem spopc (p : Bool) (d : SReg) (a : SReg) : Statement (.spopc p d a) := by
  intro word hwf he
  obtain ⟨f0, f1, g0, g1, g2, z0⟩ := layout18 he (m := 9) (c := 20) (q := 0) (by decide) (by decide) (Bool.toNat_lt p) (d.isLt) (a.isLt)
  refine decode_of_parse ?_ (checkWord_ok rfl (allZero1 z0) hwf nofun nofun)
  unfold parse; rw [field_toNat f0]; change parseMaj09 word = _; unfold parseMaj09; rw [field_toNat (lo := 0) (n := 7) f1, bit_of_toNat (k := 31) g0, field_of_toNat (lo := 19) (n := 6) (x := d) g1, field_of_toNat (lo := 13) (n := 6) (x := a) g2]; rfl

theorem sclz (p : Bool) (d : SReg) (a : SReg) : Statement (.sclz p d a) := by
  intro word hwf he
  obtain ⟨f0, f1, g0, g1, g2, z0⟩ := layout18 he (m := 9) (c := 21) (q := 0) (by decide) (by decide) (Bool.toNat_lt p) (d.isLt) (a.isLt)
  refine decode_of_parse ?_ (checkWord_ok rfl (allZero1 z0) hwf nofun nofun)
  unfold parse; rw [field_toNat f0]; change parseMaj09 word = _; unfold parseMaj09; rw [field_toNat (lo := 0) (n := 7) f1, bit_of_toNat (k := 31) g0, field_of_toNat (lo := 19) (n := 6) (x := d) g1, field_of_toNat (lo := 13) (n := 6) (x := a) g2]; rfl

theorem scmp (p : Bool) (a : SReg) (b : SReg) (c1 : Cond) : Statement (.scmp p a b c1) := by
  intro word hwf he
  obtain ⟨f0, f1, g0, g1, g2, g3, z0⟩ := layout19 he (m := 10) (c := 0) (q := 0) (by decide) (by decide) (Bool.toNat_lt p) (a.isLt) (b.isLt) ((Cond.code c1).isLt)
  refine decode_of_parse ?_ (checkWord_ok rfl (allZero1 z0) hwf nofun nofun)
  unfold parse; rw [field_toNat f0]; change parseMaj0A word = _; unfold parseMaj0A; rw [field_toNat (lo := 4) (n := 3) f1, bit_of_toNat (k := 31) g0, field_of_toNat (lo := 13) (n := 6) (x := a) g1, field_of_toNat (lo := 7) (n := 6) (x := b) g2, field_of_toNat (lo := 0) (n := 4) (x := Cond.code c1) g3, Cond.code_ofCode c1]; rfl

theorem scmp64 (p : Bool) (a : SReg) (b : SReg) (c1 : Cond) : Statement (.scmp64 p a b c1) := by
  intro word hwf he
  obtain ⟨f0, f1, g0, g1, g2, g3, z0⟩ := layout19 he (m := 10) (c := 1) (q := 0) (by decide) (by decide) (Bool.toNat_lt p) (a.isLt) (b.isLt) ((Cond.code c1).isLt)
  refine decode_of_parse ?_ (checkWord_ok rfl (allZero1 z0) hwf nofun nofun)
  unfold parse; rw [field_toNat f0]; change parseMaj0A word = _; unfold parseMaj0A; rw [field_toNat (lo := 4) (n := 3) f1, bit_of_toNat (k := 31) g0, field_of_toNat (lo := 13) (n := 6) (x := a) g1, field_of_toNat (lo := 7) (n := 6) (x := b) g2, field_of_toNat (lo := 0) (n := 4) (x := Cond.code c1) g3, Cond.code_ofCode c1]; rfl

theorem saddi (p : Bool) (d : SReg) (a : SReg) (i : BitVec 10) : Statement (.saddi p d a i) := by
  intro word hwf he
  obtain ⟨f0, f1, g0, g1, g2, g3⟩ := layout20 he (m := 11) (c := 0) (q := 0) (by decide) (by decide) (Bool.toNat_lt p) (d.isLt) (a.isLt) (i.isLt)
  refine decode_of_parse ?_ (checkWord_ok rfl rfl hwf nofun nofun)
  unfold parse; rw [field_toNat f0]; change parseMaj0B word = _; unfold parseMaj0B; rw [field_toNat (lo := 10) (n := 3) f1, bit_of_toNat (k := 31) g0, field_of_toNat (lo := 19) (n := 6) (x := d) g1, field_of_toNat (lo := 13) (n := 6) (x := a) g2, field_of_toNat (lo := 0) (n := 10) (x := i) g3]; rfl

theorem sandi (p : Bool) (d : SReg) (a : SReg) (i : BitVec 10) : Statement (.sandi p d a i) := by
  intro word hwf he
  obtain ⟨f0, f1, g0, g1, g2, g3⟩ := layout20 he (m := 11) (c := 1) (q := 0) (by decide) (by decide) (Bool.toNat_lt p) (d.isLt) (a.isLt) (i.isLt)
  refine decode_of_parse ?_ (checkWord_ok rfl rfl hwf nofun nofun)
  unfold parse; rw [field_toNat f0]; change parseMaj0B word = _; unfold parseMaj0B; rw [field_toNat (lo := 10) (n := 3) f1, bit_of_toNat (k := 31) g0, field_of_toNat (lo := 19) (n := 6) (x := d) g1, field_of_toNat (lo := 13) (n := 6) (x := a) g2, field_of_toNat (lo := 0) (n := 10) (x := i) g3]; rfl

theorem sori (p : Bool) (d : SReg) (a : SReg) (i : BitVec 10) : Statement (.sori p d a i) := by
  intro word hwf he
  obtain ⟨f0, f1, g0, g1, g2, g3⟩ := layout20 he (m := 11) (c := 2) (q := 0) (by decide) (by decide) (Bool.toNat_lt p) (d.isLt) (a.isLt) (i.isLt)
  refine decode_of_parse ?_ (checkWord_ok rfl rfl hwf nofun nofun)
  unfold parse; rw [field_toNat f0]; change parseMaj0B word = _; unfold parseMaj0B; rw [field_toNat (lo := 10) (n := 3) f1, bit_of_toNat (k := 31) g0, field_of_toNat (lo := 19) (n := 6) (x := d) g1, field_of_toNat (lo := 13) (n := 6) (x := a) g2, field_of_toNat (lo := 0) (n := 10) (x := i) g3]; rfl

theorem sxori (p : Bool) (d : SReg) (a : SReg) (i : BitVec 10) : Statement (.sxori p d a i) := by
  intro word hwf he
  obtain ⟨f0, f1, g0, g1, g2, g3⟩ := layout20 he (m := 11) (c := 3) (q := 0) (by decide) (by decide) (Bool.toNat_lt p) (d.isLt) (a.isLt) (i.isLt)
  refine decode_of_parse ?_ (checkWord_ok rfl rfl hwf nofun nofun)
  unfold parse; rw [field_toNat f0]; change parseMaj0B word = _; unfold parseMaj0B; rw [field_toNat (lo := 10) (n := 3) f1, bit_of_toNat (k := 31) g0, field_of_toNat (lo := 19) (n := 6) (x := d) g1, field_of_toNat (lo := 13) (n := 6) (x := a) g2, field_of_toNat (lo := 0) (n := 10) (x := i) g3]; rfl

theorem sshli (p : Bool) (d : SReg) (a : SReg) (i : BitVec 10) : Statement (.sshli p d a i) := by
  intro word hwf he
  obtain ⟨f0, f1, g0, g1, g2, g3⟩ := layout20 he (m := 11) (c := 4) (q := 0) (by decide) (by decide) (Bool.toNat_lt p) (d.isLt) (a.isLt) (i.isLt)
  refine decode_of_parse ?_ (checkWord_ok rfl rfl hwf nofun nofun)
  unfold parse; rw [field_toNat f0]; change parseMaj0B word = _; unfold parseMaj0B; rw [field_toNat (lo := 10) (n := 3) f1, bit_of_toNat (k := 31) g0, field_of_toNat (lo := 19) (n := 6) (x := d) g1, field_of_toNat (lo := 13) (n := 6) (x := a) g2, field_of_toNat (lo := 0) (n := 10) (x := i) g3]; rfl

theorem sshri (p : Bool) (d : SReg) (a : SReg) (i : BitVec 10) : Statement (.sshri p d a i) := by
  intro word hwf he
  obtain ⟨f0, f1, g0, g1, g2, g3⟩ := layout20 he (m := 11) (c := 5) (q := 0) (by decide) (by decide) (Bool.toNat_lt p) (d.isLt) (a.isLt) (i.isLt)
  refine decode_of_parse ?_ (checkWord_ok rfl rfl hwf nofun nofun)
  unfold parse; rw [field_toNat f0]; change parseMaj0B word = _; unfold parseMaj0B; rw [field_toNat (lo := 10) (n := 3) f1, bit_of_toNat (k := 31) g0, field_of_toNat (lo := 19) (n := 6) (x := d) g1, field_of_toNat (lo := 13) (n := 6) (x := a) g2, field_of_toNat (lo := 0) (n := 10) (x := i) g3]; rfl

theorem ssrai (p : Bool) (d : SReg) (a : SReg) (i : BitVec 10) : Statement (.ssrai p d a i) := by
  intro word hwf he
  obtain ⟨f0, f1, g0, g1, g2, g3⟩ := layout20 he (m := 11) (c := 6) (q := 0) (by decide) (by decide) (Bool.toNat_lt p) (d.isLt) (a.isLt) (i.isLt)
  refine decode_of_parse ?_ (checkWord_ok rfl rfl hwf nofun nofun)
  unfold parse; rw [field_toNat f0]; change parseMaj0B word = _; unfold parseMaj0B; rw [field_toNat (lo := 10) (n := 3) f1, bit_of_toNat (k := 31) g0, field_of_toNat (lo := 19) (n := 6) (x := d) g1, field_of_toNat (lo := 13) (n := 6) (x := a) g2, field_of_toNat (lo := 0) (n := 10) (x := i) g3]; rfl

theorem sli (p : Bool) (d : SReg) (i : BitVec 19) : Statement (.sli p d i) := by
  intro word hwf he
  obtain ⟨f0, g0, g1, g2⟩ := layout21 he (m := 12) (q := 0) (by decide) (Bool.toNat_lt p) (d.isLt) (i.isLt)
  refine decode_of_parse ?_ (checkWord_ok rfl rfl hwf nofun nofun)
  unfold parse; rw [field_toNat f0]; change parseMaj0C word = _; unfold parseMaj0C; rw [bit_of_toNat (k := 31) g0, field_of_toNat (lo := 19) (n := 6) (x := d) g1, field_of_toNat (lo := 0) (n := 19) (x := i) g2]

theorem slui (p : Bool) (d : SReg) (i : BitVec 13) : Statement (.slui p d i) := by
  intro word hwf he
  obtain ⟨f0, g0, g1, g2, z0⟩ := layout22 he (m := 13) (q := 0) (by decide) (Bool.toNat_lt p) (d.isLt) (i.isLt)
  refine decode_of_parse ?_ (checkWord_ok rfl (allZero1 z0) hwf nofun nofun)
  unfold parse; rw [field_toNat f0]; change parseMaj0D word = _; unfold parseMaj0D; rw [bit_of_toNat (k := 31) g0, field_of_toNat (lo := 19) (n := 6) (x := d) g1, field_of_toNat (lo := 6) (n := 13) (x := i) g2]

theorem mand (p : Bool) (d : MReg) (a : MReg) (b : MReg) : Statement (.mand p d a b) := by
  intro word hwf he
  obtain ⟨f0, f1, g0, g1, g2, g3, z0⟩ := layout23 he (m := 14) (c := 0) (q := 0) (by decide) (by decide) (Bool.toNat_lt p) (d.isLt) (a.isLt) (b.isLt)
  refine decode_of_parse ?_ (checkWord_ok rfl (allZero1 z0) hwf nofun nofun)
  unfold parse; rw [field_toNat f0]; change parseMaj0E word = _; unfold parseMaj0E; rw [field_toNat (lo := 0) (n := 4) f1, bit_of_toNat (k := 31) g0, field_of_toNat (lo := 22) (n := 3) (x := d) g1, field_of_toNat (lo := 19) (n := 3) (x := a) g2, field_of_toNat (lo := 16) (n := 3) (x := b) g3]; rfl

theorem mor (p : Bool) (d : MReg) (a : MReg) (b : MReg) : Statement (.mor p d a b) := by
  intro word hwf he
  obtain ⟨f0, f1, g0, g1, g2, g3, z0⟩ := layout23 he (m := 14) (c := 1) (q := 0) (by decide) (by decide) (Bool.toNat_lt p) (d.isLt) (a.isLt) (b.isLt)
  refine decode_of_parse ?_ (checkWord_ok rfl (allZero1 z0) hwf nofun nofun)
  unfold parse; rw [field_toNat f0]; change parseMaj0E word = _; unfold parseMaj0E; rw [field_toNat (lo := 0) (n := 4) f1, bit_of_toNat (k := 31) g0, field_of_toNat (lo := 22) (n := 3) (x := d) g1, field_of_toNat (lo := 19) (n := 3) (x := a) g2, field_of_toNat (lo := 16) (n := 3) (x := b) g3]; rfl

theorem mxor (p : Bool) (d : MReg) (a : MReg) (b : MReg) : Statement (.mxor p d a b) := by
  intro word hwf he
  obtain ⟨f0, f1, g0, g1, g2, g3, z0⟩ := layout23 he (m := 14) (c := 2) (q := 0) (by decide) (by decide) (Bool.toNat_lt p) (d.isLt) (a.isLt) (b.isLt)
  refine decode_of_parse ?_ (checkWord_ok rfl (allZero1 z0) hwf nofun nofun)
  unfold parse; rw [field_toNat f0]; change parseMaj0E word = _; unfold parseMaj0E; rw [field_toNat (lo := 0) (n := 4) f1, bit_of_toNat (k := 31) g0, field_of_toNat (lo := 22) (n := 3) (x := d) g1, field_of_toNat (lo := 19) (n := 3) (x := a) g2, field_of_toNat (lo := 16) (n := 3) (x := b) g3]; rfl

theorem mandn (p : Bool) (d : MReg) (a : MReg) (b : MReg) : Statement (.mandn p d a b) := by
  intro word hwf he
  obtain ⟨f0, f1, g0, g1, g2, g3, z0⟩ := layout23 he (m := 14) (c := 3) (q := 0) (by decide) (by decide) (Bool.toNat_lt p) (d.isLt) (a.isLt) (b.isLt)
  refine decode_of_parse ?_ (checkWord_ok rfl (allZero1 z0) hwf nofun nofun)
  unfold parse; rw [field_toNat f0]; change parseMaj0E word = _; unfold parseMaj0E; rw [field_toNat (lo := 0) (n := 4) f1, bit_of_toNat (k := 31) g0, field_of_toNat (lo := 22) (n := 3) (x := d) g1, field_of_toNat (lo := 19) (n := 3) (x := a) g2, field_of_toNat (lo := 16) (n := 3) (x := b) g3]; rfl

theorem mnot (p : Bool) (d : MReg) (a : MReg) : Statement (.mnot p d a) := by
  intro word hwf he
  obtain ⟨f0, f1, g0, g1, g2, z0⟩ := layout24 he (m := 14) (c := 4) (q := 0) (by decide) (by decide) (Bool.toNat_lt p) (d.isLt) (a.isLt)
  refine decode_of_parse ?_ (checkWord_ok rfl (allZero1 z0) hwf nofun nofun)
  unfold parse; rw [field_toNat f0]; change parseMaj0E word = _; unfold parseMaj0E; rw [field_toNat (lo := 0) (n := 4) f1, bit_of_toNat (k := 31) g0, field_of_toNat (lo := 22) (n := 3) (x := d) g1, field_of_toNat (lo := 19) (n := 3) (x := a) g2]; rfl

theorem mmov (p : Bool) (d : MReg) (a : MReg) : Statement (.mmov p d a) := by
  intro word hwf he
  obtain ⟨f0, f1, g0, g1, g2, z0⟩ := layout24 he (m := 14) (c := 5) (q := 0) (by decide) (by decide) (Bool.toNat_lt p) (d.isLt) (a.isLt)
  refine decode_of_parse ?_ (checkWord_ok rfl (allZero1 z0) hwf nofun nofun)
  unfold parse; rw [field_toNat f0]; change parseMaj0E word = _; unfold parseMaj0E; rw [field_toNat (lo := 0) (n := 4) f1, bit_of_toNat (k := 31) g0, field_of_toNat (lo := 22) (n := 3) (x := d) g1, field_of_toNat (lo := 19) (n := 3) (x := a) g2]; rfl

theorem mpop (p : Bool) (a : MReg) (s : SReg) : Statement (.mpop p a s) := by
  intro word hwf he
  obtain ⟨f0, f1, g0, g1, g2, z0, z1, z2⟩ := layout25 he (m := 14) (c := 6) (q := 0) (by decide) (by decide) (Bool.toNat_lt p) (a.isLt) (s.isLt)
  refine decode_of_parse ?_ (checkWord_ok rfl (allZero3 z0 z1 z2) hwf nofun nofun)
  unfold parse; rw [field_toNat f0]; change parseMaj0E word = _; unfold parseMaj0E; rw [field_toNat (lo := 0) (n := 4) f1, bit_of_toNat (k := 31) g0, field_of_toNat (lo := 19) (n := 3) (x := a) g1, field_of_toNat (lo := 10) (n := 6) (x := s) g2]; rfl

theorem mff1 (p : Bool) (a : MReg) (s : SReg) : Statement (.mff1 p a s) := by
  intro word hwf he
  obtain ⟨f0, f1, g0, g1, g2, z0, z1, z2⟩ := layout25 he (m := 14) (c := 7) (q := 0) (by decide) (by decide) (Bool.toNat_lt p) (a.isLt) (s.isLt)
  refine decode_of_parse ?_ (checkWord_ok rfl (allZero3 z0 z1 z2) hwf nofun nofun)
  unfold parse; rw [field_toNat f0]; change parseMaj0E word = _; unfold parseMaj0E; rw [field_toNat (lo := 0) (n := 4) f1, bit_of_toNat (k := 31) g0, field_of_toNat (lo := 19) (n := 3) (x := a) g1, field_of_toNat (lo := 10) (n := 6) (x := s) g2]; rfl

theorem msave (p : Bool) (a : MReg) (s : SReg) : Statement (.msave p a s) := by
  intro word hwf he
  obtain ⟨f0, f1, g0, g1, g2, z0, z1, z2⟩ := layout25 he (m := 14) (c := 8) (q := 0) (by decide) (by decide) (Bool.toNat_lt p) (a.isLt) (s.isLt)
  refine decode_of_parse ?_ (checkWord_ok rfl (allZero3 z0 z1 z2) hwf nofun nofun)
  unfold parse; rw [field_toNat f0]; change parseMaj0E word = _; unfold parseMaj0E; rw [field_toNat (lo := 0) (n := 4) f1, bit_of_toNat (k := 31) g0, field_of_toNat (lo := 19) (n := 3) (x := a) g1, field_of_toNat (lo := 10) (n := 6) (x := s) g2]; rfl

theorem mload (p : Bool) (d : MReg) (s : SReg) : Statement (.mload p d s) := by
  intro word hwf he
  obtain ⟨f0, f1, g0, g1, g2, z0, z1⟩ := layout26 he (m := 14) (c := 9) (q := 0) (by decide) (by decide) (Bool.toNat_lt p) (d.isLt) (s.isLt)
  refine decode_of_parse ?_ (checkWord_ok rfl (allZero2 z0 z1) hwf nofun nofun)
  unfold parse; rw [field_toNat f0]; change parseMaj0E word = _; unfold parseMaj0E; rw [field_toNat (lo := 0) (n := 4) f1, bit_of_toNat (k := 31) g0, field_of_toNat (lo := 22) (n := 3) (x := d) g1, field_of_toNat (lo := 10) (n := 6) (x := s) g2]; rfl

theorem msetw (p : Bool) (d : MReg) : Statement (.msetw p d) := by
  intro word hwf he
  obtain ⟨f0, f1, g0, g1, z0⟩ := layout27 he (m := 14) (c := 10) (q := 0) (by decide) (by decide) (Bool.toNat_lt p) (d.isLt)
  refine decode_of_parse ?_ (checkWord_ok rfl (allZero1 z0) hwf nofun nofun)
  unfold parse; rw [field_toNat f0]; change parseMaj0E word = _; unfold parseMaj0E; rw [field_toNat (lo := 0) (n := 4) f1, bit_of_toNat (k := 31) g0, field_of_toNat (lo := 22) (n := 3) (x := d) g1]; rfl

theorem vcmp (p : Bool) (d : MReg) (a : VReg) (b : VReg) (c1 : VCond) (t : VType) : Statement (.vcmp p d a b c1 t) := by
  intro word hwf he
  obtain ⟨f0, g0, g1, g2, g3, g4, g5⟩ := layout28 he (m := 15) (q := 0) (by decide) (Bool.toNat_lt p) (d.isLt) (a.isLt) (b.isLt) ((VCond.code c1).isLt) ((VType.code t).isLt)
  refine decode_of_parse ?_ (checkWord_ok rfl rfl hwf nofun nofun)
  unfold parse; rw [field_toNat f0]; change parseMaj0F word = _; unfold parseMaj0F; rw [bit_of_toNat (k := 31) g0, field_of_toNat (lo := 22) (n := 3) (x := d) g1, field_of_toNat (lo := 15) (n := 7) (x := a) g2, field_of_toNat (lo := 8) (n := 7) (x := b) g3, field_of_toNat (lo := 4) (n := 4) (x := VCond.code c1) g4, field_of_toNat (lo := 0) (n := 4) (x := VType.code t) g5, VCond.code_ofCode c1, VType.code_ofCode t]; rfl

theorem vadd (p : Bool) (d : VReg) (a : VReg) (b : VReg) : Statement (.vadd p d a b) := by
  intro word hwf he
  obtain ⟨f0, f1, g0, g1, g2, g3⟩ := layout29 he (m := 16) (c := 0) (q := 0) (by decide) (by decide) (Bool.toNat_lt p) (d.isLt) (a.isLt) (b.isLt)
  refine decode_of_parse ?_ (checkWord_ok rfl rfl hwf nofun nofun)
  unfold parse; rw [field_toNat f0]; change parseMaj10 word = _; unfold parseMaj10; rw [field_toNat (lo := 0) (n := 4) f1, bit_of_toNat (k := 31) g0, field_of_toNat (lo := 18) (n := 7) (x := d) g1, field_of_toNat (lo := 11) (n := 7) (x := a) g2, field_of_toNat (lo := 4) (n := 7) (x := b) g3]; rfl

theorem vsub (p : Bool) (d : VReg) (a : VReg) (b : VReg) : Statement (.vsub p d a b) := by
  intro word hwf he
  obtain ⟨f0, f1, g0, g1, g2, g3⟩ := layout29 he (m := 16) (c := 1) (q := 0) (by decide) (by decide) (Bool.toNat_lt p) (d.isLt) (a.isLt) (b.isLt)
  refine decode_of_parse ?_ (checkWord_ok rfl rfl hwf nofun nofun)
  unfold parse; rw [field_toNat f0]; change parseMaj10 word = _; unfold parseMaj10; rw [field_toNat (lo := 0) (n := 4) f1, bit_of_toNat (k := 31) g0, field_of_toNat (lo := 18) (n := 7) (x := d) g1, field_of_toNat (lo := 11) (n := 7) (x := a) g2, field_of_toNat (lo := 4) (n := 7) (x := b) g3]; rfl

theorem vmul (p : Bool) (d : VReg) (a : VReg) (b : VReg) : Statement (.vmul p d a b) := by
  intro word hwf he
  obtain ⟨f0, f1, g0, g1, g2, g3⟩ := layout29 he (m := 16) (c := 2) (q := 0) (by decide) (by decide) (Bool.toNat_lt p) (d.isLt) (a.isLt) (b.isLt)
  refine decode_of_parse ?_ (checkWord_ok rfl rfl hwf nofun nofun)
  unfold parse; rw [field_toNat f0]; change parseMaj10 word = _; unfold parseMaj10; rw [field_toNat (lo := 0) (n := 4) f1, bit_of_toNat (k := 31) g0, field_of_toNat (lo := 18) (n := 7) (x := d) g1, field_of_toNat (lo := 11) (n := 7) (x := a) g2, field_of_toNat (lo := 4) (n := 7) (x := b) g3]; rfl

theorem vmulh (p : Bool) (d : VReg) (a : VReg) (b : VReg) : Statement (.vmulh p d a b) := by
  intro word hwf he
  obtain ⟨f0, f1, g0, g1, g2, g3⟩ := layout29 he (m := 16) (c := 3) (q := 0) (by decide) (by decide) (Bool.toNat_lt p) (d.isLt) (a.isLt) (b.isLt)
  refine decode_of_parse ?_ (checkWord_ok rfl rfl hwf nofun nofun)
  unfold parse; rw [field_toNat f0]; change parseMaj10 word = _; unfold parseMaj10; rw [field_toNat (lo := 0) (n := 4) f1, bit_of_toNat (k := 31) g0, field_of_toNat (lo := 18) (n := 7) (x := d) g1, field_of_toNat (lo := 11) (n := 7) (x := a) g2, field_of_toNat (lo := 4) (n := 7) (x := b) g3]; rfl

theorem vmulhu (p : Bool) (d : VReg) (a : VReg) (b : VReg) : Statement (.vmulhu p d a b) := by
  intro word hwf he
  obtain ⟨f0, f1, g0, g1, g2, g3⟩ := layout29 he (m := 16) (c := 4) (q := 0) (by decide) (by decide) (Bool.toNat_lt p) (d.isLt) (a.isLt) (b.isLt)
  refine decode_of_parse ?_ (checkWord_ok rfl rfl hwf nofun nofun)
  unfold parse; rw [field_toNat f0]; change parseMaj10 word = _; unfold parseMaj10; rw [field_toNat (lo := 0) (n := 4) f1, bit_of_toNat (k := 31) g0, field_of_toNat (lo := 18) (n := 7) (x := d) g1, field_of_toNat (lo := 11) (n := 7) (x := a) g2, field_of_toNat (lo := 4) (n := 7) (x := b) g3]; rfl

theorem vmad (p : Bool) (d : VReg) (a : VReg) (b : VReg) : Statement (.vmad p d a b) := by
  intro word hwf he
  obtain ⟨f0, f1, g0, g1, g2, g3⟩ := layout29 he (m := 16) (c := 5) (q := 0) (by decide) (by decide) (Bool.toNat_lt p) (d.isLt) (a.isLt) (b.isLt)
  refine decode_of_parse ?_ (checkWord_ok rfl rfl hwf nofun nofun)
  unfold parse; rw [field_toNat f0]; change parseMaj10 word = _; unfold parseMaj10; rw [field_toNat (lo := 0) (n := 4) f1, bit_of_toNat (k := 31) g0, field_of_toNat (lo := 18) (n := 7) (x := d) g1, field_of_toNat (lo := 11) (n := 7) (x := a) g2, field_of_toNat (lo := 4) (n := 7) (x := b) g3]; rfl

theorem vand (p : Bool) (d : VReg) (a : VReg) (b : VReg) : Statement (.vand p d a b) := by
  intro word hwf he
  obtain ⟨f0, f1, g0, g1, g2, g3⟩ := layout29 he (m := 16) (c := 6) (q := 0) (by decide) (by decide) (Bool.toNat_lt p) (d.isLt) (a.isLt) (b.isLt)
  refine decode_of_parse ?_ (checkWord_ok rfl rfl hwf nofun nofun)
  unfold parse; rw [field_toNat f0]; change parseMaj10 word = _; unfold parseMaj10; rw [field_toNat (lo := 0) (n := 4) f1, bit_of_toNat (k := 31) g0, field_of_toNat (lo := 18) (n := 7) (x := d) g1, field_of_toNat (lo := 11) (n := 7) (x := a) g2, field_of_toNat (lo := 4) (n := 7) (x := b) g3]; rfl

theorem vor (p : Bool) (d : VReg) (a : VReg) (b : VReg) : Statement (.vor p d a b) := by
  intro word hwf he
  obtain ⟨f0, f1, g0, g1, g2, g3⟩ := layout29 he (m := 16) (c := 7) (q := 0) (by decide) (by decide) (Bool.toNat_lt p) (d.isLt) (a.isLt) (b.isLt)
  refine decode_of_parse ?_ (checkWord_ok rfl rfl hwf nofun nofun)
  unfold parse; rw [field_toNat f0]; change parseMaj10 word = _; unfold parseMaj10; rw [field_toNat (lo := 0) (n := 4) f1, bit_of_toNat (k := 31) g0, field_of_toNat (lo := 18) (n := 7) (x := d) g1, field_of_toNat (lo := 11) (n := 7) (x := a) g2, field_of_toNat (lo := 4) (n := 7) (x := b) g3]; rfl

theorem vxor (p : Bool) (d : VReg) (a : VReg) (b : VReg) : Statement (.vxor p d a b) := by
  intro word hwf he
  obtain ⟨f0, f1, g0, g1, g2, g3⟩ := layout29 he (m := 16) (c := 8) (q := 0) (by decide) (by decide) (Bool.toNat_lt p) (d.isLt) (a.isLt) (b.isLt)
  refine decode_of_parse ?_ (checkWord_ok rfl rfl hwf nofun nofun)
  unfold parse; rw [field_toNat f0]; change parseMaj10 word = _; unfold parseMaj10; rw [field_toNat (lo := 0) (n := 4) f1, bit_of_toNat (k := 31) g0, field_of_toNat (lo := 18) (n := 7) (x := d) g1, field_of_toNat (lo := 11) (n := 7) (x := a) g2, field_of_toNat (lo := 4) (n := 7) (x := b) g3]; rfl

theorem vshl (p : Bool) (d : VReg) (a : VReg) (b : VReg) : Statement (.vshl p d a b) := by
  intro word hwf he
  obtain ⟨f0, f1, g0, g1, g2, g3⟩ := layout29 he (m := 16) (c := 9) (q := 0) (by decide) (by decide) (Bool.toNat_lt p) (d.isLt) (a.isLt) (b.isLt)
  refine decode_of_parse ?_ (checkWord_ok rfl rfl hwf nofun nofun)
  unfold parse; rw [field_toNat f0]; change parseMaj10 word = _; unfold parseMaj10; rw [field_toNat (lo := 0) (n := 4) f1, bit_of_toNat (k := 31) g0, field_of_toNat (lo := 18) (n := 7) (x := d) g1, field_of_toNat (lo := 11) (n := 7) (x := a) g2, field_of_toNat (lo := 4) (n := 7) (x := b) g3]; rfl

theorem vshr (p : Bool) (d : VReg) (a : VReg) (b : VReg) : Statement (.vshr p d a b) := by
  intro word hwf he
  obtain ⟨f0, f1, g0, g1, g2, g3⟩ := layout29 he (m := 16) (c := 10) (q := 0) (by decide) (by decide) (Bool.toNat_lt p) (d.isLt) (a.isLt) (b.isLt)
  refine decode_of_parse ?_ (checkWord_ok rfl rfl hwf nofun nofun)
  unfold parse; rw [field_toNat f0]; change parseMaj10 word = _; unfold parseMaj10; rw [field_toNat (lo := 0) (n := 4) f1, bit_of_toNat (k := 31) g0, field_of_toNat (lo := 18) (n := 7) (x := d) g1, field_of_toNat (lo := 11) (n := 7) (x := a) g2, field_of_toNat (lo := 4) (n := 7) (x := b) g3]; rfl

theorem vsra (p : Bool) (d : VReg) (a : VReg) (b : VReg) : Statement (.vsra p d a b) := by
  intro word hwf he
  obtain ⟨f0, f1, g0, g1, g2, g3⟩ := layout29 he (m := 16) (c := 11) (q := 0) (by decide) (by decide) (Bool.toNat_lt p) (d.isLt) (a.isLt) (b.isLt)
  refine decode_of_parse ?_ (checkWord_ok rfl rfl hwf nofun nofun)
  unfold parse; rw [field_toNat f0]; change parseMaj10 word = _; unfold parseMaj10; rw [field_toNat (lo := 0) (n := 4) f1, bit_of_toNat (k := 31) g0, field_of_toNat (lo := 18) (n := 7) (x := d) g1, field_of_toNat (lo := 11) (n := 7) (x := a) g2, field_of_toNat (lo := 4) (n := 7) (x := b) g3]; rfl

theorem vmin (p : Bool) (d : VReg) (a : VReg) (b : VReg) : Statement (.vmin p d a b) := by
  intro word hwf he
  obtain ⟨f0, f1, g0, g1, g2, g3⟩ := layout29 he (m := 16) (c := 12) (q := 0) (by decide) (by decide) (Bool.toNat_lt p) (d.isLt) (a.isLt) (b.isLt)
  refine decode_of_parse ?_ (checkWord_ok rfl rfl hwf nofun nofun)
  unfold parse; rw [field_toNat f0]; change parseMaj10 word = _; unfold parseMaj10; rw [field_toNat (lo := 0) (n := 4) f1, bit_of_toNat (k := 31) g0, field_of_toNat (lo := 18) (n := 7) (x := d) g1, field_of_toNat (lo := 11) (n := 7) (x := a) g2, field_of_toNat (lo := 4) (n := 7) (x := b) g3]; rfl

theorem vmax (p : Bool) (d : VReg) (a : VReg) (b : VReg) : Statement (.vmax p d a b) := by
  intro word hwf he
  obtain ⟨f0, f1, g0, g1, g2, g3⟩ := layout29 he (m := 16) (c := 13) (q := 0) (by decide) (by decide) (Bool.toNat_lt p) (d.isLt) (a.isLt) (b.isLt)
  refine decode_of_parse ?_ (checkWord_ok rfl rfl hwf nofun nofun)
  unfold parse; rw [field_toNat f0]; change parseMaj10 word = _; unfold parseMaj10; rw [field_toNat (lo := 0) (n := 4) f1, bit_of_toNat (k := 31) g0, field_of_toNat (lo := 18) (n := 7) (x := d) g1, field_of_toNat (lo := 11) (n := 7) (x := a) g2, field_of_toNat (lo := 4) (n := 7) (x := b) g3]; rfl

theorem vumin (p : Bool) (d : VReg) (a : VReg) (b : VReg) : Statement (.vumin p d a b) := by
  intro word hwf he
  obtain ⟨f0, f1, g0, g1, g2, g3⟩ := layout29 he (m := 16) (c := 14) (q := 0) (by decide) (by decide) (Bool.toNat_lt p) (d.isLt) (a.isLt) (b.isLt)
  refine decode_of_parse ?_ (checkWord_ok rfl rfl hwf nofun nofun)
  unfold parse; rw [field_toNat f0]; change parseMaj10 word = _; unfold parseMaj10; rw [field_toNat (lo := 0) (n := 4) f1, bit_of_toNat (k := 31) g0, field_of_toNat (lo := 18) (n := 7) (x := d) g1, field_of_toNat (lo := 11) (n := 7) (x := a) g2, field_of_toNat (lo := 4) (n := 7) (x := b) g3]; rfl

theorem vumax (p : Bool) (d : VReg) (a : VReg) (b : VReg) : Statement (.vumax p d a b) := by
  intro word hwf he
  obtain ⟨f0, f1, g0, g1, g2, g3⟩ := layout29 he (m := 16) (c := 15) (q := 0) (by decide) (by decide) (Bool.toNat_lt p) (d.isLt) (a.isLt) (b.isLt)
  refine decode_of_parse ?_ (checkWord_ok rfl rfl hwf nofun nofun)
  unfold parse; rw [field_toNat f0]; change parseMaj10 word = _; unfold parseMaj10; rw [field_toNat (lo := 0) (n := 4) f1, bit_of_toNat (k := 31) g0, field_of_toNat (lo := 18) (n := 7) (x := d) g1, field_of_toNat (lo := 11) (n := 7) (x := a) g2, field_of_toNat (lo := 4) (n := 7) (x := b) g3]; rfl

theorem vaddS (p : Bool) (d : VReg) (a : VReg) (s : SReg) : Statement (.vaddS p d a s) := by
  intro word hwf he
  obtain ⟨f0, f1, g0, g1, g2, g3⟩ := layout30 he (m := 18) (c := 0) (q := 0) (by decide) (by decide) (Bool.toNat_lt p) (d.isLt) (a.isLt) (s.isLt)
  refine decode_of_parse ?_ (checkWord_ok rfl rfl hwf nofun nofun)
  unfold parse; rw [field_toNat f0]; change parseMaj12 word = _; unfold parseMaj12; rw [field_toNat (lo := 0) (n := 5) f1, bit_of_toNat (k := 31) g0, field_of_toNat (lo := 18) (n := 7) (x := d) g1, field_of_toNat (lo := 11) (n := 7) (x := a) g2, field_of_toNat (lo := 5) (n := 6) (x := s) g3]; rfl

theorem vsubS (p : Bool) (d : VReg) (a : VReg) (s : SReg) : Statement (.vsubS p d a s) := by
  intro word hwf he
  obtain ⟨f0, f1, g0, g1, g2, g3⟩ := layout30 he (m := 18) (c := 1) (q := 0) (by decide) (by decide) (Bool.toNat_lt p) (d.isLt) (a.isLt) (s.isLt)
  refine decode_of_parse ?_ (checkWord_ok rfl rfl hwf nofun nofun)
  unfold parse; rw [field_toNat f0]; change parseMaj12 word = _; unfold parseMaj12; rw [field_toNat (lo := 0) (n := 5) f1, bit_of_toNat (k := 31) g0, field_of_toNat (lo := 18) (n := 7) (x := d) g1, field_of_toNat (lo := 11) (n := 7) (x := a) g2, field_of_toNat (lo := 5) (n := 6) (x := s) g3]; rfl

theorem vmulS (p : Bool) (d : VReg) (a : VReg) (s : SReg) : Statement (.vmulS p d a s) := by
  intro word hwf he
  obtain ⟨f0, f1, g0, g1, g2, g3⟩ := layout30 he (m := 18) (c := 2) (q := 0) (by decide) (by decide) (Bool.toNat_lt p) (d.isLt) (a.isLt) (s.isLt)
  refine decode_of_parse ?_ (checkWord_ok rfl rfl hwf nofun nofun)
  unfold parse; rw [field_toNat f0]; change parseMaj12 word = _; unfold parseMaj12; rw [field_toNat (lo := 0) (n := 5) f1, bit_of_toNat (k := 31) g0, field_of_toNat (lo := 18) (n := 7) (x := d) g1, field_of_toNat (lo := 11) (n := 7) (x := a) g2, field_of_toNat (lo := 5) (n := 6) (x := s) g3]; rfl

theorem vmulhS (p : Bool) (d : VReg) (a : VReg) (s : SReg) : Statement (.vmulhS p d a s) := by
  intro word hwf he
  obtain ⟨f0, f1, g0, g1, g2, g3⟩ := layout30 he (m := 18) (c := 3) (q := 0) (by decide) (by decide) (Bool.toNat_lt p) (d.isLt) (a.isLt) (s.isLt)
  refine decode_of_parse ?_ (checkWord_ok rfl rfl hwf nofun nofun)
  unfold parse; rw [field_toNat f0]; change parseMaj12 word = _; unfold parseMaj12; rw [field_toNat (lo := 0) (n := 5) f1, bit_of_toNat (k := 31) g0, field_of_toNat (lo := 18) (n := 7) (x := d) g1, field_of_toNat (lo := 11) (n := 7) (x := a) g2, field_of_toNat (lo := 5) (n := 6) (x := s) g3]; rfl

theorem vmulhuS (p : Bool) (d : VReg) (a : VReg) (s : SReg) : Statement (.vmulhuS p d a s) := by
  intro word hwf he
  obtain ⟨f0, f1, g0, g1, g2, g3⟩ := layout30 he (m := 18) (c := 4) (q := 0) (by decide) (by decide) (Bool.toNat_lt p) (d.isLt) (a.isLt) (s.isLt)
  refine decode_of_parse ?_ (checkWord_ok rfl rfl hwf nofun nofun)
  unfold parse; rw [field_toNat f0]; change parseMaj12 word = _; unfold parseMaj12; rw [field_toNat (lo := 0) (n := 5) f1, bit_of_toNat (k := 31) g0, field_of_toNat (lo := 18) (n := 7) (x := d) g1, field_of_toNat (lo := 11) (n := 7) (x := a) g2, field_of_toNat (lo := 5) (n := 6) (x := s) g3]; rfl

theorem vmadS (p : Bool) (d : VReg) (a : VReg) (s : SReg) : Statement (.vmadS p d a s) := by
  intro word hwf he
  obtain ⟨f0, f1, g0, g1, g2, g3⟩ := layout30 he (m := 18) (c := 5) (q := 0) (by decide) (by decide) (Bool.toNat_lt p) (d.isLt) (a.isLt) (s.isLt)
  refine decode_of_parse ?_ (checkWord_ok rfl rfl hwf nofun nofun)
  unfold parse; rw [field_toNat f0]; change parseMaj12 word = _; unfold parseMaj12; rw [field_toNat (lo := 0) (n := 5) f1, bit_of_toNat (k := 31) g0, field_of_toNat (lo := 18) (n := 7) (x := d) g1, field_of_toNat (lo := 11) (n := 7) (x := a) g2, field_of_toNat (lo := 5) (n := 6) (x := s) g3]; rfl

theorem vandS (p : Bool) (d : VReg) (a : VReg) (s : SReg) : Statement (.vandS p d a s) := by
  intro word hwf he
  obtain ⟨f0, f1, g0, g1, g2, g3⟩ := layout30 he (m := 18) (c := 6) (q := 0) (by decide) (by decide) (Bool.toNat_lt p) (d.isLt) (a.isLt) (s.isLt)
  refine decode_of_parse ?_ (checkWord_ok rfl rfl hwf nofun nofun)
  unfold parse; rw [field_toNat f0]; change parseMaj12 word = _; unfold parseMaj12; rw [field_toNat (lo := 0) (n := 5) f1, bit_of_toNat (k := 31) g0, field_of_toNat (lo := 18) (n := 7) (x := d) g1, field_of_toNat (lo := 11) (n := 7) (x := a) g2, field_of_toNat (lo := 5) (n := 6) (x := s) g3]; rfl

theorem vorS (p : Bool) (d : VReg) (a : VReg) (s : SReg) : Statement (.vorS p d a s) := by
  intro word hwf he
  obtain ⟨f0, f1, g0, g1, g2, g3⟩ := layout30 he (m := 18) (c := 7) (q := 0) (by decide) (by decide) (Bool.toNat_lt p) (d.isLt) (a.isLt) (s.isLt)
  refine decode_of_parse ?_ (checkWord_ok rfl rfl hwf nofun nofun)
  unfold parse; rw [field_toNat f0]; change parseMaj12 word = _; unfold parseMaj12; rw [field_toNat (lo := 0) (n := 5) f1, bit_of_toNat (k := 31) g0, field_of_toNat (lo := 18) (n := 7) (x := d) g1, field_of_toNat (lo := 11) (n := 7) (x := a) g2, field_of_toNat (lo := 5) (n := 6) (x := s) g3]; rfl

theorem vxorS (p : Bool) (d : VReg) (a : VReg) (s : SReg) : Statement (.vxorS p d a s) := by
  intro word hwf he
  obtain ⟨f0, f1, g0, g1, g2, g3⟩ := layout30 he (m := 18) (c := 8) (q := 0) (by decide) (by decide) (Bool.toNat_lt p) (d.isLt) (a.isLt) (s.isLt)
  refine decode_of_parse ?_ (checkWord_ok rfl rfl hwf nofun nofun)
  unfold parse; rw [field_toNat f0]; change parseMaj12 word = _; unfold parseMaj12; rw [field_toNat (lo := 0) (n := 5) f1, bit_of_toNat (k := 31) g0, field_of_toNat (lo := 18) (n := 7) (x := d) g1, field_of_toNat (lo := 11) (n := 7) (x := a) g2, field_of_toNat (lo := 5) (n := 6) (x := s) g3]; rfl

theorem vshlS (p : Bool) (d : VReg) (a : VReg) (s : SReg) : Statement (.vshlS p d a s) := by
  intro word hwf he
  obtain ⟨f0, f1, g0, g1, g2, g3⟩ := layout30 he (m := 18) (c := 9) (q := 0) (by decide) (by decide) (Bool.toNat_lt p) (d.isLt) (a.isLt) (s.isLt)
  refine decode_of_parse ?_ (checkWord_ok rfl rfl hwf nofun nofun)
  unfold parse; rw [field_toNat f0]; change parseMaj12 word = _; unfold parseMaj12; rw [field_toNat (lo := 0) (n := 5) f1, bit_of_toNat (k := 31) g0, field_of_toNat (lo := 18) (n := 7) (x := d) g1, field_of_toNat (lo := 11) (n := 7) (x := a) g2, field_of_toNat (lo := 5) (n := 6) (x := s) g3]; rfl

theorem vshrS (p : Bool) (d : VReg) (a : VReg) (s : SReg) : Statement (.vshrS p d a s) := by
  intro word hwf he
  obtain ⟨f0, f1, g0, g1, g2, g3⟩ := layout30 he (m := 18) (c := 10) (q := 0) (by decide) (by decide) (Bool.toNat_lt p) (d.isLt) (a.isLt) (s.isLt)
  refine decode_of_parse ?_ (checkWord_ok rfl rfl hwf nofun nofun)
  unfold parse; rw [field_toNat f0]; change parseMaj12 word = _; unfold parseMaj12; rw [field_toNat (lo := 0) (n := 5) f1, bit_of_toNat (k := 31) g0, field_of_toNat (lo := 18) (n := 7) (x := d) g1, field_of_toNat (lo := 11) (n := 7) (x := a) g2, field_of_toNat (lo := 5) (n := 6) (x := s) g3]; rfl

theorem vsraS (p : Bool) (d : VReg) (a : VReg) (s : SReg) : Statement (.vsraS p d a s) := by
  intro word hwf he
  obtain ⟨f0, f1, g0, g1, g2, g3⟩ := layout30 he (m := 18) (c := 11) (q := 0) (by decide) (by decide) (Bool.toNat_lt p) (d.isLt) (a.isLt) (s.isLt)
  refine decode_of_parse ?_ (checkWord_ok rfl rfl hwf nofun nofun)
  unfold parse; rw [field_toNat f0]; change parseMaj12 word = _; unfold parseMaj12; rw [field_toNat (lo := 0) (n := 5) f1, bit_of_toNat (k := 31) g0, field_of_toNat (lo := 18) (n := 7) (x := d) g1, field_of_toNat (lo := 11) (n := 7) (x := a) g2, field_of_toNat (lo := 5) (n := 6) (x := s) g3]; rfl

theorem vminS (p : Bool) (d : VReg) (a : VReg) (s : SReg) : Statement (.vminS p d a s) := by
  intro word hwf he
  obtain ⟨f0, f1, g0, g1, g2, g3⟩ := layout30 he (m := 18) (c := 12) (q := 0) (by decide) (by decide) (Bool.toNat_lt p) (d.isLt) (a.isLt) (s.isLt)
  refine decode_of_parse ?_ (checkWord_ok rfl rfl hwf nofun nofun)
  unfold parse; rw [field_toNat f0]; change parseMaj12 word = _; unfold parseMaj12; rw [field_toNat (lo := 0) (n := 5) f1, bit_of_toNat (k := 31) g0, field_of_toNat (lo := 18) (n := 7) (x := d) g1, field_of_toNat (lo := 11) (n := 7) (x := a) g2, field_of_toNat (lo := 5) (n := 6) (x := s) g3]; rfl

theorem vmaxS (p : Bool) (d : VReg) (a : VReg) (s : SReg) : Statement (.vmaxS p d a s) := by
  intro word hwf he
  obtain ⟨f0, f1, g0, g1, g2, g3⟩ := layout30 he (m := 18) (c := 13) (q := 0) (by decide) (by decide) (Bool.toNat_lt p) (d.isLt) (a.isLt) (s.isLt)
  refine decode_of_parse ?_ (checkWord_ok rfl rfl hwf nofun nofun)
  unfold parse; rw [field_toNat f0]; change parseMaj12 word = _; unfold parseMaj12; rw [field_toNat (lo := 0) (n := 5) f1, bit_of_toNat (k := 31) g0, field_of_toNat (lo := 18) (n := 7) (x := d) g1, field_of_toNat (lo := 11) (n := 7) (x := a) g2, field_of_toNat (lo := 5) (n := 6) (x := s) g3]; rfl

theorem vuminS (p : Bool) (d : VReg) (a : VReg) (s : SReg) : Statement (.vuminS p d a s) := by
  intro word hwf he
  obtain ⟨f0, f1, g0, g1, g2, g3⟩ := layout30 he (m := 18) (c := 14) (q := 0) (by decide) (by decide) (Bool.toNat_lt p) (d.isLt) (a.isLt) (s.isLt)
  refine decode_of_parse ?_ (checkWord_ok rfl rfl hwf nofun nofun)
  unfold parse; rw [field_toNat f0]; change parseMaj12 word = _; unfold parseMaj12; rw [field_toNat (lo := 0) (n := 5) f1, bit_of_toNat (k := 31) g0, field_of_toNat (lo := 18) (n := 7) (x := d) g1, field_of_toNat (lo := 11) (n := 7) (x := a) g2, field_of_toNat (lo := 5) (n := 6) (x := s) g3]; rfl

theorem vumaxS (p : Bool) (d : VReg) (a : VReg) (s : SReg) : Statement (.vumaxS p d a s) := by
  intro word hwf he
  obtain ⟨f0, f1, g0, g1, g2, g3⟩ := layout30 he (m := 18) (c := 15) (q := 0) (by decide) (by decide) (Bool.toNat_lt p) (d.isLt) (a.isLt) (s.isLt)
  refine decode_of_parse ?_ (checkWord_ok rfl rfl hwf nofun nofun)
  unfold parse; rw [field_toNat f0]; change parseMaj12 word = _; unfold parseMaj12; rw [field_toNat (lo := 0) (n := 5) f1, bit_of_toNat (k := 31) g0, field_of_toNat (lo := 18) (n := 7) (x := d) g1, field_of_toNat (lo := 11) (n := 7) (x := a) g2, field_of_toNat (lo := 5) (n := 6) (x := s) g3]; rfl

theorem vadd64 (p : Bool) (d : VReg) (a : VReg) (b : VReg) : Statement (.vadd64 p d a b) := by
  intro word hwf he
  obtain ⟨f0, f1, g0, g1, g2, g3⟩ := layout29 he (m := 17) (c := 0) (q := 0) (by decide) (by decide) (Bool.toNat_lt p) (d.isLt) (a.isLt) (b.isLt)
  refine decode_of_parse ?_ (checkWord_ok rfl rfl hwf nofun nofun)
  unfold parse; rw [field_toNat f0]; change parseMaj11 word = _; unfold parseMaj11; rw [field_toNat (lo := 0) (n := 4) f1, bit_of_toNat (k := 31) g0, field_of_toNat (lo := 18) (n := 7) (x := d) g1, field_of_toNat (lo := 11) (n := 7) (x := a) g2, field_of_toNat (lo := 4) (n := 7) (x := b) g3]; rfl

theorem vsub64 (p : Bool) (d : VReg) (a : VReg) (b : VReg) : Statement (.vsub64 p d a b) := by
  intro word hwf he
  obtain ⟨f0, f1, g0, g1, g2, g3⟩ := layout29 he (m := 17) (c := 1) (q := 0) (by decide) (by decide) (Bool.toNat_lt p) (d.isLt) (a.isLt) (b.isLt)
  refine decode_of_parse ?_ (checkWord_ok rfl rfl hwf nofun nofun)
  unfold parse; rw [field_toNat f0]; change parseMaj11 word = _; unfold parseMaj11; rw [field_toNat (lo := 0) (n := 4) f1, bit_of_toNat (k := 31) g0, field_of_toNat (lo := 18) (n := 7) (x := d) g1, field_of_toNat (lo := 11) (n := 7) (x := a) g2, field_of_toNat (lo := 4) (n := 7) (x := b) g3]; rfl

theorem vmulw (p : Bool) (d : VReg) (a : VReg) (b : VReg) : Statement (.vmulw p d a b) := by
  intro word hwf he
  obtain ⟨f0, f1, g0, g1, g2, g3⟩ := layout29 he (m := 17) (c := 2) (q := 0) (by decide) (by decide) (Bool.toNat_lt p) (d.isLt) (a.isLt) (b.isLt)
  refine decode_of_parse ?_ (checkWord_ok rfl rfl hwf nofun nofun)
  unfold parse; rw [field_toNat f0]; change parseMaj11 word = _; unfold parseMaj11; rw [field_toNat (lo := 0) (n := 4) f1, bit_of_toNat (k := 31) g0, field_of_toNat (lo := 18) (n := 7) (x := d) g1, field_of_toNat (lo := 11) (n := 7) (x := a) g2, field_of_toNat (lo := 4) (n := 7) (x := b) g3]; rfl

theorem vabs (p : Bool) (d : VReg) (a : VReg) : Statement (.vabs p d a) := by
  intro word hwf he
  obtain ⟨f0, f1, g0, g1, g2, z0⟩ := layout31 he (m := 17) (c := 3) (q := 0) (by decide) (by decide) (Bool.toNat_lt p) (d.isLt) (a.isLt)
  refine decode_of_parse ?_ (checkWord_ok rfl (allZero1 z0) hwf nofun nofun)
  unfold parse; rw [field_toNat f0]; change parseMaj11 word = _; unfold parseMaj11; rw [field_toNat (lo := 0) (n := 4) f1, bit_of_toNat (k := 31) g0, field_of_toNat (lo := 18) (n := 7) (x := d) g1, field_of_toNat (lo := 11) (n := 7) (x := a) g2]; rfl

theorem vnot (p : Bool) (d : VReg) (a : VReg) : Statement (.vnot p d a) := by
  intro word hwf he
  obtain ⟨f0, f1, g0, g1, g2, z0⟩ := layout31 he (m := 17) (c := 4) (q := 0) (by decide) (by decide) (Bool.toNat_lt p) (d.isLt) (a.isLt)
  refine decode_of_parse ?_ (checkWord_ok rfl (allZero1 z0) hwf nofun nofun)
  unfold parse; rw [field_toNat f0]; change parseMaj11 word = _; unfold parseMaj11; rw [field_toNat (lo := 0) (n := 4) f1, bit_of_toNat (k := 31) g0, field_of_toNat (lo := 18) (n := 7) (x := d) g1, field_of_toNat (lo := 11) (n := 7) (x := a) g2]; rfl

theorem vmov (p : Bool) (d : VReg) (a : VReg) : Statement (.vmov p d a) := by
  intro word hwf he
  obtain ⟨f0, f1, g0, g1, g2, z0⟩ := layout31 he (m := 17) (c := 5) (q := 0) (by decide) (by decide) (Bool.toNat_lt p) (d.isLt) (a.isLt)
  refine decode_of_parse ?_ (checkWord_ok rfl (allZero1 z0) hwf nofun nofun)
  unfold parse; rw [field_toNat f0]; change parseMaj11 word = _; unfold parseMaj11; rw [field_toNat (lo := 0) (n := 4) f1, bit_of_toNat (k := 31) g0, field_of_toNat (lo := 18) (n := 7) (x := d) g1, field_of_toNat (lo := 11) (n := 7) (x := a) g2]; rfl

theorem vpopc (p : Bool) (d : VReg) (a : VReg) : Statement (.vpopc p d a) := by
  intro word hwf he
  obtain ⟨f0, f1, g0, g1, g2, z0⟩ := layout31 he (m := 17) (c := 6) (q := 0) (by decide) (by decide) (Bool.toNat_lt p) (d.isLt) (a.isLt)
  refine decode_of_parse ?_ (checkWord_ok rfl (allZero1 z0) hwf nofun nofun)
  unfold parse; rw [field_toNat f0]; change parseMaj11 word = _; unfold parseMaj11; rw [field_toNat (lo := 0) (n := 4) f1, bit_of_toNat (k := 31) g0, field_of_toNat (lo := 18) (n := 7) (x := d) g1, field_of_toNat (lo := 11) (n := 7) (x := a) g2]; rfl

theorem vclz (p : Bool) (d : VReg) (a : VReg) : Statement (.vclz p d a) := by
  intro word hwf he
  obtain ⟨f0, f1, g0, g1, g2, z0⟩ := layout31 he (m := 17) (c := 7) (q := 0) (by decide) (by decide) (Bool.toNat_lt p) (d.isLt) (a.isLt)
  refine decode_of_parse ?_ (checkWord_ok rfl (allZero1 z0) hwf nofun nofun)
  unfold parse; rw [field_toNat f0]; change parseMaj11 word = _; unfold parseMaj11; rw [field_toNat (lo := 0) (n := 4) f1, bit_of_toNat (k := 31) g0, field_of_toNat (lo := 18) (n := 7) (x := d) g1, field_of_toNat (lo := 11) (n := 7) (x := a) g2]; rfl

theorem vbrev (p : Bool) (d : VReg) (a : VReg) : Statement (.vbrev p d a) := by
  intro word hwf he
  obtain ⟨f0, f1, g0, g1, g2, z0⟩ := layout31 he (m := 17) (c := 8) (q := 0) (by decide) (by decide) (Bool.toNat_lt p) (d.isLt) (a.isLt)
  refine decode_of_parse ?_ (checkWord_ok rfl (allZero1 z0) hwf nofun nofun)
  unfold parse; rw [field_toNat f0]; change parseMaj11 word = _; unfold parseMaj11; rw [field_toNat (lo := 0) (n := 4) f1, bit_of_toNat (k := 31) g0, field_of_toNat (lo := 18) (n := 7) (x := d) g1, field_of_toNat (lo := 11) (n := 7) (x := a) g2]; rfl

theorem vbfe (p : Bool) (d : VReg) (a : VReg) (b : VReg) : Statement (.vbfe p d a b) := by
  intro word hwf he
  obtain ⟨f0, f1, g0, g1, g2, g3⟩ := layout29 he (m := 17) (c := 9) (q := 0) (by decide) (by decide) (Bool.toNat_lt p) (d.isLt) (a.isLt) (b.isLt)
  refine decode_of_parse ?_ (checkWord_ok rfl rfl hwf nofun nofun)
  unfold parse; rw [field_toNat f0]; change parseMaj11 word = _; unfold parseMaj11; rw [field_toNat (lo := 0) (n := 4) f1, bit_of_toNat (k := 31) g0, field_of_toNat (lo := 18) (n := 7) (x := d) g1, field_of_toNat (lo := 11) (n := 7) (x := a) g2, field_of_toNat (lo := 4) (n := 7) (x := b) g3]; rfl

theorem vbfi (p : Bool) (d : VReg) (a : VReg) (b : VReg) : Statement (.vbfi p d a b) := by
  intro word hwf he
  obtain ⟨f0, f1, g0, g1, g2, g3⟩ := layout29 he (m := 17) (c := 10) (q := 0) (by decide) (by decide) (Bool.toNat_lt p) (d.isLt) (a.isLt) (b.isLt)
  refine decode_of_parse ?_ (checkWord_ok rfl rfl hwf nofun nofun)
  unfold parse; rw [field_toNat f0]; change parseMaj11 word = _; unfold parseMaj11; rw [field_toNat (lo := 0) (n := 4) f1, bit_of_toNat (k := 31) g0, field_of_toNat (lo := 18) (n := 7) (x := d) g1, field_of_toNat (lo := 11) (n := 7) (x := a) g2, field_of_toNat (lo := 4) (n := 7) (x := b) g3]; rfl

theorem vaddi (p : Bool) (d : VReg) (a : VReg) (i : BitVec 8) : Statement (.vaddi p d a i) := by
  intro word hwf he
  obtain ⟨f0, f1, g0, g1, g2, g3⟩ := layout32 he (m := 19) (c := 0) (q := 0) (by decide) (by decide) (Bool.toNat_lt p) (d.isLt) (a.isLt) (i.isLt)
  refine decode_of_parse ?_ (checkWord_ok rfl rfl hwf nofun nofun)
  unfold parse; rw [field_toNat f0]; change parseMaj13 word = _; unfold parseMaj13; rw [field_toNat (lo := 8) (n := 3) f1, bit_of_toNat (k := 31) g0, field_of_toNat (lo := 18) (n := 7) (x := d) g1, field_of_toNat (lo := 11) (n := 7) (x := a) g2, field_of_toNat (lo := 0) (n := 8) (x := i) g3]; rfl

theorem vandi (p : Bool) (d : VReg) (a : VReg) (i : BitVec 8) : Statement (.vandi p d a i) := by
  intro word hwf he
  obtain ⟨f0, f1, g0, g1, g2, g3⟩ := layout32 he (m := 19) (c := 1) (q := 0) (by decide) (by decide) (Bool.toNat_lt p) (d.isLt) (a.isLt) (i.isLt)
  refine decode_of_parse ?_ (checkWord_ok rfl rfl hwf nofun nofun)
  unfold parse; rw [field_toNat f0]; change parseMaj13 word = _; unfold parseMaj13; rw [field_toNat (lo := 8) (n := 3) f1, bit_of_toNat (k := 31) g0, field_of_toNat (lo := 18) (n := 7) (x := d) g1, field_of_toNat (lo := 11) (n := 7) (x := a) g2, field_of_toNat (lo := 0) (n := 8) (x := i) g3]; rfl

theorem vori (p : Bool) (d : VReg) (a : VReg) (i : BitVec 8) : Statement (.vori p d a i) := by
  intro word hwf he
  obtain ⟨f0, f1, g0, g1, g2, g3⟩ := layout32 he (m := 19) (c := 2) (q := 0) (by decide) (by decide) (Bool.toNat_lt p) (d.isLt) (a.isLt) (i.isLt)
  refine decode_of_parse ?_ (checkWord_ok rfl rfl hwf nofun nofun)
  unfold parse; rw [field_toNat f0]; change parseMaj13 word = _; unfold parseMaj13; rw [field_toNat (lo := 8) (n := 3) f1, bit_of_toNat (k := 31) g0, field_of_toNat (lo := 18) (n := 7) (x := d) g1, field_of_toNat (lo := 11) (n := 7) (x := a) g2, field_of_toNat (lo := 0) (n := 8) (x := i) g3]; rfl

theorem vxori (p : Bool) (d : VReg) (a : VReg) (i : BitVec 8) : Statement (.vxori p d a i) := by
  intro word hwf he
  obtain ⟨f0, f1, g0, g1, g2, g3⟩ := layout32 he (m := 19) (c := 3) (q := 0) (by decide) (by decide) (Bool.toNat_lt p) (d.isLt) (a.isLt) (i.isLt)
  refine decode_of_parse ?_ (checkWord_ok rfl rfl hwf nofun nofun)
  unfold parse; rw [field_toNat f0]; change parseMaj13 word = _; unfold parseMaj13; rw [field_toNat (lo := 8) (n := 3) f1, bit_of_toNat (k := 31) g0, field_of_toNat (lo := 18) (n := 7) (x := d) g1, field_of_toNat (lo := 11) (n := 7) (x := a) g2, field_of_toNat (lo := 0) (n := 8) (x := i) g3]; rfl

theorem vshli (p : Bool) (d : VReg) (a : VReg) (i : BitVec 8) : Statement (.vshli p d a i) := by
  intro word hwf he
  obtain ⟨f0, f1, g0, g1, g2, g3⟩ := layout32 he (m := 19) (c := 4) (q := 0) (by decide) (by decide) (Bool.toNat_lt p) (d.isLt) (a.isLt) (i.isLt)
  refine decode_of_parse ?_ (checkWord_ok rfl rfl hwf nofun nofun)
  unfold parse; rw [field_toNat f0]; change parseMaj13 word = _; unfold parseMaj13; rw [field_toNat (lo := 8) (n := 3) f1, bit_of_toNat (k := 31) g0, field_of_toNat (lo := 18) (n := 7) (x := d) g1, field_of_toNat (lo := 11) (n := 7) (x := a) g2, field_of_toNat (lo := 0) (n := 8) (x := i) g3]; rfl

theorem vshri (p : Bool) (d : VReg) (a : VReg) (i : BitVec 8) : Statement (.vshri p d a i) := by
  intro word hwf he
  obtain ⟨f0, f1, g0, g1, g2, g3⟩ := layout32 he (m := 19) (c := 5) (q := 0) (by decide) (by decide) (Bool.toNat_lt p) (d.isLt) (a.isLt) (i.isLt)
  refine decode_of_parse ?_ (checkWord_ok rfl rfl hwf nofun nofun)
  unfold parse; rw [field_toNat f0]; change parseMaj13 word = _; unfold parseMaj13; rw [field_toNat (lo := 8) (n := 3) f1, bit_of_toNat (k := 31) g0, field_of_toNat (lo := 18) (n := 7) (x := d) g1, field_of_toNat (lo := 11) (n := 7) (x := a) g2, field_of_toNat (lo := 0) (n := 8) (x := i) g3]; rfl

theorem vsrai (p : Bool) (d : VReg) (a : VReg) (i : BitVec 8) : Statement (.vsrai p d a i) := by
  intro word hwf he
  obtain ⟨f0, f1, g0, g1, g2, g3⟩ := layout32 he (m := 19) (c := 6) (q := 0) (by decide) (by decide) (Bool.toNat_lt p) (d.isLt) (a.isLt) (i.isLt)
  refine decode_of_parse ?_ (checkWord_ok rfl rfl hwf nofun nofun)
  unfold parse; rw [field_toNat f0]; change parseMaj13 word = _; unfold parseMaj13; rw [field_toNat (lo := 8) (n := 3) f1, bit_of_toNat (k := 31) g0, field_of_toNat (lo := 18) (n := 7) (x := d) g1, field_of_toNat (lo := 11) (n := 7) (x := a) g2, field_of_toNat (lo := 0) (n := 8) (x := i) g3]; rfl

theorem vli (p : Bool) (d : VReg) (i : BitVec 8) : Statement (.vli p d i) := by
  intro word hwf he
  obtain ⟨f0, f1, g0, g1, g2, z0⟩ := layout33 he (m := 19) (c := 7) (q := 0) (by decide) (by decide) (Bool.toNat_lt p) (d.isLt) (i.isLt)
  refine decode_of_parse ?_ (checkWord_ok rfl (allZero1 z0) hwf nofun nofun)
  unfold parse; rw [field_toNat f0]; change parseMaj13 word = _; unfold parseMaj13; rw [field_toNat (lo := 8) (n := 3) f1, bit_of_toNat (k := 31) g0, field_of_toNat (lo := 18) (n := 7) (x := d) g1, field_of_toNat (lo := 0) (n := 8) (x := i) g2]; rfl

theorem vsel (p : Bool) (d : VReg) (a : VReg) (b : VReg) (m : MReg) : Statement (.vsel p d a b m) := by
  intro word hwf he
  obtain ⟨f0, g0, g1, g2, g3, g4, z0⟩ := layout34 he (m := 20) (q := 0) (by decide) (Bool.toNat_lt p) (d.isLt) (a.isLt) (b.isLt) (m.isLt)
  refine decode_of_parse ?_ (checkWord_ok rfl (allZero1 z0) hwf nofun nofun)
  unfold parse; rw [field_toNat f0]; change parseMaj14 word = _; unfold parseMaj14; rw [bit_of_toNat (k := 31) g0, field_of_toNat (lo := 18) (n := 7) (x := d) g1, field_of_toNat (lo := 11) (n := 7) (x := a) g2, field_of_toNat (lo := 4) (n := 7) (x := b) g3, field_of_toNat (lo := 1) (n := 3) (x := m) g4]

theorem vfadd (p : Bool) (k : FMaj) (d : VReg) (a : VReg) (b : VReg) : Statement (.vfadd p k d a b) := by
  intro word hwf he
  obtain ⟨f0, f1, g0, g1, g2, g3, g4⟩ := layout35 he (m := 16) (c := 0) (q := 0) (by decide) (by decide) (Bool.toNat_lt p) ((FMaj.code k).isLt) (d.isLt) (a.isLt) (b.isLt)
  refine decode_of_parse ?_ (checkWord_ok rfl rfl hwf nofun nofun)
  rw [parse_float k f0]; unfold parseMaj15; rw [field_toNat (lo := 0) (n := 4) f1, bit_of_toNat (k := 31) g0, field_of_toNat (lo := 25) (n := 4) (x := FMaj.code k) g1, field_of_toNat (lo := 18) (n := 7) (x := d) g2, field_of_toNat (lo := 11) (n := 7) (x := a) g3, field_of_toNat (lo := 4) (n := 7) (x := b) g4, FMaj.code_ofCode k]; rfl

theorem vfsub (p : Bool) (k : FMaj) (d : VReg) (a : VReg) (b : VReg) : Statement (.vfsub p k d a b) := by
  intro word hwf he
  obtain ⟨f0, f1, g0, g1, g2, g3, g4⟩ := layout35 he (m := 16) (c := 1) (q := 0) (by decide) (by decide) (Bool.toNat_lt p) ((FMaj.code k).isLt) (d.isLt) (a.isLt) (b.isLt)
  refine decode_of_parse ?_ (checkWord_ok rfl rfl hwf nofun nofun)
  rw [parse_float k f0]; unfold parseMaj15; rw [field_toNat (lo := 0) (n := 4) f1, bit_of_toNat (k := 31) g0, field_of_toNat (lo := 25) (n := 4) (x := FMaj.code k) g1, field_of_toNat (lo := 18) (n := 7) (x := d) g2, field_of_toNat (lo := 11) (n := 7) (x := a) g3, field_of_toNat (lo := 4) (n := 7) (x := b) g4, FMaj.code_ofCode k]; rfl

theorem vfmul (p : Bool) (k : FMaj) (d : VReg) (a : VReg) (b : VReg) : Statement (.vfmul p k d a b) := by
  intro word hwf he
  obtain ⟨f0, f1, g0, g1, g2, g3, g4⟩ := layout35 he (m := 16) (c := 2) (q := 0) (by decide) (by decide) (Bool.toNat_lt p) ((FMaj.code k).isLt) (d.isLt) (a.isLt) (b.isLt)
  refine decode_of_parse ?_ (checkWord_ok rfl rfl hwf nofun nofun)
  rw [parse_float k f0]; unfold parseMaj15; rw [field_toNat (lo := 0) (n := 4) f1, bit_of_toNat (k := 31) g0, field_of_toNat (lo := 25) (n := 4) (x := FMaj.code k) g1, field_of_toNat (lo := 18) (n := 7) (x := d) g2, field_of_toNat (lo := 11) (n := 7) (x := a) g3, field_of_toNat (lo := 4) (n := 7) (x := b) g4, FMaj.code_ofCode k]; rfl

theorem vfma (p : Bool) (k : FMaj) (d : VReg) (a : VReg) (b : VReg) : Statement (.vfma p k d a b) := by
  intro word hwf he
  obtain ⟨f0, f1, g0, g1, g2, g3, g4⟩ := layout35 he (m := 16) (c := 3) (q := 0) (by decide) (by decide) (Bool.toNat_lt p) ((FMaj.code k).isLt) (d.isLt) (a.isLt) (b.isLt)
  refine decode_of_parse ?_ (checkWord_ok rfl rfl hwf nofun nofun)
  rw [parse_float k f0]; unfold parseMaj15; rw [field_toNat (lo := 0) (n := 4) f1, bit_of_toNat (k := 31) g0, field_of_toNat (lo := 25) (n := 4) (x := FMaj.code k) g1, field_of_toNat (lo := 18) (n := 7) (x := d) g2, field_of_toNat (lo := 11) (n := 7) (x := a) g3, field_of_toNat (lo := 4) (n := 7) (x := b) g4, FMaj.code_ofCode k]; rfl

theorem vfmin (p : Bool) (k : FMaj) (d : VReg) (a : VReg) (b : VReg) : Statement (.vfmin p k d a b) := by
  intro word hwf he
  obtain ⟨f0, f1, g0, g1, g2, g3, g4⟩ := layout35 he (m := 16) (c := 4) (q := 0) (by decide) (by decide) (Bool.toNat_lt p) ((FMaj.code k).isLt) (d.isLt) (a.isLt) (b.isLt)
  refine decode_of_parse ?_ (checkWord_ok rfl rfl hwf nofun nofun)
  rw [parse_float k f0]; unfold parseMaj15; rw [field_toNat (lo := 0) (n := 4) f1, bit_of_toNat (k := 31) g0, field_of_toNat (lo := 25) (n := 4) (x := FMaj.code k) g1, field_of_toNat (lo := 18) (n := 7) (x := d) g2, field_of_toNat (lo := 11) (n := 7) (x := a) g3, field_of_toNat (lo := 4) (n := 7) (x := b) g4, FMaj.code_ofCode k]; rfl

theorem vfmax (p : Bool) (k : FMaj) (d : VReg) (a : VReg) (b : VReg) : Statement (.vfmax p k d a b) := by
  intro word hwf he
  obtain ⟨f0, f1, g0, g1, g2, g3, g4⟩ := layout35 he (m := 16) (c := 5) (q := 0) (by decide) (by decide) (Bool.toNat_lt p) ((FMaj.code k).isLt) (d.isLt) (a.isLt) (b.isLt)
  refine decode_of_parse ?_ (checkWord_ok rfl rfl hwf nofun nofun)
  rw [parse_float k f0]; unfold parseMaj15; rw [field_toNat (lo := 0) (n := 4) f1, bit_of_toNat (k := 31) g0, field_of_toNat (lo := 25) (n := 4) (x := FMaj.code k) g1, field_of_toNat (lo := 18) (n := 7) (x := d) g2, field_of_toNat (lo := 11) (n := 7) (x := a) g3, field_of_toNat (lo := 4) (n := 7) (x := b) g4, FMaj.code_ofCode k]; rfl

theorem vfabs (p : Bool) (k : FMaj) (d : VReg) (a : VReg) : Statement (.vfabs p k d a) := by
  intro word hwf he
  obtain ⟨f0, f1, g0, g1, g2, g3, z0⟩ := layout36 he (m := 16) (c := 6) (q := 0) (by decide) (by decide) (Bool.toNat_lt p) ((FMaj.code k).isLt) (d.isLt) (a.isLt)
  refine decode_of_parse ?_ (checkWord_ok rfl (allZero1 z0) hwf nofun nofun)
  rw [parse_float k f0]; unfold parseMaj15; rw [field_toNat (lo := 0) (n := 4) f1, bit_of_toNat (k := 31) g0, field_of_toNat (lo := 25) (n := 4) (x := FMaj.code k) g1, field_of_toNat (lo := 18) (n := 7) (x := d) g2, field_of_toNat (lo := 11) (n := 7) (x := a) g3, FMaj.code_ofCode k]; rfl

theorem vfneg (p : Bool) (k : FMaj) (d : VReg) (a : VReg) : Statement (.vfneg p k d a) := by
  intro word hwf he
  obtain ⟨f0, f1, g0, g1, g2, g3, z0⟩ := layout36 he (m := 16) (c := 7) (q := 0) (by decide) (by decide) (Bool.toNat_lt p) ((FMaj.code k).isLt) (d.isLt) (a.isLt)
  refine decode_of_parse ?_ (checkWord_ok rfl (allZero1 z0) hwf nofun nofun)
  rw [parse_float k f0]; unfold parseMaj15; rw [field_toNat (lo := 0) (n := 4) f1, bit_of_toNat (k := 31) g0, field_of_toNat (lo := 25) (n := 4) (x := FMaj.code k) g1, field_of_toNat (lo := 18) (n := 7) (x := d) g2, field_of_toNat (lo := 11) (n := 7) (x := a) g3, FMaj.code_ofCode k]; rfl

theorem vfcps (p : Bool) (k : FMaj) (d : VReg) (a : VReg) (b : VReg) : Statement (.vfcps p k d a b) := by
  intro word hwf he
  obtain ⟨f0, f1, g0, g1, g2, g3, g4⟩ := layout35 he (m := 16) (c := 8) (q := 0) (by decide) (by decide) (Bool.toNat_lt p) ((FMaj.code k).isLt) (d.isLt) (a.isLt) (b.isLt)
  refine decode_of_parse ?_ (checkWord_ok rfl rfl hwf nofun nofun)
  rw [parse_float k f0]; unfold parseMaj15; rw [field_toNat (lo := 0) (n := 4) f1, bit_of_toNat (k := 31) g0, field_of_toNat (lo := 25) (n := 4) (x := FMaj.code k) g1, field_of_toNat (lo := 18) (n := 7) (x := d) g2, field_of_toNat (lo := 11) (n := 7) (x := a) g3, field_of_toNat (lo := 4) (n := 7) (x := b) g4, FMaj.code_ofCode k]; rfl

theorem vfdiv (p : Bool) (k : FMaj) (d : VReg) (a : VReg) (b : VReg) : Statement (.vfdiv p k d a b) := by
  intro word hwf he
  obtain ⟨f0, f1, g0, g1, g2, g3, g4⟩ := layout35 he (m := 16) (c := 9) (q := 0) (by decide) (by decide) (Bool.toNat_lt p) ((FMaj.code k).isLt) (d.isLt) (a.isLt) (b.isLt)
  refine decode_of_parse ?_ (checkWord_ok rfl rfl hwf nofun nofun)
  rw [parse_float k f0]; unfold parseMaj15; rw [field_toNat (lo := 0) (n := 4) f1, bit_of_toNat (k := 31) g0, field_of_toNat (lo := 25) (n := 4) (x := FMaj.code k) g1, field_of_toNat (lo := 18) (n := 7) (x := d) g2, field_of_toNat (lo := 11) (n := 7) (x := a) g3, field_of_toNat (lo := 4) (n := 7) (x := b) g4, FMaj.code_ofCode k]; rfl

theorem vfrnd (p : Bool) (k : FMaj) (d : VReg) (a : VReg) : Statement (.vfrnd p k d a) := by
  intro word hwf he
  obtain ⟨f0, f1, g0, g1, g2, g3, z0⟩ := layout36 he (m := 16) (c := 10) (q := 0) (by decide) (by decide) (Bool.toNat_lt p) ((FMaj.code k).isLt) (d.isLt) (a.isLt)
  refine decode_of_parse ?_ (checkWord_ok rfl (allZero1 z0) hwf nofun nofun)
  rw [parse_float k f0]; unfold parseMaj15; rw [field_toNat (lo := 0) (n := 4) f1, bit_of_toNat (k := 31) g0, field_of_toNat (lo := 25) (n := 4) (x := FMaj.code k) g1, field_of_toNat (lo := 18) (n := 7) (x := d) g2, field_of_toNat (lo := 11) (n := 7) (x := a) g3, FMaj.code_ofCode k]; rfl

theorem vfaddS (p : Bool) (d : VReg) (a : VReg) (s : SReg) (t : FType) : Statement (.vfaddS p d a s t) := by
  intro word hwf he
  obtain ⟨f0, f1, g0, g1, g2, g3, g4⟩ := layout37 he (m := 25) (c := 0) (q := 0) (by decide) (by decide) (Bool.toNat_lt p) (d.isLt) (a.isLt) (s.isLt) ((FType.code t).isLt)
  refine decode_of_parse ?_ (checkWord_ok rfl rfl hwf nofun nofun)
  unfold parse; rw [field_toNat f0]; change parseMaj19 word = _; unfold parseMaj19; rw [field_toNat (lo := 2) (n := 3) f1, bit_of_toNat (k := 31) g0, field_of_toNat (lo := 18) (n := 7) (x := d) g1, field_of_toNat (lo := 11) (n := 7) (x := a) g2, field_of_toNat (lo := 5) (n := 6) (x := s) g3, field_of_toNat (lo := 0) (n := 2) (x := FType.code t) g4, FType.code_ofCode t]; rfl

theorem vfsubS (p : Bool) (d : VReg) (a : VReg) (s : SReg) (t : FType) : Statement (.vfsubS p d a s t) := by
  intro word hwf he
  obtain ⟨f0, f1, g0, g1, g2, g3, g4⟩ := layout37 he (m := 25) (c := 1) (q := 0) (by decide) (by decide) (Bool.toNat_lt p) (d.isLt) (a.isLt) (s.isLt) ((FType.code t).isLt)
  refine decode_of_parse ?_ (checkWord_ok rfl rfl hwf nofun nofun)
  unfold parse; rw [field_toNat f0]; change parseMaj19 word = _; unfold parseMaj19; rw [field_toNat (lo := 2) (n := 3) f1, bit_of_toNat (k := 31) g0, field_of_toNat (lo := 18) (n := 7) (x := d) g1, field_of_toNat (lo := 11) (n := 7) (x := a) g2, field_of_toNat (lo := 5) (n := 6) (x := s) g3, field_of_toNat (lo := 0) (n := 2) (x := FType.code t) g4, FType.code_ofCode t]; rfl

theorem vfmulS (p : Bool) (d : VReg) (a : VReg) (s : SReg) (t : FType) : Statement (.vfmulS p d a s t) := by
  intro word hwf he
  obtain ⟨f0, f1, g0, g1, g2, g3, g4⟩ := layout37 he (m := 25) (c := 2) (q := 0) (by decide) (by decide) (Bool.toNat_lt p) (d.isLt) (a.isLt) (s.isLt) ((FType.code t).isLt)
  refine decode_of_parse ?_ (checkWord_ok rfl rfl hwf nofun nofun)
  unfold parse; rw [field_toNat f0]; change parseMaj19 word = _; unfold parseMaj19; rw [field_toNat (lo := 2) (n := 3) f1, bit_of_toNat (k := 31) g0, field_of_toNat (lo := 18) (n := 7) (x := d) g1, field_of_toNat (lo := 11) (n := 7) (x := a) g2, field_of_toNat (lo := 5) (n := 6) (x := s) g3, field_of_toNat (lo := 0) (n := 2) (x := FType.code t) g4, FType.code_ofCode t]; rfl

theorem vfmaS (p : Bool) (d : VReg) (a : VReg) (s : SReg) (t : FType) : Statement (.vfmaS p d a s t) := by
  intro word hwf he
  obtain ⟨f0, f1, g0, g1, g2, g3, g4⟩ := layout37 he (m := 25) (c := 3) (q := 0) (by decide) (by decide) (Bool.toNat_lt p) (d.isLt) (a.isLt) (s.isLt) ((FType.code t).isLt)
  refine decode_of_parse ?_ (checkWord_ok rfl rfl hwf nofun nofun)
  unfold parse; rw [field_toNat f0]; change parseMaj19 word = _; unfold parseMaj19; rw [field_toNat (lo := 2) (n := 3) f1, bit_of_toNat (k := 31) g0, field_of_toNat (lo := 18) (n := 7) (x := d) g1, field_of_toNat (lo := 11) (n := 7) (x := a) g2, field_of_toNat (lo := 5) (n := 6) (x := s) g3, field_of_toNat (lo := 0) (n := 2) (x := FType.code t) g4, FType.code_ofCode t]; rfl

theorem vfminS (p : Bool) (d : VReg) (a : VReg) (s : SReg) (t : FType) : Statement (.vfminS p d a s t) := by
  intro word hwf he
  obtain ⟨f0, f1, g0, g1, g2, g3, g4⟩ := layout37 he (m := 25) (c := 4) (q := 0) (by decide) (by decide) (Bool.toNat_lt p) (d.isLt) (a.isLt) (s.isLt) ((FType.code t).isLt)
  refine decode_of_parse ?_ (checkWord_ok rfl rfl hwf nofun nofun)
  unfold parse; rw [field_toNat f0]; change parseMaj19 word = _; unfold parseMaj19; rw [field_toNat (lo := 2) (n := 3) f1, bit_of_toNat (k := 31) g0, field_of_toNat (lo := 18) (n := 7) (x := d) g1, field_of_toNat (lo := 11) (n := 7) (x := a) g2, field_of_toNat (lo := 5) (n := 6) (x := s) g3, field_of_toNat (lo := 0) (n := 2) (x := FType.code t) g4, FType.code_ofCode t]; rfl

theorem vfmaxS (p : Bool) (d : VReg) (a : VReg) (s : SReg) (t : FType) : Statement (.vfmaxS p d a s t) := by
  intro word hwf he
  obtain ⟨f0, f1, g0, g1, g2, g3, g4⟩ := layout37 he (m := 25) (c := 5) (q := 0) (by decide) (by decide) (Bool.toNat_lt p) (d.isLt) (a.isLt) (s.isLt) ((FType.code t).isLt)
  refine decode_of_parse ?_ (checkWord_ok rfl rfl hwf nofun nofun)
  unfold parse; rw [field_toNat f0]; change parseMaj19 word = _; unfold parseMaj19; rw [field_toNat (lo := 2) (n := 3) f1, bit_of_toNat (k := 31) g0, field_of_toNat (lo := 18) (n := 7) (x := d) g1, field_of_toNat (lo := 11) (n := 7) (x := a) g2, field_of_toNat (lo := 5) (n := 6) (x := s) g3, field_of_toNat (lo := 0) (n := 2) (x := FType.code t) g4, FType.code_ofCode t]; rfl

theorem vrcp (p : Bool) (d : VReg) (a : VReg) (t : SfuType) : Statement (.vrcp p d a t) := by
  intro word hwf he
  obtain ⟨f0, f1, g0, g1, g2, g3, z0⟩ := layout38 he (m := 26) (c := 0) (q := 0) (by decide) (by decide) (Bool.toNat_lt p) (d.isLt) (a.isLt) ((SfuType.code t).isLt)
  refine decode_of_parse ?_ (checkWord_ok rfl (allZero1 z0) hwf nofun nofun)
  unfold parse; rw [field_toNat f0]; change parseMaj1A word = _; unfold parseMaj1A; rw [field_toNat (lo := 7) (n := 4) f1, bit_of_toNat (k := 31) g0, field_of_toNat (lo := 18) (n := 7) (x := d) g1, field_of_toNat (lo := 11) (n := 7) (x := a) g2, field_of_toNat (lo := 5) (n := 2) (x := SfuType.code t) g3, SfuType.code_ofCode t]; rfl

theorem vrsq (p : Bool) (d : VReg) (a : VReg) (t : SfuType) : Statement (.vrsq p d a t) := by
  intro word hwf he
  obtain ⟨f0, f1, g0, g1, g2, g3, z0⟩ := layout38 he (m := 26) (c := 1) (q := 0) (by decide) (by decide) (Bool.toNat_lt p) (d.isLt) (a.isLt) ((SfuType.code t).isLt)
  refine decode_of_parse ?_ (checkWord_ok rfl (allZero1 z0) hwf nofun nofun)
  unfold parse; rw [field_toNat f0]; change parseMaj1A word = _; unfold parseMaj1A; rw [field_toNat (lo := 7) (n := 4) f1, bit_of_toNat (k := 31) g0, field_of_toNat (lo := 18) (n := 7) (x := d) g1, field_of_toNat (lo := 11) (n := 7) (x := a) g2, field_of_toNat (lo := 5) (n := 2) (x := SfuType.code t) g3, SfuType.code_ofCode t]; rfl

theorem vsqrt (p : Bool) (d : VReg) (a : VReg) (t : SfuType) : Statement (.vsqrt p d a t) := by
  intro word hwf he
  obtain ⟨f0, f1, g0, g1, g2, g3, z0⟩ := layout38 he (m := 26) (c := 2) (q := 0) (by decide) (by decide) (Bool.toNat_lt p) (d.isLt) (a.isLt) ((SfuType.code t).isLt)
  refine decode_of_parse ?_ (checkWord_ok rfl (allZero1 z0) hwf nofun nofun)
  unfold parse; rw [field_toNat f0]; change parseMaj1A word = _; unfold parseMaj1A; rw [field_toNat (lo := 7) (n := 4) f1, bit_of_toNat (k := 31) g0, field_of_toNat (lo := 18) (n := 7) (x := d) g1, field_of_toNat (lo := 11) (n := 7) (x := a) g2, field_of_toNat (lo := 5) (n := 2) (x := SfuType.code t) g3, SfuType.code_ofCode t]; rfl

theorem vexp2 (p : Bool) (d : VReg) (a : VReg) (t : SfuType) : Statement (.vexp2 p d a t) := by
  intro word hwf he
  obtain ⟨f0, f1, g0, g1, g2, g3, z0⟩ := layout38 he (m := 26) (c := 3) (q := 0) (by decide) (by decide) (Bool.toNat_lt p) (d.isLt) (a.isLt) ((SfuType.code t).isLt)
  refine decode_of_parse ?_ (checkWord_ok rfl (allZero1 z0) hwf nofun nofun)
  unfold parse; rw [field_toNat f0]; change parseMaj1A word = _; unfold parseMaj1A; rw [field_toNat (lo := 7) (n := 4) f1, bit_of_toNat (k := 31) g0, field_of_toNat (lo := 18) (n := 7) (x := d) g1, field_of_toNat (lo := 11) (n := 7) (x := a) g2, field_of_toNat (lo := 5) (n := 2) (x := SfuType.code t) g3, SfuType.code_ofCode t]; rfl

theorem vlog2 (p : Bool) (d : VReg) (a : VReg) (t : SfuType) : Statement (.vlog2 p d a t) := by
  intro word hwf he
  obtain ⟨f0, f1, g0, g1, g2, g3, z0⟩ := layout38 he (m := 26) (c := 4) (q := 0) (by decide) (by decide) (Bool.toNat_lt p) (d.isLt) (a.isLt) ((SfuType.code t).isLt)
  refine decode_of_parse ?_ (checkWord_ok rfl (allZero1 z0) hwf nofun nofun)
  unfold parse; rw [field_toNat f0]; change parseMaj1A word = _; unfold parseMaj1A; rw [field_toNat (lo := 7) (n := 4) f1, bit_of_toNat (k := 31) g0, field_of_toNat (lo := 18) (n := 7) (x := d) g1, field_of_toNat (lo := 11) (n := 7) (x := a) g2, field_of_toNat (lo := 5) (n := 2) (x := SfuType.code t) g3, SfuType.code_ofCode t]; rfl

theorem vsin (p : Bool) (d : VReg) (a : VReg) (t : SfuType) : Statement (.vsin p d a t) := by
  intro word hwf he
  obtain ⟨f0, f1, g0, g1, g2, g3, z0⟩ := layout38 he (m := 26) (c := 5) (q := 0) (by decide) (by decide) (Bool.toNat_lt p) (d.isLt) (a.isLt) ((SfuType.code t).isLt)
  refine decode_of_parse ?_ (checkWord_ok rfl (allZero1 z0) hwf nofun nofun)
  unfold parse; rw [field_toNat f0]; change parseMaj1A word = _; unfold parseMaj1A; rw [field_toNat (lo := 7) (n := 4) f1, bit_of_toNat (k := 31) g0, field_of_toNat (lo := 18) (n := 7) (x := d) g1, field_of_toNat (lo := 11) (n := 7) (x := a) g2, field_of_toNat (lo := 5) (n := 2) (x := SfuType.code t) g3, SfuType.code_ofCode t]; rfl

theorem vcos (p : Bool) (d : VReg) (a : VReg) (t : SfuType) : Statement (.vcos p d a t) := by
  intro word hwf he
  obtain ⟨f0, f1, g0, g1, g2, g3, z0⟩ := layout38 he (m := 26) (c := 6) (q := 0) (by decide) (by decide) (Bool.toNat_lt p) (d.isLt) (a.isLt) ((SfuType.code t).isLt)
  refine decode_of_parse ?_ (checkWord_ok rfl (allZero1 z0) hwf nofun nofun)
  unfold parse; rw [field_toNat f0]; change parseMaj1A word = _; unfold parseMaj1A; rw [field_toNat (lo := 7) (n := 4) f1, bit_of_toNat (k := 31) g0, field_of_toNat (lo := 18) (n := 7) (x := d) g1, field_of_toNat (lo := 11) (n := 7) (x := a) g2, field_of_toNat (lo := 5) (n := 2) (x := SfuType.code t) g3, SfuType.code_ofCode t]; rfl

theorem vtanh (p : Bool) (d : VReg) (a : VReg) (t : SfuType) : Statement (.vtanh p d a t) := by
  intro word hwf he
  obtain ⟨f0, f1, g0, g1, g2, g3, z0⟩ := layout38 he (m := 26) (c := 7) (q := 0) (by decide) (by decide) (Bool.toNat_lt p) (d.isLt) (a.isLt) ((SfuType.code t).isLt)
  refine decode_of_parse ?_ (checkWord_ok rfl (allZero1 z0) hwf nofun nofun)
  unfold parse; rw [field_toNat f0]; change parseMaj1A word = _; unfold parseMaj1A; rw [field_toNat (lo := 7) (n := 4) f1, bit_of_toNat (k := 31) g0, field_of_toNat (lo := 18) (n := 7) (x := d) g1, field_of_toNat (lo := 11) (n := 7) (x := a) g2, field_of_toNat (lo := 5) (n := 2) (x := SfuType.code t) g3, SfuType.code_ofCode t]; rfl

theorem vcvt (p : Bool) (d : VReg) (a : VReg) (t : CvtType) (u : CvtType) (r : CvtRnd) (s : Bool) : Statement (.vcvt p d a t u r s) := by
  intro word hwf he
  obtain ⟨f0, g0, g1, g2, g3, g4, g5, g6⟩ := layout39 he (m := 27) (q := 0) (by decide) (Bool.toNat_lt p) (d.isLt) (a.isLt) ((CvtType.code t).isLt) ((CvtType.code u).isLt) ((CvtRnd.code r).isLt) (Bool.toNat_lt s)
  refine decode_of_parse ?_ (checkWord_ok rfl rfl hwf nofun nofun)
  unfold parse; rw [field_toNat f0]; change parseMaj1B word = _; unfold parseMaj1B; rw [bit_of_toNat (k := 31) g0, field_of_toNat (lo := 18) (n := 7) (x := d) g1, field_of_toNat (lo := 11) (n := 7) (x := a) g2, field_of_toNat (lo := 7) (n := 4) (x := CvtType.code t) g3, field_of_toNat (lo := 3) (n := 4) (x := CvtType.code u) g4, field_of_toNat (lo := 1) (n := 2) (x := CvtRnd.code r) g5, bit_of_toNat (k := 0) g6, CvtType.code_ofCode t, CvtType.code_ofCode u, CvtRnd.code_ofCode r]; rfl

theorem vpack4 (p : Bool) (d : VReg) (a : VReg) (t : BlkType) : Statement (.vpack4 p d a t) := by
  intro word hwf he
  obtain ⟨f0, f1, g0, g1, g2, g3, z0⟩ := layout40 he (m := 28) (c := 0) (q := 0) (by decide) (by decide) (Bool.toNat_lt p) (d.isLt) (a.isLt) ((BlkType.code t).isLt)
  refine decode_of_parse ?_ (checkWord_ok rfl (allZero1 z0) hwf nofun nofun)
  unfold parse; rw [field_toNat f0]; change parseMaj1C word = _; unfold parseMaj1C; rw [field_toNat (lo := 8) (n := 3) f1, bit_of_toNat (k := 31) g0, field_of_toNat (lo := 18) (n := 7) (x := d) g1, field_of_toNat (lo := 11) (n := 7) (x := a) g2, field_of_toNat (lo := 6) (n := 2) (x := BlkType.code t) g3, BlkType.code_ofCode t]; rfl

theorem vunpk4 (p : Bool) (d : VReg) (a : VReg) (t : BlkType) : Statement (.vunpk4 p d a t) := by
  intro word hwf he
  obtain ⟨f0, f1, g0, g1, g2, g3, z0⟩ := layout40 he (m := 28) (c := 1) (q := 0) (by decide) (by decide) (Bool.toNat_lt p) (d.isLt) (a.isLt) ((BlkType.code t).isLt)
  refine decode_of_parse ?_ (checkWord_ok rfl (allZero1 z0) hwf nofun nofun)
  unfold parse; rw [field_toNat f0]; change parseMaj1C word = _; unfold parseMaj1C; rw [field_toNat (lo := 8) (n := 3) f1, bit_of_toNat (k := 31) g0, field_of_toNat (lo := 18) (n := 7) (x := d) g1, field_of_toNat (lo := 11) (n := 7) (x := a) g2, field_of_toNat (lo := 6) (n := 2) (x := BlkType.code t) g3, BlkType.code_ofCode t]; rfl

theorem vshfl (p : Bool) (d : VReg) (a : VReg) (b : VReg) : Statement (.vshfl p d a b) := by
  intro word hwf he
  obtain ⟨f0, f1, g0, g1, g2, g3⟩ := layout29 he (m := 29) (c := 0) (q := 0) (by decide) (by decide) (Bool.toNat_lt p) (d.isLt) (a.isLt) (b.isLt)
  refine decode_of_parse ?_ (checkWord_ok rfl rfl hwf nofun nofun)
  unfold parse; rw [field_toNat f0]; change parseMaj1D word = _; unfold parseMaj1D; rw [field_toNat (lo := 0) (n := 4) f1, bit_of_toNat (k := 31) g0, field_of_toNat (lo := 18) (n := 7) (x := d) g1, field_of_toNat (lo := 11) (n := 7) (x := a) g2, field_of_toNat (lo := 4) (n := 7) (x := b) g3]; rfl

theorem vbcast (p : Bool) (d : VReg) (a : VReg) (k : BitVec 7) : Statement (.vbcast p d a k) := by
  intro word hwf he
  obtain ⟨f0, f1, g0, g1, g2, g3⟩ := layout29 he (m := 29) (c := 1) (q := 0) (by decide) (by decide) (Bool.toNat_lt p) (d.isLt) (a.isLt) (k.isLt)
  refine decode_of_parse ?_ (checkWord_ok rfl rfl hwf nofun nofun)
  unfold parse; rw [field_toNat f0]; change parseMaj1D word = _; unfold parseMaj1D; rw [field_toNat (lo := 0) (n := 4) f1, bit_of_toNat (k := 31) g0, field_of_toNat (lo := 18) (n := 7) (x := d) g1, field_of_toNat (lo := 11) (n := 7) (x := a) g2, field_of_toNat (lo := 4) (n := 7) (x := k) g3]; rfl

theorem vreadl (p : Bool) (s : SReg) (a : VReg) (k : BitVec 7) : Statement (.vreadl p s a k) := by
  intro word hwf he
  obtain ⟨f0, f1, g0, g1, g2, g3, z0⟩ := layout41 he (m := 29) (c := 2) (q := 0) (by decide) (by decide) (Bool.toNat_lt p) (s.isLt) (a.isLt) (k.isLt)
  refine decode_of_parse ?_ (checkWord_ok rfl (allZero1 z0) hwf nofun nofun)
  unfold parse; rw [field_toNat f0]; change parseMaj1D word = _; unfold parseMaj1D; rw [field_toNat (lo := 0) (n := 4) f1, bit_of_toNat (k := 31) g0, field_of_toNat (lo := 18) (n := 6) (x := s) g1, field_of_toNat (lo := 11) (n := 7) (x := a) g2, field_of_toNat (lo := 4) (n := 7) (x := k) g3]; rfl

theorem vwritel (p : Bool) (d : VReg) (s : SReg) (k : BitVec 7) : Statement (.vwritel p d s k) := by
  intro word hwf he
  obtain ⟨f0, f1, g0, g1, g2, g3, z0⟩ := layout42 he (m := 29) (c := 3) (q := 0) (by decide) (by decide) (Bool.toNat_lt p) (d.isLt) (s.isLt) (k.isLt)
  refine decode_of_parse ?_ (checkWord_ok rfl (allZero1 z0) hwf nofun nofun)
  unfold parse; rw [field_toNat f0]; change parseMaj1D word = _; unfold parseMaj1D; rw [field_toNat (lo := 0) (n := 4) f1, bit_of_toNat (k := 31) g0, field_of_toNat (lo := 18) (n := 7) (x := d) g1, field_of_toNat (lo := 11) (n := 6) (x := s) g2, field_of_toNat (lo := 4) (n := 7) (x := k) g3]; rfl

theorem vred (p : Bool) (d : VReg) (a : VReg) (o : RedOp) : Statement (.vred p d a o) := by
  intro word hwf he
  obtain ⟨f0, f1, g0, g1, g2, g3, z0⟩ := layout43 he (m := 29) (c := 4) (q := 0) (by decide) (by decide) (Bool.toNat_lt p) (d.isLt) (a.isLt) ((RedOp.code o).isLt)
  refine decode_of_parse ?_ (checkWord_ok (allZero1 z0) rfl hwf nofun nofun)
  unfold parse; rw [field_toNat f0]; change parseMaj1D word = _; unfold parseMaj1D; rw [field_toNat (lo := 0) (n := 4) f1, bit_of_toNat (k := 31) g0, field_of_toNat (lo := 18) (n := 7) (x := d) g1, field_of_toNat (lo := 11) (n := 7) (x := a) g2, field_of_toNat (lo := 4) (n := 3) (x := RedOp.code o) g3, RedOp.code_ofCode o]; rfl

theorem vscan (p : Bool) (d : VReg) (a : VReg) (o : RedOp) : Statement (.vscan p d a o) := by
  intro word hwf he
  obtain ⟨f0, f1, g0, g1, g2, g3, z0⟩ := layout43 he (m := 29) (c := 5) (q := 0) (by decide) (by decide) (Bool.toNat_lt p) (d.isLt) (a.isLt) ((RedOp.code o).isLt)
  refine decode_of_parse ?_ (checkWord_ok (allZero1 z0) rfl hwf nofun nofun)
  unfold parse; rw [field_toNat f0]; change parseMaj1D word = _; unfold parseMaj1D; rw [field_toNat (lo := 0) (n := 4) f1, bit_of_toNat (k := 31) g0, field_of_toNat (lo := 18) (n := 7) (x := d) g1, field_of_toNat (lo := 11) (n := 7) (x := a) g2, field_of_toNat (lo := 4) (n := 3) (x := RedOp.code o) g3, RedOp.code_ofCode o]; rfl

theorem vlane (p : Bool) (d : VReg) : Statement (.vlane p d) := by
  intro word hwf he
  obtain ⟨f0, f1, g0, g1, z0⟩ := layout44 he (m := 29) (c := 6) (q := 0) (by decide) (by decide) (Bool.toNat_lt p) (d.isLt)
  refine decode_of_parse ?_ (checkWord_ok rfl (allZero1 z0) hwf nofun nofun)
  unfold parse; rw [field_toNat f0]; change parseMaj1D word = _; unfold parseMaj1D; rw [field_toNat (lo := 0) (n := 4) f1, bit_of_toNat (k := 31) g0, field_of_toNat (lo := 18) (n := 7) (x := d) g1]; rfl

theorem ld (p : Bool) (v : VReg) (s : SReg) (o : VReg) (z : MSize) (c1 : Cache) : Statement (.ld p v s o z c1) := by
  intro word hwf he
  obtain ⟨f0, g0, g1, g2, g3, g4, g5⟩ := layout45 he (m := 30) (q := 0) (by decide) (Bool.toNat_lt p) (v.isLt) (s.isLt) (o.isLt) ((MSize.code z).isLt) ((Cache.code c1).isLt)
  refine decode_of_parse ?_ (checkWord_ok rfl rfl hwf nofun nofun)
  unfold parse; rw [field_toNat f0]; change parseMaj1E word = _; unfold parseMaj1E; rw [bit_of_toNat (k := 31) g0, field_of_toNat (lo := 18) (n := 7) (x := v) g1, field_of_toNat (lo := 12) (n := 6) (x := s) g2, field_of_toNat (lo := 5) (n := 7) (x := o) g3, field_of_toNat (lo := 2) (n := 3) (x := MSize.code z) g4, field_of_toNat (lo := 0) (n := 2) (x := Cache.code c1) g5, MSize.code_ofCode z, Cache.code_ofCode c1]; rfl

theorem st (p : Bool) (v : VReg) (s : SReg) (o : VReg) (z : MSize) (c1 : Cache) : Statement (.st p v s o z c1) := by
  intro word hwf he
  obtain ⟨f0, g0, g1, g2, g3, g4, g5⟩ := layout45 he (m := 31) (q := 0) (by decide) (Bool.toNat_lt p) (v.isLt) (s.isLt) (o.isLt) ((MSize.code z).isLt) ((Cache.code c1).isLt)
  refine decode_of_parse ?_ (checkWord_ok rfl rfl hwf nofun nofun)
  unfold parse; rw [field_toNat f0]; change parseMaj1F word = _; unfold parseMaj1F; rw [bit_of_toNat (k := 31) g0, field_of_toNat (lo := 18) (n := 7) (x := v) g1, field_of_toNat (lo := 12) (n := 6) (x := s) g2, field_of_toNat (lo := 5) (n := 7) (x := o) g3, field_of_toNat (lo := 2) (n := 3) (x := MSize.code z) g4, field_of_toNat (lo := 0) (n := 2) (x := Cache.code c1) g5, MSize.code_ofCode z, Cache.code_ofCode c1]; rfl

theorem sld (p : Bool) (d : SReg) (s : SReg) (o : BitVec 10) (z : WSize) : Statement (.sld p d s o z) := by
  intro word hwf he
  obtain ⟨f0, f1, g0, g1, g2, g3, g4⟩ := layout46 he (m := 32) (c := 0) (q := 0) (by decide) (by decide) (Bool.toNat_lt p) (d.isLt) (s.isLt) (o.isLt) ((WSize.code z).isLt)
  refine decode_of_parse ?_ (checkWord_ok rfl rfl hwf nofun nofun)
  unfold parse; rw [field_toNat f0]; change parseMaj20 word = _; unfold parseMaj20; rw [field_toNat (lo := 1) (n := 2) f1, bit_of_toNat (k := 31) g0, field_of_toNat (lo := 19) (n := 6) (x := d) g1, field_of_toNat (lo := 13) (n := 6) (x := s) g2, field_of_toNat (lo := 3) (n := 10) (x := o) g3, field_of_toNat (lo := 0) (n := 1) (x := WSize.code z) g4, WSize.code_ofCode z]; rfl

theorem sst (p : Bool) (d : SReg) (s : SReg) (o : BitVec 10) (z : WSize) : Statement (.sst p d s o z) := by
  intro word hwf he
  obtain ⟨f0, f1, g0, g1, g2, g3, g4⟩ := layout46 he (m := 32) (c := 1) (q := 0) (by decide) (by decide) (Bool.toNat_lt p) (d.isLt) (s.isLt) (o.isLt) ((WSize.code z).isLt)
  refine decode_of_parse ?_ (checkWord_ok rfl rfl hwf nofun nofun)
  unfold parse; rw [field_toNat f0]; change parseMaj20 word = _; unfold parseMaj20; rw [field_toNat (lo := 1) (n := 2) f1, bit_of_toNat (k := 31) g0, field_of_toNat (lo := 19) (n := 6) (x := d) g1, field_of_toNat (lo := 13) (n := 6) (x := s) g2, field_of_toNat (lo := 3) (n := 10) (x := o) g3, field_of_toNat (lo := 0) (n := 1) (x := WSize.code z) g4, WSize.code_ofCode z]; rfl

theorem lds (p : Bool) (v : VReg) (s : SReg) (o : VReg) (z : MSize) (c1 : Cache) : Statement (.lds p v s o z c1) := by
  intro word hwf he
  obtain ⟨f0, g0, g1, g2, g3, g4, g5⟩ := layout45 he (m := 33) (q := 0) (by decide) (Bool.toNat_lt p) (v.isLt) (s.isLt) (o.isLt) ((MSize.code z).isLt) ((Cache.code c1).isLt)
  refine decode_of_parse ?_ (checkWord_ok rfl rfl hwf nofun nofun)
  unfold parse; rw [field_toNat f0]; change parseMaj21 word = _; unfold parseMaj21; rw [bit_of_toNat (k := 31) g0, field_of_toNat (lo := 18) (n := 7) (x := v) g1, field_of_toNat (lo := 12) (n := 6) (x := s) g2, field_of_toNat (lo := 5) (n := 7) (x := o) g3, field_of_toNat (lo := 2) (n := 3) (x := MSize.code z) g4, field_of_toNat (lo := 0) (n := 2) (x := Cache.code c1) g5, MSize.code_ofCode z, Cache.code_ofCode c1]; rfl

theorem sts (p : Bool) (v : VReg) (s : SReg) (o : VReg) (z : MSize) (c1 : Cache) : Statement (.sts p v s o z c1) := by
  intro word hwf he
  obtain ⟨f0, g0, g1, g2, g3, g4, g5⟩ := layout45 he (m := 34) (q := 0) (by decide) (Bool.toNat_lt p) (v.isLt) (s.isLt) (o.isLt) ((MSize.code z).isLt) ((Cache.code c1).isLt)
  refine decode_of_parse ?_ (checkWord_ok rfl rfl hwf nofun nofun)
  unfold parse; rw [field_toNat f0]; change parseMaj22 word = _; unfold parseMaj22; rw [bit_of_toNat (k := 31) g0, field_of_toNat (lo := 18) (n := 7) (x := v) g1, field_of_toNat (lo := 12) (n := 6) (x := s) g2, field_of_toNat (lo := 5) (n := 7) (x := o) g3, field_of_toNat (lo := 2) (n := 3) (x := MSize.code z) g4, field_of_toNat (lo := 0) (n := 2) (x := Cache.code c1) g5, MSize.code_ofCode z, Cache.code_ofCode c1]; rfl

theorem ldas (p : Bool) (v : VReg) (s : SReg) (o : VReg) (z : MSize) (q : BitVec 2) : Statement (.ldas p v s o z q) := by
  intro word hwf he
  obtain ⟨f0, g0, g1, g2, g3, g4, g5⟩ := layout45 he (m := 35) (q := 0) (by decide) (Bool.toNat_lt p) (v.isLt) (s.isLt) (o.isLt) ((MSize.code z).isLt) (q.isLt)
  refine decode_of_parse ?_ (checkWord_ok rfl rfl hwf nofun nofun)
  unfold parse; rw [field_toNat f0]; change parseMaj23 word = _; unfold parseMaj23; rw [bit_of_toNat (k := 31) g0, field_of_toNat (lo := 18) (n := 7) (x := v) g1, field_of_toNat (lo := 12) (n := 6) (x := s) g2, field_of_toNat (lo := 5) (n := 7) (x := o) g3, field_of_toNat (lo := 2) (n := 3) (x := MSize.code z) g4, field_of_toNat (lo := 0) (n := 2) (x := q) g5, MSize.code_ofCode z]; rfl

theorem stc (p : Bool) (v : VReg) (s : SReg) (o : VReg) (z : MSize) (q : BitVec 2) : Statement (.stc p v s o z q) := by
  intro word hwf he
  obtain ⟨f0, g0, g1, g2, g3, g4, g5⟩ := layout45 he (m := 36) (q := 0) (by decide) (Bool.toNat_lt p) (v.isLt) (s.isLt) (o.isLt) ((MSize.code z).isLt) (q.isLt)
  refine decode_of_parse ?_ (checkWord_ok rfl rfl hwf nofun nofun)
  unfold parse; rw [field_toNat f0]; change parseMaj24 word = _; unfold parseMaj24; rw [bit_of_toNat (k := 31) g0, field_of_toNat (lo := 18) (n := 7) (x := v) g1, field_of_toNat (lo := 12) (n := 6) (x := s) g2, field_of_toNat (lo := 5) (n := 7) (x := o) g3, field_of_toNat (lo := 2) (n := 3) (x := MSize.code z) g4, field_of_toNat (lo := 0) (n := 2) (x := q) g5, MSize.code_ofCode z]; rfl

theorem atom (p : Bool) (v : VReg) (s : SReg) (o : VReg) (a : AtomOp) : Statement (.atom p v s o a) := by
  intro word hwf he
  obtain ⟨f0, g0, g1, g2, g3, g4⟩ := layout47 he (m := 37) (q := 0) (by decide) (Bool.toNat_lt p) (v.isLt) (s.isLt) (o.isLt) ((AtomOp.code a).isLt)
  refine decode_of_parse ?_ (checkWord_ok rfl rfl hwf nofun nofun)
  unfold parse; rw [field_toNat f0]; change parseMaj25 word = _; unfold parseMaj25; rw [bit_of_toNat (k := 31) g0, field_of_toNat (lo := 18) (n := 7) (x := v) g1, field_of_toNat (lo := 12) (n := 6) (x := s) g2, field_of_toNat (lo := 5) (n := 7) (x := o) g3, field_of_toNat (lo := 0) (n := 5) (x := AtomOp.code a) g4, AtomOp.code_ofCode a]; rfl

theorem atoms (p : Bool) (v : VReg) (s : SReg) (o : VReg) (a : AtomOp) : Statement (.atoms p v s o a) := by
  intro word hwf he
  obtain ⟨f0, g0, g1, g2, g3, g4⟩ := layout47 he (m := 38) (q := 0) (by decide) (Bool.toNat_lt p) (v.isLt) (s.isLt) (o.isLt) ((AtomOp.code a).isLt)
  refine decode_of_parse ?_ (checkWord_ok rfl rfl hwf nofun nofun)
  unfold parse; rw [field_toNat f0]; change parseMaj26 word = _; unfold parseMaj26; rw [bit_of_toNat (k := 31) g0, field_of_toNat (lo := 18) (n := 7) (x := v) g1, field_of_toNat (lo := 12) (n := 6) (x := s) g2, field_of_toNat (lo := 5) (n := 7) (x := o) g3, field_of_toNat (lo := 0) (n := 5) (x := AtomOp.code a) g4, AtomOp.code_ofCode a]; rfl

theorem lr (p : Bool) (v : VReg) (s : SReg) (o : VReg) (z : WSize) : Statement (.lr p v s o z) := by
  intro word hwf he
  obtain ⟨f0, f1, g0, g1, g2, g3, g4, z0, z1⟩ := layout48 he (m := 39) (c := 0) (q := 0) (by decide) (by decide) (Bool.toNat_lt p) (v.isLt) (s.isLt) (o.isLt) ((WSize.code z).isLt)
  refine decode_of_parse ?_ (checkWord_ok (allZero1 z0) (allZero1 z1) hwf nofun nofun)
  unfold parse; rw [field_toNat f0]; change parseMaj27 word = _; unfold parseMaj27; rw [field_toNat (lo := 4) (n := 1) f1, bit_of_toNat (k := 31) g0, field_of_toNat (lo := 18) (n := 7) (x := v) g1, field_of_toNat (lo := 12) (n := 6) (x := s) g2, field_of_toNat (lo := 5) (n := 7) (x := o) g3, field_of_toNat (lo := 2) (n := 1) (x := WSize.code z) g4, WSize.code_ofCode z]; rfl

theorem sc (p : Bool) (v : VReg) (s : SReg) (o : VReg) (z : WSize) : Statement (.sc p v s o z) := by
  intro word hwf he
  obtain ⟨f0, f1, g0, g1, g2, g3, g4, z0, z1⟩ := layout48 he (m := 39) (c := 1) (q := 0) (by decide) (by decide) (Bool.toNat_lt p) (v.isLt) (s.isLt) (o.isLt) ((WSize.code z).isLt)
  refine decode_of_parse ?_ (checkWord_ok (allZero1 z0) (allZero1 z1) hwf nofun nofun)
  unfold parse; rw [field_toNat f0]; change parseMaj27 word = _; unfold parseMaj27; rw [field_toNat (lo := 4) (n := 1) f1, bit_of_toNat (k := 31) g0, field_of_toNat (lo := 18) (n := 7) (x := v) g1, field_of_toNat (lo := 12) (n := 6) (x := s) g2, field_of_toNat (lo := 5) (n := 7) (x := o) g3, field_of_toNat (lo := 2) (n := 1) (x := WSize.code z) g4, WSize.code_ofCode z]; rfl

theorem pref (p : Bool) (s : SReg) (o : VReg) (l : PrefLevel) (c1 : PrefClass) : Statement (.pref p s o l c1) := by
  intro word hwf he
  obtain ⟨f0, g0, g1, g2, g3, g4, z0, z1⟩ := layout49 he (m := 40) (q := 0) (by decide) (Bool.toNat_lt p) (s.isLt) (o.isLt) ((PrefLevel.code l).isLt) ((PrefClass.code c1).isLt)
  refine decode_of_parse ?_ (checkWord_ok (allZero1 z0) (allZero1 z1) hwf nofun nofun)
  unfold parse; rw [field_toNat f0]; change parseMaj28 word = _; unfold parseMaj28; rw [bit_of_toNat (k := 31) g0, field_of_toNat (lo := 12) (n := 6) (x := s) g1, field_of_toNat (lo := 5) (n := 7) (x := o) g2, field_of_toNat (lo := 2) (n := 1) (x := PrefLevel.code l) g3, field_of_toNat (lo := 0) (n := 2) (x := PrefClass.code c1) g4, PrefLevel.code_ofCode l, PrefClass.code_ofCode c1]; rfl

theorem bar (p : Bool) (g : BitVec 8) : Statement (.bar p g) := by
  intro word hwf he
  obtain ⟨f0, f1, g0, g1, z0⟩ := layout50 he (m := 41) (c := 0) (q := 0) (by decide) (by decide) (Bool.toNat_lt p) (g.isLt)
  refine decode_of_parse ?_ (checkWord_ok rfl (allZero1 z0) hwf nofun nofun)
  unfold parse; rw [field_toNat f0]; change parseMaj29 word = _; unfold parseMaj29; rw [field_toNat (lo := 21) (n := 4) f1, bit_of_toNat (k := 31) g0, field_of_toNat (lo := 13) (n := 8) (x := g) g1]; rfl

theorem arrive (p : Bool) (g : BitVec 8) : Statement (.arrive p g) := by
  intro word hwf he
  obtain ⟨f0, f1, g0, g1, z0⟩ := layout50 he (m := 41) (c := 1) (q := 0) (by decide) (by decide) (Bool.toNat_lt p) (g.isLt)
  refine decode_of_parse ?_ (checkWord_ok rfl (allZero1 z0) hwf nofun nofun)
  unfold parse; rw [field_toNat f0]; change parseMaj29 word = _; unfold parseMaj29; rw [field_toNat (lo := 21) (n := 4) f1, bit_of_toNat (k := 31) g0, field_of_toNat (lo := 13) (n := 8) (x := g) g1]; rfl

theorem waitb (p : Bool) (g : BitVec 8) (h : Bool) : Statement (.waitb p g h) := by
  intro word hwf he
  obtain ⟨f0, f1, g0, g1, g2, z0⟩ := layout51 he (m := 41) (c := 2) (q := 0) (by decide) (by decide) (Bool.toNat_lt p) (g.isLt) (Bool.toNat_lt h)
  refine decode_of_parse ?_ (checkWord_ok rfl (allZero1 z0) hwf nofun nofun)
  unfold parse; rw [field_toNat f0]; change parseMaj29 word = _; unfold parseMaj29; rw [field_toNat (lo := 21) (n := 4) f1, bit_of_toNat (k := 31) g0, field_of_toNat (lo := 13) (n := 8) (x := g) g1, bit_of_toNat (k := 12) g2]; rfl

theorem waita (p : Bool) (a : SReg) (v : SReg) (c1 : WCond) (s : Space) : Statement (.waita p a v c1 s) := by
  intro word hwf he
  obtain ⟨f0, f1, g0, g1, g2, g3, g4, z0, z1⟩ := layout52 he (m := 41) (c := 3) (q := 0) (by decide) (by decide) (Bool.toNat_lt p) (a.isLt) (v.isLt) ((WCond.code c1).isLt) ((Space.code s).isLt)
  refine decode_of_parse ?_ (checkWord_ok (allZero1 z0) (allZero1 z1) hwf nofun nofun)
  unfold parse; rw [field_toNat f0]; change parseMaj29 word = _; unfold parseMaj29; rw [field_toNat (lo := 21) (n := 4) f1, bit_of_toNat (k := 31) g0, field_of_toNat (lo := 15) (n := 6) (x := a) g1, field_of_toNat (lo := 9) (n := 6) (x := v) g2, field_of_toNat (lo := 6) (n := 2) (x := WCond.code c1) g3, field_of_toNat (lo := 5) (n := 1) (x := Space.code s) g4, WCond.code_ofCode c1, Space.code_ofCode s]; rfl

theorem waitc (p : Bool) (c1 : EClass) (n : BitVec 6) : Statement (.waitc p c1 n) := by
  intro word hwf he
  obtain ⟨f0, f1, g0, g1, g2, z0⟩ := layout53 he (m := 41) (c := 4) (q := 0) (by decide) (by decide) (Bool.toNat_lt p) ((EClass.code c1).isLt) (n.isLt)
  refine decode_of_parse ?_ (checkWord_ok rfl (allZero1 z0) hwf nofun nofun)
  unfold parse; rw [field_toNat f0]; change parseMaj29 word = _; unfold parseMaj29; rw [field_toNat (lo := 21) (n := 4) f1, bit_of_toNat (k := 31) g0, field_of_toNat (lo := 19) (n := 2) (x := EClass.code c1) g1, field_of_toNat (lo := 13) (n := 6) (x := n) g2, EClass.code_ofCode c1]; rfl

theorem waitbit (p : Bool) (b : SReg) (i : SReg) : Statement (.waitbit p b i) := by
  intro word hwf he
  obtain ⟨f0, f1, g0, g1, g2, z0⟩ := layout54 he (m := 41) (c := 5) (q := 0) (by decide) (by decide) (Bool.toNat_lt p) (b.isLt) (i.isLt)
  refine decode_of_parse ?_ (checkWord_ok rfl (allZero1 z0) hwf nofun nofun)
  unfold parse; rw [field_toNat f0]; change parseMaj29 word = _; unfold parseMaj29; rw [field_toNat (lo := 21) (n := 4) f1, bit_of_toNat (k := 31) g0, field_of_toNat (lo := 15) (n := 6) (x := b) g1, field_of_toNat (lo := 9) (n := 6) (x := i) g2]; rfl

theorem cpyG2s (p : Bool) (d : SReg) : Statement (.cpyG2s p d) := by
  intro word hwf he
  obtain ⟨f0, f1, g0, g1, z0⟩ := layout55 he (m := 42) (c := 0) (q := 0) (by decide) (by decide) (Bool.toNat_lt p) (d.isLt)
  refine decode_of_parse ?_ (checkWord_ok rfl (allZero1 z0) hwf nofun nofun)
  unfold parse; rw [field_toNat f0]; change parseMaj2A word = _; unfold parseMaj2A; rw [field_toNat (lo := 15) (n := 4) f1, bit_of_toNat (k := 31) g0, field_of_toNat (lo := 19) (n := 6) (x := d) g1]; rfl

theorem cpyS2g (p : Bool) (d : SReg) : Statement (.cpyS2g p d) := by
  intro word hwf he
  obtain ⟨f0, f1, g0, g1, z0⟩ := layout55 he (m := 42) (c := 1) (q := 0) (by decide) (by decide) (Bool.toNat_lt p) (d.isLt)
  refine decode_of_parse ?_ (checkWord_ok rfl (allZero1 z0) hwf nofun nofun)
  unfold parse; rw [field_toNat f0]; change parseMaj2A word = _; unfold parseMaj2A; rw [field_toNat (lo := 15) (n := 4) f1, bit_of_toNat (k := 31) g0, field_of_toNat (lo := 19) (n := 6) (x := d) g1]; rfl

theorem cpyG2g (p : Bool) (d : SReg) : Statement (.cpyG2g p d) := by
  intro word hwf he
  obtain ⟨f0, f1, g0, g1, z0⟩ := layout55 he (m := 42) (c := 2) (q := 0) (by decide) (by decide) (Bool.toNat_lt p) (d.isLt)
  refine decode_of_parse ?_ (checkWord_ok rfl (allZero1 z0) hwf nofun nofun)
  unfold parse; rw [field_toNat f0]; change parseMaj2A word = _; unfold parseMaj2A; rw [field_toNat (lo := 15) (n := 4) f1, bit_of_toNat (k := 31) g0, field_of_toNat (lo := 19) (n := 6) (x := d) g1]; rfl

theorem cpyg (p : Bool) (d : SReg) : Statement (.cpyg p d) := by
  intro word hwf he
  obtain ⟨f0, f1, g0, g1, z0⟩ := layout55 he (m := 42) (c := 3) (q := 0) (by decide) (by decide) (Bool.toNat_lt p) (d.isLt)
  refine decode_of_parse ?_ (checkWord_ok rfl (allZero1 z0) hwf nofun nofun)
  unfold parse; rw [field_toNat f0]; change parseMaj2A word = _; unfold parseMaj2A; rw [field_toNat (lo := 15) (n := 4) f1, bit_of_toNat (k := 31) g0, field_of_toNat (lo := 19) (n := 6) (x := d) g1]; rfl

theorem cpyas (p : Bool) (d : SReg) : Statement (.cpyas p d) := by
  intro word hwf he
  obtain ⟨f0, f1, g0, g1, z0⟩ := layout55 he (m := 42) (c := 4) (q := 0) (by decide) (by decide) (Bool.toNat_lt p) (d.isLt)
  refine decode_of_parse ?_ (checkWord_ok rfl (allZero1 z0) hwf nofun nofun)
  unfold parse; rw [field_toNat f0]; change parseMaj2A word = _; unfold parseMaj2A; rw [field_toNat (lo := 15) (n := 4) f1, bit_of_toNat (k := 31) g0, field_of_toNat (lo := 19) (n := 6) (x := d) g1]; rfl

theorem take (p : Bool) (a : SReg) : Statement (.take p a) := by
  intro word hwf he
  obtain ⟨f0, g0, g1, z0⟩ := layout56 he (m := 43) (q := 0) (by decide) (Bool.toNat_lt p) (a.isLt)
  refine decode_of_parse ?_ (checkWord_ok rfl (allZero1 z0) hwf nofun nofun)
  unfold parse; rw [field_toNat f0]; change parseMaj2B word = _; unfold parseMaj2B; rw [bit_of_toNat (k := 31) g0, field_of_toNat (lo := 19) (n := 6) (x := a) g1]

theorem mma (p : Bool) (z : ZReg) (h : MRows) (h' : KCode) (t : MType) (a : SReg) (c1 : Bool) (s : Bool) : Statement (.mma p z (h, h') t a c1 s) := by
  intro word hwf he
  obtain ⟨f0, g0, g1, g2, g3, g4, g5, g6, g7, z0⟩ := layout57 he (m := 44) (q := 0) (by decide) (Bool.toNat_lt p) (z.isLt) ((MRows.code h).isLt) ((KCode.code h').isLt) ((MType.code t).isLt) (a.isLt) (Bool.toNat_lt c1) (Bool.toNat_lt s)
  refine decode_of_parse ?_ (checkWord_ok rfl (allZero1 z0) hwf nofun nofun)
  unfold parse; rw [field_toNat f0]; change parseMaj2C word = _; unfold parseMaj2C; rw [bit_of_toNat (k := 31) g0, field_of_toNat (lo := 21) (n := 4) (x := z) g1, field_of_toNat (lo := 19) (n := 2) (x := MRows.code h) g2, field_of_toNat (lo := 16) (n := 3) (x := KCode.code h') g3, field_of_toNat (lo := 12) (n := 4) (x := MType.code t) g4, field_of_toNat (lo := 6) (n := 6) (x := a) g5, bit_of_toNat (k := 5) g6, bit_of_toNat (k := 4) g7, MRows.code_ofCode h, KCode.code_ofCode h', MType.code_ofCode t]; rfl

theorem ldstat (p : Bool) (a : SReg) (k : KCode) (t : MType) (m : Bool) (s : SReg) : Statement (.ldstat p a k t m s) := by
  intro word hwf he
  obtain ⟨f0, f1, g0, g1, g2, g3, g4, g5, z0, z1⟩ := layout58 he (m := 45) (c := 0) (q := 0) (by decide) (by decide) (Bool.toNat_lt p) (a.isLt) ((KCode.code k).isLt) ((MType.code t).isLt) (Bool.toNat_lt m) (s.isLt)
  refine decode_of_parse ?_ (checkWord_ok rfl (allZero2 z0 z1) hwf nofun nofun)
  unfold parse; rw [field_toNat f0]; change parseMaj2D word = _; unfold parseMaj2D; rw [field_toNat (lo := 2) (n := 1) f1, bit_of_toNat (k := 31) g0, field_of_toNat (lo := 19) (n := 6) (x := a) g1, field_of_toNat (lo := 14) (n := 3) (x := KCode.code k) g2, field_of_toNat (lo := 10) (n := 4) (x := MType.code t) g3, bit_of_toNat (k := 9) g4, field_of_toNat (lo := 17) (n := 2) (x := (0 : BitVec 2)) z1, field_of_toNat (lo := 3) (n := 6) (x := s) g5, KCode.code_ofCode k, MType.code_ofCode t]; rfl

theorem swaps (p : Bool) : Statement (.swaps p) := by
  intro word hwf he
  obtain ⟨f0, f1, g0, z0, z1⟩ := layout59 he (m := 45) (c := 1) (q := 0) (by decide) (by decide) (Bool.toNat_lt p)
  refine decode_of_parse ?_ (checkWord_ok rfl (allZero2 z0 z1) hwf nofun nofun)
  unfold parse; rw [field_toNat f0]; change parseMaj2D word = _; unfold parseMaj2D; rw [field_toNat (lo := 2) (n := 1) f1, bit_of_toNat (k := 31) g0]; rfl

theorem rmma (p : Bool) (z : ZReg) (a : SReg) (l : PalReg) (w : WType) (r : BitVec 5) (c1 : Bool) : Statement (.rmma p z a l w r c1) := by
  intro word hwf he
  obtain ⟨f0, g0, g1, g2, g3, g4, g5, g6, z0⟩ := layout60 he (m := 46) (q := 0) (by decide) (Bool.toNat_lt p) (z.isLt) (a.isLt) (l.isLt) ((WType.code w).isLt) (r.isLt) (Bool.toNat_lt c1)
  refine decode_of_parse ?_ (checkWord_ok rfl (allZero1 z0) hwf nofun nofun)
  unfold parse; rw [field_toNat f0]; change parseMaj2E word = _; unfold parseMaj2E; rw [bit_of_toNat (k := 31) g0, field_of_toNat (lo := 21) (n := 4) (x := z) g1, field_of_toNat (lo := 15) (n := 6) (x := a) g2, field_of_toNat (lo := 12) (n := 3) (x := l) g3, field_of_toNat (lo := 8) (n := 4) (x := WType.code w) g4, field_of_toNat (lo := 3) (n := 5) (x := r) g5, bit_of_toNat (k := 2) g6, WType.code_ofCode w]; rfl

theorem zzero (p : Bool) (z : ZReg) : Statement (.zzero p z) := by
  intro word hwf he
  obtain ⟨f0, f1, g0, g1, z0⟩ := layout61 he (m := 47) (c := 0) (q := 0) (by decide) (by decide) (Bool.toNat_lt p) (z.isLt)
  refine decode_of_parse ?_ (checkWord_ok rfl (allZero1 z0) hwf nofun nofun)
  unfold parse; rw [field_toNat f0]; change parseMaj2F word = _; unfold parseMaj2F; rw [field_toNat (lo := 21) (n := 4) f1, bit_of_toNat (k := 31) g0, field_of_toNat (lo := 17) (n := 4) (x := z) g1]; rfl

theorem zld (p : Bool) (z : ZReg) (s : SReg) : Statement (.zld p z s) := by
  intro word hwf he
  obtain ⟨f0, f1, g0, g1, g2, z0⟩ := layout62 he (m := 47) (c := 1) (q := 0) (by decide) (by decide) (Bool.toNat_lt p) (z.isLt) (s.isLt)
  refine decode_of_parse ?_ (checkWord_ok rfl (allZero1 z0) hwf nofun nofun)
  unfold parse; rw [field_toNat f0]; change parseMaj2F word = _; unfold parseMaj2F; rw [field_toNat (lo := 21) (n := 4) f1, bit_of_toNat (k := 31) g0, field_of_toNat (lo := 17) (n := 4) (x := z) g1, field_of_toNat (lo := 11) (n := 6) (x := s) g2]; rfl

theorem zst (p : Bool) (z : ZReg) (s : SReg) : Statement (.zst p z s) := by
  intro word hwf he
  obtain ⟨f0, f1, g0, g1, g2, z0⟩ := layout62 he (m := 47) (c := 2) (q := 0) (by decide) (by decide) (Bool.toNat_lt p) (z.isLt) (s.isLt)
  refine decode_of_parse ?_ (checkWord_ok rfl (allZero1 z0) hwf nofun nofun)
  unfold parse; rw [field_toNat f0]; change parseMaj2F word = _; unfold parseMaj2F; rw [field_toNat (lo := 21) (n := 4) f1, bit_of_toNat (k := 31) g0, field_of_toNat (lo := 17) (n := 4) (x := z) g1, field_of_toNat (lo := 11) (n := 6) (x := s) g2]; rfl

theorem zrd (p : Bool) (z : ZReg) (s : SReg) (v : VReg) : Statement (.zrd p z s v) := by
  intro word hwf he
  obtain ⟨f0, f1, g0, g1, g2, g3, z0⟩ := layout63 he (m := 47) (c := 3) (q := 0) (by decide) (by decide) (Bool.toNat_lt p) (z.isLt) (s.isLt) (v.isLt)
  refine decode_of_parse ?_ (checkWord_ok rfl (allZero1 z0) hwf nofun nofun)
  unfold parse; rw [field_toNat f0]; change parseMaj2F word = _; unfold parseMaj2F; rw [field_toNat (lo := 21) (n := 4) f1, bit_of_toNat (k := 31) g0, field_of_toNat (lo := 17) (n := 4) (x := z) g1, field_of_toNat (lo := 11) (n := 6) (x := s) g2, field_of_toNat (lo := 4) (n := 7) (x := v) g3]; rfl

theorem zwr (p : Bool) (z : ZReg) (s : SReg) (v : VReg) : Statement (.zwr p z s v) := by
  intro word hwf he
  obtain ⟨f0, f1, g0, g1, g2, g3, z0⟩ := layout63 he (m := 47) (c := 4) (q := 0) (by decide) (by decide) (Bool.toNat_lt p) (z.isLt) (s.isLt) (v.isLt)
  refine decode_of_parse ?_ (checkWord_ok rfl (allZero1 z0) hwf nofun nofun)
  unfold parse; rw [field_toNat f0]; change parseMaj2F word = _; unfold parseMaj2F; rw [field_toNat (lo := 21) (n := 4) f1, bit_of_toNat (k := 31) g0, field_of_toNat (lo := 17) (n := 4) (x := z) g1, field_of_toNat (lo := 11) (n := 6) (x := s) g2, field_of_toNat (lo := 4) (n := 7) (x := v) g3]; rfl

theorem zgive (p : Bool) (z : ZReg) : Statement (.zgive p z) := by
  intro word hwf he
  obtain ⟨f0, f1, g0, g1, z0⟩ := layout61 he (m := 47) (c := 5) (q := 0) (by decide) (by decide) (Bool.toNat_lt p) (z.isLt)
  refine decode_of_parse ?_ (checkWord_ok rfl (allZero1 z0) hwf nofun nofun)
  unfold parse; rw [field_toNat f0]; change parseMaj2F word = _; unfold parseMaj2F; rw [field_toNat (lo := 21) (n := 4) f1, bit_of_toNat (k := 31) g0, field_of_toNat (lo := 17) (n := 4) (x := z) g1]; rfl

theorem ztake (p : Bool) (z : ZReg) : Statement (.ztake p z) := by
  intro word hwf he
  obtain ⟨f0, f1, g0, g1, z0⟩ := layout61 he (m := 47) (c := 6) (q := 0) (by decide) (by decide) (Bool.toNat_lt p) (z.isLt)
  refine decode_of_parse ?_ (checkWord_ok rfl (allZero1 z0) hwf nofun nofun)
  unfold parse; rw [field_toNat f0]; change parseMaj2F word = _; unfold parseMaj2F; rw [field_toNat (lo := 21) (n := 4) f1, bit_of_toNat (k := 31) g0, field_of_toNat (lo := 17) (n := 4) (x := z) g1]; rfl

theorem gang (p : Bool) (g : BitVec 8) : Statement (.gang p g) := by
  intro word hwf he
  obtain ⟨f0, f1, g0, g1, z0⟩ := layout50 he (m := 47) (c := 7) (q := 0) (by decide) (by decide) (Bool.toNat_lt p) (g.isLt)
  refine decode_of_parse ?_ (checkWord_ok rfl (allZero1 z0) hwf nofun nofun)
  unfold parse; rw [field_toNat f0]; change parseMaj2F word = _; unfold parseMaj2F; rw [field_toNat (lo := 21) (n := 4) f1, bit_of_toNat (k := 31) g0, field_of_toNat (lo := 13) (n := 8) (x := g) g1]; rfl

theorem rank (p : Bool) (a : VReg) (n : NReg) (t : RType) (d : SReg) (c1 : BitVec 6) (o : Bool) (g : Bool) : Statement (.rank p a n t d c1 o g) := by
  intro word hwf he
  obtain ⟨f0, g0, g1, g2, g3, g4, g5, g6, g7⟩ := layout64 he (m := 48) (q := 0) (by decide) (Bool.toNat_lt p) (a.isLt) ((NReg.code n).isLt) ((RType.code t).isLt) (d.isLt) (c1.isLt) (Bool.toNat_lt o) (Bool.toNat_lt g)
  refine decode_of_parse ?_ (checkWord_ok rfl rfl hwf nofun nofun)
  unfold parse; rw [field_toNat f0]; change parseMaj30 word = _; unfold parseMaj30; rw [bit_of_toNat (k := 31) g0, field_of_toNat (lo := 18) (n := 7) (x := a) g1, field_of_toNat (lo := 16) (n := 2) (x := NReg.code n) g2, field_of_toNat (lo := 14) (n := 2) (x := RType.code t) g3, field_of_toNat (lo := 8) (n := 6) (x := d) g4, field_of_toNat (lo := 2) (n := 6) (x := c1) g5, bit_of_toNat (k := 1) g6, bit_of_toNat (k := 0) g7, NReg.code_ofCode n, RType.code_ofCode t]; rfl

theorem ldpal (p : Bool) (l : PalReg) (a : SReg) : Statement (.ldpal p l a) := by
  intro word hwf he
  obtain ⟨f0, f1, g0, g1, g2, z0⟩ := layout65 he (m := 49) (c := 0) (q := 0) (by decide) (by decide) (Bool.toNat_lt p) (l.isLt) (a.isLt)
  refine decode_of_parse ?_ (checkWord_ok rfl (allZero1 z0) hwf nofun nofun)
  unfold parse; rw [field_toNat f0]; change parseMaj31 word = _; unfold parseMaj31; rw [field_toNat (lo := 14) (n := 2) f1, bit_of_toNat (k := 31) g0, field_of_toNat (lo := 22) (n := 3) (x := l) g1, field_of_toNat (lo := 16) (n := 6) (x := a) g2]; rfl

theorem rkrec (p : Bool) (l : PalReg) (a : SReg) (v : VReg) (t : PType) : Statement (.rkrec p l a v t) := by
  intro word hwf he
  obtain ⟨f0, f1, g0, g1, g2, g3, g4, z0⟩ := layout66 he (m := 49) (c := 1) (q := 0) (by decide) (by decide) (Bool.toNat_lt p) (l.isLt) (a.isLt) (v.isLt) ((PType.code t).isLt)
  refine decode_of_parse ?_ (checkWord_ok rfl (allZero1 z0) hwf nofun nofun)
  unfold parse; rw [field_toNat f0]; change parseMaj31 word = _; unfold parseMaj31; rw [field_toNat (lo := 14) (n := 2) f1, bit_of_toNat (k := 31) g0, field_of_toNat (lo := 22) (n := 3) (x := l) g1, field_of_toNat (lo := 16) (n := 6) (x := a) g2, field_of_toNat (lo := 7) (n := 7) (x := v) g3, field_of_toNat (lo := 5) (n := 2) (x := PType.code t) g4, PType.code_ofCode t]; rfl

theorem doorbell (func : Nat) (queue : Nat) (value : Word) : Statement (.doorbell func queue value) := nofun

theorem descriptorRead (func : Nat) (queue : Nat) : Statement (.descriptorRead func queue) := nofun

theorem qceilWrite (byFunc : Nat) (func : Nat) (queue : Nat) (value : Word) : Statement (.qceilWrite byFunc func queue value) := nofun

theorem qsizeWrite (byFunc : Nat) (func : Nat) (queue : Nat) (value : Word) : Statement (.qsizeWrite byFunc func queue value) := nofun

theorem blockPlacement (launch : Nat) (block : Nat) (core : Nat) (p0 : Nat) : Statement (.blockPlacement launch block core p0) := nofun

theorem coresPlacement (launch : Nat) (places : List (Nat × Nat)) : Statement (.coresPlacement launch places) := nofun

theorem blockRetirement (block : Nat) : Statement (.blockRetirement block) := nofun

theorem ageingExpiry (launch : Nat) : Statement (.ageingExpiry launch) := nofun

theorem waitOverdue (wave : Nat) : Statement (.waitOverdue wave) := nofun

theorem victimChoice (launch : Nat) (block : Nat) : Statement (.victimChoice launch block) := nofun

theorem sliceExpiry (wave : Nat) : Statement (.sliceExpiry wave) := nofun

theorem eviction (block : Nat) : Statement (.eviction block) := nofun

theorem blockRestore (block : Nat) (core : Nat) (p0 : Nat) : Statement (.blockRestore block core p0) := nofun

theorem longResultReturn (wave : Nat) (k : Nat) : Statement (.longResultReturn wave k) := nofun

theorem translationCheckComplete (wave : Nat) : Statement (.translationCheckComplete wave) := nofun

theorem instructionFetchFail (wave : Nat) : Statement (.instructionFetchFail wave) := nofun

theorem trapDelivery (wave : Nat) : Statement (.trapDelivery wave) := nofun

theorem faultFinalRecord (launch : Nat) : Statement (.faultFinalRecord launch) := nofun

theorem waveEnd (wave : Nat) : Statement (.waveEnd wave) := nofun

theorem homeStoreEvent (k : Nat) : Statement (.homeStoreEvent k) := nofun

theorem homeAsofRead (wave : Nat) (k : Nat) : Statement (.homeAsofRead wave k) := nofun

theorem wcDrainTimeout (core : Nat) (part : Nat) (k : Nat) : Statement (.wcDrainTimeout core part k) := nofun

theorem remoteCleanExpiry (tower : Nat) (line : Nat) : Statement (.remoteCleanExpiry tower line) := nofun

theorem remoteDirtyFlush (tower : Nat) (line : Nat) : Statement (.remoteDirtyFlush tower line) := nofun

theorem pinLeaseExpiry (core : Nat) (line : Nat) : Statement (.pinLeaseExpiry core line) := nofun

theorem clockExchange : Statement (.clockExchange) := nofun

theorem horizonRaise (func : Nat) (byPF : Option Stamp) : Statement (.horizonRaise func byPF) := nofun

theorem horizonAnnounceAck (func : Nat) (core : Nat) : Statement (.horizonAnnounceAck func core) := nofun

theorem horizonRaiseComplete (func : Nat) : Statement (.horizonRaiseComplete func) := nofun

theorem logShareFull (func : Nat) (tower : Nat) : Statement (.logShareFull func tower) := nofun

theorem waitPollTick (wave : Nat) (entry : Nat) : Statement (.waitPollTick wave entry) := nofun

theorem waketoExpiry (wave : Nat) (entry : Nat) : Statement (.waketoExpiry wave entry) := nofun

theorem copyComplete (op : Nat) : Statement (.copyComplete op) := nofun

theorem matrixOpBegin (core : Nat) (k : Nat) : Statement (.matrixOpBegin core k) := nofun

theorem matrixOpComplete (core : Nat) (k : Nat) : Statement (.matrixOpComplete core k) := nofun

theorem rankOpComplete (core : Nat) : Statement (.rankOpComplete core) := nofun

theorem tileTransferComplete (op : Nat) : Statement (.tileTransferComplete op) := nofun

theorem marketAnswer (launch : Nat) : Statement (.marketAnswer launch) := nofun

theorem hostBar2Access (func : Nat) (addr : Nat) (len : Nat) (data : Option (List Byte)) : Statement (.hostBar2Access func addr len data) := nofun

theorem peerAccess (peer : Nat) (func : Nat) (addr : Nat) (len : Nat) (data : Option (List Byte)) : Statement (.peerAccess peer func addr len data) := nofun

theorem sampleTick (core : Nat) (part : Nat) : Statement (.sampleTick core part) := nofun

theorem verifyComplete (func : Nat) : Statement (.verifyComplete func) := nofun

theorem invalidateComplete (func : Nat) : Statement (.invalidateComplete func) := nofun

theorem l1LeaseExpiry (core : Nat) (line : Nat) : Statement (.l1LeaseExpiry core line) := nofun

theorem keepRequestComplete (func : Nat) : Statement (.keepRequestComplete func) := nofun

theorem keyCommandComplete : Statement (.keyCommandComplete) := nofun

theorem attestationComplete (func : Nat) : Statement (.attestationComplete func) := nofun

theorem instructionFetchComplete (wave : Nat) : Statement (.instructionFetchComplete wave) := nofun

theorem verify (func : Nat) (value : Word64) : Statement (.verify func value) := nofun

theorem verifyRelease (func : Nat) (value : Word64) : Statement (.verifyRelease func value) := nofun

theorem keepRegister (func : Nat) (value : Word64) : Statement (.keepRegister func value) := nofun

theorem keepEnd (func : Nat) (value : Word64) : Statement (.keepEnd func value) := nofun

theorem translationInvalidate (func : Nat) (value : Word64) : Statement (.translationInvalidate func value) := nofun

theorem keyLoad (byFunc : Nat) (key : Nat) : Statement (.keyLoad byFunc key) := nofun

theorem keyErase (byFunc : Nat) (key : Nat) : Statement (.keyErase byFunc key) := nofun

theorem attestationRequest (func : Nat) (value : Word64) : Statement (.attestationRequest func value) := nofun

theorem fholdWrite (func : Nat) (value : Word64) : Statement (.fholdWrite func value) := nofun

theorem fhlogqWrite (byFunc : Nat) (func : Nat) (value : Word) : Statement (.fhlogqWrite byFunc func value) := nofun

theorem fhlogbWrite (byFunc : Nat) (func : Nat) (value : Word64) : Statement (.fhlogbWrite byFunc func value) := nofun

theorem fcoreWrite (byFunc : Nat) (func : Nat) (j : Nat) (value : Word64) : Statement (.fcoreWrite byFunc func j value) := nofun

theorem suspend (byFunc : Nat) (func : Nat) : Statement (.suspend byFunc func) := nofun

theorem unsuspend (byFunc : Nat) (func : Nat) : Statement (.unsuspend byFunc func) := nofun

theorem fsliceWrite (byFunc : Nat) (func : Nat) (value : Word) : Statement (.fsliceWrite byFunc func value) := nofun

theorem fpinWrite (byFunc : Nat) (func : Nat) (value : Word) : Statement (.fpinWrite byFunc func value) := nofun

theorem debugStop (func : Nat) (value : Word) : Statement (.debugStop func value) := nofun

theorem debugResume (func : Nat) (value : Word) : Statement (.debugResume func value) := nofun

theorem debugRegisterWrite (func : Nat) (wave : Nat) (reg : DbgReg) (lanes : Word64) (value : Word) : Statement (.debugRegisterWrite func wave reg lanes value) := nofun

theorem registerWrite (byFunc : Nat) (func : Nat) (reg : BarReg) (value : Word64) : Statement (.registerWrite byFunc func reg value) := nofun

theorem linkTraining (port : Nat) (lanes : Word) : Statement (.linkTraining port lanes) := nofun

theorem deviceDegraded : Statement (.deviceDegraded) := nofun

theorem correctedSoftError (func : Nat) : Statement (.correctedSoftError func) := nofun

theorem deviceReset (boot : Boot) : Statement (.deviceReset boot) := nofun

theorem firmwareUpdateStage (genuine : Bool) : Statement (.firmwareUpdateStage genuine) := nofun

theorem thermalThrottle (die : Nat) (rate : Nat) (withhold : Bool) : Statement (.thermalThrottle die rate withhold) := nofun

theorem thermalShutdown : Statement (.thermalShutdown) := nofun

theorem uncorrectableError (block : Nat) (reader : Option Reader) : Statement (.uncorrectableError block reader) := nofun

theorem homeWayRetire (tower : Nat) (way : Nat) : Statement (.homeWayRetire tower way) := nofun

theorem dramRowRemap (tower : Nat) (row : Nat) : Statement (.dramRowRemap tower row) := nofun

end Sys2Proof.Laws.Encoding
end

