-- ==== Sys2Proof/Tests/Slice0.lean ====
section
/-! SUPPORT. The model's own tests: ill-formed terms that WellFormed refuses, words of the spec that the decoder reads, single steps against the
spec's own values, and a witness for the hypotheses of each statement, clause by clause. -/

namespace Sys2Proof.Tests

set_option Elab.async false

open Machine

/-! ### Ill-formed terms, one for each check (R84, R94, R105 to R117) -/

/-- R108, R110, R112, R115: codes that are reserved in their form. -/
theorem test_codes_refused : ∀ i ∈ [
    Instr.vcmp false 1 1 2 .ord .i32, .vcmp false 1 2 4 .unord .i64, .vcmp false 1 1 2 .ult .f32, .vexp2 false 2 2 .f64,
    .vtanh false 2 2 .f64, .vcvt false 2 2 .f32 .f32 .dyn false, .st false 1 2 3 .s8 .dflt, .sts false 1 2 3 .s16 .dflt,
    .stc false 1 2 3 .s8 0, .mma false 2 (.m8, .k1) .f32 2 false true, .ldstat false 2 .k1 .f64 true 2],
    i.codesOk = false := by decide

/-- R94, R105, R115: fields that are unused under the form's other fields. -/
theorem test_fields_refused : ∀ i ∈ [
    Instr.hintDep 1 false 3, .br .always 2 0, .br .scc 1 0, .br .execz 7 1, .ldstat false 2 .k1 .f16 false 4],
    i.fieldsOk = false := by decide

/-- R84, R106 to R117: register fields that break the rule of their form. -/
theorem test_registers_refused : ∀ i ∈ [
    Instr.stamp false 3, .jmpi 59, .calli 1, .sadd64 false 3 2 2, .sadd64 false 2 3 2, .ssub64 false 2 2 3, .scmp64 false 1 2 .eq,
    .scmp64 false 2 1 .eq, .msave false 1 5, .mload false 1 5, .vcmp false 1 1 2 .eq .f64, .vcmp false 1 2 1 .eq .i64,
    .vadd64 false 1 2 2, .vsub64 false 2 1 2, .vmulw false 1 1 1, .vfadd false .f64 1 2 2, .vfsub false .f64 2 1 2, .vfmul false .f64 2 2 1,
    .vfma false .f64 1 2 2, .vfmin false .f64 2 1 2, .vfmax false .f64 2 2 1, .vfcps false .f64 1 2 2, .vfdiv false .f64 2 2 1,
    .vfabs false .f64 1 2, .vfneg false .f64 2 1, .vfrnd false .f64 1 2, .vfaddS false 1 2 2 .f64, .vfsubS false 2 1 2 .f64,
    .vfmulS false 2 2 1 .f64, .vfmaS false 1 2 2 .f64, .vfminS false 2 1 2 .f64, .vfmaxS false 2 2 1 .f64, .vrcp false 1 2 .f64,
    .vrsq false 2 1 .f64, .vsqrt false 1 2 .f64, .vcvt false 1 2 .i64 .f32 .dyn false, .vcvt false 2 1 .f32 .f64 .dyn false,
    .ld false 1 3 2 .b32 .dflt, .ld false 3 2 2 .b64 .dflt, .lds false 2 2 2 .b128 .dflt, .st false 1 2 2 .b64 .dflt,
    .sts false 1 3 2 .b8 .dflt, .ldas false 1 3 2 .b32 0, .stc false 6 2 2 .b128 0, .sld false 3 2 0 .b64, .sst false 2 3 0 .b32,
    .atom false 3 2 2 .cas, .atoms false 2 2 2 .cas64, .atom false 1 2 2 .add64, .lr false 3 2 2 .b64, .sc false 1 3 2 .b32,
    .pref false 1 2 .l1 .dflt, .waita false 3 2 .eq .global, .waitbit false 1 2, .waitbit false 2 1, .cpyG2s false 4, .cpyS2g false 12,
    .cpyG2g false 2, .cpyg false 1, .cpyas false 20, .mma false 3 (.m8, .k1) .f64 2 false false, .rmma false 1 3 0 .f16 0 false,
    .zld false 1 3, .zst false 1 5, .rank false 2 .n4 .f32 2 0 false false, .rank false 4 .n4 .f32 3 0 false false],
    i.aligned = false := by decide

/-! ### Words of the spec (R83, R102 to R117) -/

/-- The words of `Claims.specWords`, written bit by bit from the formats of R83, four of them from "Decoding by hand". -/
theorem test_decode_words : ∀ x ∈ Claims.specWords, (decode x.1).toOption = some x.2 := by decide +kernel

/-- The words that "Decoding by hand" refuses, and three more, each for its reason. -/
theorem test_decode_refusals : (Claims.notWords.all fun x => match decode x.1 with
    | .ok _ => false
    | .error r => r == x.2) = true := by decide +kernel

/-- The encoder writes the same words. -/
theorem test_encode_words : ∀ x ∈ Claims.specWords, encode x.2 = some x.1 := by decide +kernel

/-- 0x58503230, the sparse BF16 MMA that "Decoding by hand" calls legal. -/
theorem test_decode_sparse : decodeTableWord 32 0x58503230 = some (.mma false 2 (.m32, .k1) .bf16 8 true true) := by decide +kernel

/-! ### States of the tests -/

/-- One wave of 16 lanes at a NOP, loaded after reset (log 9). -/
def base : State := State.reset.load 0

/-- The wave on the issue port. -/
abbrev cw (s : State) : Wave := s.wave s.issuing

/-- The machine with its issuing wave changed. -/
def edit (s : State) (f : Wave → Wave) : State := s.modWave 0 f

/-- Page 0 of VF 0 maps to physical page 2 with the rights given, as core 0's cache holds it. -/
def mapped (rd wr keep : Bool) (s : State) : State :=
  s.modCore 0 fun c => { c with tlb := [⟨0, 0, 2, ⟨0, false, keep, false, wr, rd⟩⟩] }

/-- A handler at 0x40000. -/
def handled (s : State) : State := s.modLaunch 0 fun l => { l with desc := { l.desc with trapVec := 0x40000 } }

/-- The check of a wave. -/
def okWave (s : State) (w : Wave) : Bool :=
  w.sregs.length == 64 && w.mregs.length == 8 && w.frags.length == 8 && decide (w.cur < 8) && decide (w.width ≤ 64) &&
    (w.vregs.all fun x => x.length == w.width) && decide (w.block < s.blocks.length)

/-- The check of a block. -/
def okBlock (s : State) (b : Block) : Bool :=
  decide (b.launch < s.launches.length) && decide (b.core < Config.cores) && b.phases.length == (s.launch b.launch).members.length + 1 &&
    b.tiles.all fun t => t.words.length == 1024

/-- The check of the invariant. -/
def okState (s : State) : Bool :=
  decide (Memory.wf s.mem) && s.dies.length == Config.dies && s.funcs.length == Config.functions && s.cores.length == Config.cores &&
    s.towers.length == Config.towers && s.waves.all (okWave s) && s.blocks.all (okBlock s) && s.launches.all fun l => decide (l.desc.width ≤ 64)

theorem wave_ok {s : State} {w : Wave} (h : okWave s w = true) : w.Ok ∧ w.block < s.blocks.length := by
  simp only [okWave, Bool.and_eq_true, beq_iff_eq, decide_eq_true_eq, List.all_eq_true] at h
  exact ⟨⟨h.1.1.1.1.1.1, h.1.1.1.1.1.2, h.1.1.1.1.2, h.1.1.1.2, h.1.1.2, h.1.2⟩, h.2⟩

theorem inv_ok {s : State} (h : okState s = true) : s.Inv := by
  simp only [okState, Bool.and_eq_true, beq_iff_eq, decide_eq_true_eq, List.all_eq_true] at h
  obtain ⟨⟨⟨⟨⟨⟨⟨h1, h2⟩, h3⟩, h4⟩, h5⟩, h6⟩, h7⟩, h8⟩ := h
  refine ⟨h1, h2, h3, h4, h5, fun w hw => wave_ok (h6 w hw), fun b hb => ?_, h8⟩
  have := h7 b hb
  simp only [okBlock, Bool.and_eq_true, beq_iff_eq, decide_eq_true_eq, List.all_eq_true] at this
  exact ⟨this.1.1.1, this.1.1.2, this.1.2, this.2⟩

theorem cur_ok {s : State} (h : s.issuing < s.waves.length) : s.cur = some (cw s) := by
  unfold State.cur cw State.wave
  rw [List.getD_eq_getElem?_getD, List.getElem?_eq_getElem h]; rfl

/-- The check that the wave on the issue port may issue. -/
def okIssue (s : State) : Bool := okState s && decide (s.issuing < s.waves.length) && s.ready (cw s)

theorem issues_ok {s : State} (h : okIssue s = true) : s.Issues (cw s) := by
  simp only [okIssue, Bool.and_eq_true, decide_eq_true_eq] at h
  exact ⟨inv_ok h.1.1, cur_ok h.1.2, h.2⟩

/-- The check of a quiet memory path. -/
def okQuiet (s : State) : Bool :=
  let w := cw s
  s.reqs.isEmpty && (s.cores.all fun c => c.pins.isEmpty && c.l1.isEmpty) && (s.towers.all fun t => t.remote.isEmpty) &&
    (s.partOf w).wc.isEmpty && s.copies.isEmpty && s.xfers.isEmpty && w.pending.isEmpty && w.holds.isEmpty && w.keepOut.isEmpty &&
    !(s.launchOf w).desc.dbg

theorem quiet_ok {s : State} (h : okQuiet s = true) : Claims.Quiet s (cw s) := by
  simp only [okQuiet, Bool.and_eq_true, List.isEmpty_iff, List.all_eq_true, Bool.not_eq_true'] at h
  obtain ⟨⟨⟨⟨⟨⟨⟨⟨⟨h1, h2⟩, h3⟩, h4⟩, h5⟩, h6⟩, h7⟩, h8⟩, h9⟩, h10⟩ := h
  exact ⟨h1, fun c hc => (h2 c hc).1, fun c hc => (h2 c hc).2, h3, h4, h5, h6, h7, h8, h9, h10⟩

/-- The check that nothing is on its way. -/
def okStill (s : State) : Bool :=
  s.reqs.isEmpty && (s.cores.all fun c => c.pins.isEmpty) && (s.towers.all fun t => t.remote.isEmpty && t.keeps.isEmpty)

theorem still_ok {s : State} (h : okStill s = true) : Claims.Still s ∧ Claims.Unregistered s := by
  simp only [okStill, Bool.and_eq_true, List.isEmpty_iff, List.all_eq_true] at h
  exact ⟨⟨h.1.1, h.1.2, fun t ht => (h.2 t ht).1⟩, fun t ht => (h.2 t ht).2⟩

/-- The check of the rights of an access. -/
def okRights (s : State) (k : AccKind) (e : TlbEntry) : Bool :=
  match k with
  | .load => e.leaf.rd
  | .store => e.leaf.w && !s.verifiedPage e.page
  | .atom => e.leaf.rd && e.leaf.w && !s.verifiedPage e.page
  | .asof => e.leaf.rd && e.leaf.keep

/-- The check that an address reaches its place. -/
def okReach (s : State) (k : AccKind) (va pa : Nat) : Bool :=
  match findTlb (s.core (s.coreOf (cw s))).tlb (s.funcOf (cw s)) (va / 65536) with
  | none => false
  | some e => pa == e.page * 65536 + va % 65536 && peerOf pa == 0 && s.keyOk (s.funcOf (cw s)) e.leaf.key &&
    (sealOf s.seals pa == none || sealOf s.seals pa == s.pair e.leaf.key) && okRights s k e

theorem reach_ok {s : State} {k : AccKind} {va pa : Nat} (h : okReach s k va pa = true) : Claims.Reaches s (cw s) k va pa := by
  unfold okReach at h
  split at h
  · simp at h
  · rename_i e he
    simp only [Bool.and_eq_true, Bool.or_eq_true, beq_iff_eq] at h
    refine ⟨e, he, h.1.1.1.1, h.1.1.1.2, h.1.1.2, h.1.2, ?_⟩
    have h2 := h.2
    cases k <;> simpa [okRights, Claims.rights, and_assoc] using h2

/-- The check that every lane reaches a place. -/
def okAll (s : State) (k : AccKind) (b : SReg) (o : VReg) (n : Nat) (place : Nat → Nat) : Bool :=
  (cw s).active.all fun l => decide (((cw s).s64 b).toNat < 2 ^ 52) && Claims.laneAddress (cw s) b o l % n == 0 &&
    okReach s k (Claims.laneAddress (cw s) b o l) (place l)

theorem all_ok {s : State} {k : AccKind} {b : SReg} {o : VReg} {n : Nat} {place : Nat → Nat} (h : okAll s k b o n place = true) :
    Claims.AllReach s (cw s) k b o n place := by
  intro l hl
  have := List.all_eq_true.mp h l hl
  simp only [Bool.and_eq_true, beq_iff_eq, decide_eq_true_eq] at this
  exact ⟨this.1.1, this.1.2, reach_ok this.2⟩

/-- The check that no lane's page is a KEEP page and that all are under one key. -/
def okPlain (s : State) (b : SReg) (o : VReg) (key : Nat) : Bool :=
  (cw s).active.all fun l =>
    match findTlb (s.core (s.coreOf (cw s))).tlb (s.funcOf (cw s)) (Claims.laneAddress (cw s) b o l / 65536) with
    | none => true
    | some e => !e.leaf.keep && e.leaf.key == key

theorem plain_ok {s : State} {b : SReg} {o : VReg} {place : Nat → Nat} (h : okPlain s b o 0 = true) : Claims.Plain s (cw s) b o place := by
  have key : ∀ l ∈ (cw s).active, ∀ e, findTlb (s.core (s.coreOf (cw s))).tlb (s.funcOf (cw s)) (Claims.laneAddress (cw s) b o l / 65536) = some e →
      e.leaf.keep = false ∧ e.leaf.key = 0 := by
    intro l hl e he
    have := List.all_eq_true.mp h l hl
    simp only [he, Bool.and_eq_true, Bool.not_eq_true', beq_iff_eq] at this
    exact this
  exact ⟨fun l hl e he => (key l hl e he).1, fun l hl k hk _ e f he hf => (key l hl e he).2.trans (key k hk f hf).2.symm⟩

theorem base_issues : base.Issues (cw base) := issues_ok (by decide +kernel)

theorem base_cur : base.cur = some (cw base) := base_issues.cur

theorem base_ok : (cw base).Ok := (wave_ok (s := base) (by decide +kernel)).1

/-! ### Witnesses: arithmetic -/

/-- ScalarResults: a form of each clause. -/
theorem witness_scalar_results : base.cur = some (cw base) ∧
    (∃ d o x y, Claims.scalarForm (cw base) (.ssra false 3 1 2) = some (false, d, o, x, y)) ∧
    (∃ d x, Claims.scalarOther (cw base) (.slui true 4 0x1FFF) = some (true, d, x)) ∧
    (∃ d x, Claims.pairForm (cw base) (.ssub64 false 2 4 6) = some (false, d, x)) ∧
    ∃ b, Claims.compareForm (cw base) (.scmp64 true 2 4 .uge) = some (true, b) :=
  ⟨base_cur, ⟨_, _, _, _, rfl⟩, ⟨_, _, rfl⟩, ⟨_, _, rfl⟩, ⟨_, rfl⟩⟩

/-- ScalarRegisters, VectorComparisons, VectorBitFields, LongVectorForms, MinMaxNumbers, IntegerConversion: a wave of the machine. -/
theorem witness_wave : base.cur = some (cw base) ∧ (cw base).Ok := ⟨base_cur, base_ok⟩

/-- MaskResults: a form of the mask, and MFF1 of an empty mask and of EXEC. -/
theorem witness_mask_results : base.cur = some (cw base) ∧ (cw base).Ok ∧
    (∃ d f, Claims.maskForm (cw base) (.mandn false 0 1 2) = some (false, d, f)) ∧ (cw base).m 1 = 0 ∧ (cw base).m 0 ≠ 0 :=
  ⟨base_cur, base_ok, ⟨_, _, rfl⟩, by decide +kernel, by decide +kernel⟩

/-- VectorResults: a form of each clause, the last pair at v6:v7 of the wave's eight registers. -/
theorem witness_vector_results : base.cur = some (cw base) ∧
    (∃ o x y, Claims.vectorForm (cw base) (.vshri false 7 7 31) = some (false, 7, o, x, y)) ∧
    (∃ x, Claims.vectorOther (cw base) (.vmadS true 7 1 63) = some (true, 7, x)) ∧
    ∃ x, Claims.vectorPair (cw base) (.vmulw false 6 1 2) = some (false, 6, x) :=
  ⟨base_cur, ⟨_, _, _, rfl⟩, ⟨_, rfl⟩, ⟨_, rfl⟩⟩

/-- VectorResults, the read-back: a register within V and one at V, a lane of EXEC and one outside it. -/
theorem witness_read_back : let w := cw (edit base fun w => { w with mregs := 0x00FF :: List.replicate 7 0 })
    w.Ok ∧ w.vregs.length ≤ 8 ∧ 7 < w.vregs.length ∧ 15 < w.width ∧ w.exec.getLsbD 7 = true ∧ w.exec.getLsbD 15 = false := by
  intro w
  exact ⟨(wave_ok (s := edit base fun w => { w with mregs := 0x00FF :: List.replicate 7 0 }) (by decide +kernel)).1, by decide +kernel⟩

/-- VectorComparisons: a lane outside EXEC, and a legal pair of each kind of type in one of EXEC. -/
theorem witness_comparisons : base.cur = some (cw base) ∧ (cw base).Ok ∧ (cw base).exec.getLsbD 16 = false ∧ (cw base).exec.getLsbD 15 = true ∧
    Claims.compares (cw base) .uge .i32 0 1 15 = some true ∧ Claims.compares (cw base) .lt .i64 0 2 15 = some false ∧
    Claims.compares (cw base) .unord .f16 0 1 15 = some false ∧ Claims.compares (cw base) .le .f64 0 2 15 = some true :=
  ⟨base_cur, base_ok, by decide +kernel⟩

/-- FloatResults: a form of each type; sums that are zero and that are not; a value at the largest code, a tie above 0, and an overflow. -/
theorem witness_float_results : base.cur = some (cw base) ∧
    (∃ p k d x y, Claims.floatForm (cw base) (.vfmaS false 1 2 3 .f32) = some (p, k, d, x, y)) ∧
    (∃ p d x y, Claims.floatForm (cw base) (.vfadd true .f64 6 2 4) = some (p, .f64, d, x, y)) ∧
    (∃ p d x y, Claims.floatForm (cw base) (.vfrnd true .h2 7 7) = some (p, .h2, d, x, y)) ∧
    Claims.signed true (1 * 2 ^ ((0 : Int) - min 0 0).toNat) + Claims.signed false (1 * 2 ^ ((0 : Int) - min 0 0).toNat) = 0 ∧
    Claims.signed true (1 * 2 ^ ((1 : Int) - min 1 0).toNat) + Claims.signed false (1 * 2 ^ ((0 : Int) - min 1 0).toNat) ≠ 0 ∧
    (let lo := Claims.magnitude .f16 (-24) Fmt.f16.maxCode;
      lo ≤ 2 ^ 40 - 2 ^ 29 ∧ 2 ^ 40 - 2 ^ 29 < Claims.magnitude .f16 (-24) (Fmt.f16.maxCode + 1)) ∧
    (Claims.magnitude .f16 (-25) 0 ≤ 1 ∧ 1 < Claims.magnitude .f16 (-25) 1) ∧
    Claims.magnitude .f16 (-24) (Fmt.f16.maxCode + 1) ≤ 2 ^ 40 :=
  ⟨base_cur, ⟨_, _, _, _, _, rfl⟩, ⟨_, _, _, _, rfl⟩, ⟨_, _, _, _, rfl⟩, by decide +kernel⟩

/-- FloatConversions: a wide type, one that is not, a mode that draws, and one that does not. -/
theorem witness_conversions : base.cur = some (cw base) ∧ CvtType.intType .f16 = none ∧
    (let w := cw (edit base fun w => { w with rndMode := 5 });
      Claims.modeOf w (Claims.fieldMode .dyn) = .sr ∧ Claims.modeOf w (Claims.fieldMode .rna) = .rna ∧ 15 < w.srState.length) :=
  ⟨base_cur, by decide +kernel⟩

/-- RoundingIsExactOnFormat: the largest finite F32 and the infinities of F64. -/
theorem witness_rounding : Fmt.f32 ∈ [Fmt.f64, Fmt.f32, Fmt.f16, Fmt.bf16, Fmt.e5m2, Fmt.e4m3] ∧ 0x7F7FFFFF < 2 * Fmt.f32.signBit ∧
    Fmt.f32.decode 0x7F7FFFFF ≠ .nan ∧ 0xFFF0000000000000 < 2 * Fmt.f64.signBit ∧ Fmt.f64.decode 0xFFF0000000000000 ≠ .nan := by
  decide +kernel

/-- MinMaxNumbers: each clause, on F16. -/
theorem witness_min_max : Fmt.f16.decode 0x7E00 = .nan ∧ Fmt.f16.decode 0x3C00 ≠ .nan ∧
    FVal.cmp (Fmt.f16.decode 0xBC00) (Fmt.f16.decode 0x3C00) = some .lt ∧
    FVal.cmp (Fmt.f16.decode 0x7C00) (Fmt.f16.decode 0x7BFF) = some .gt ∧
    (∃ e, Fmt.f16.decode 0x8000 = .fin true 0 e) ∧ ∃ e, Fmt.f16.decode 0 = .fin false 0 e :=
  ⟨by decide +kernel, by decide +kernel, by decide +kernel, by decide +kernel, ⟨_, rfl⟩, ⟨_, rfl⟩⟩

/-- IntegerConversion: I8 from UI64, and a narrow unsigned destination. -/
theorem witness_integer_conversion : CvtType.intType .i8 = some (8, true) ∧ CvtType.intType .ui16 = some (16, false) ∧
    ∃ k su, CvtType.intType .ui64 = some (k, su) :=
  ⟨rfl, rfl, ⟨_, _, rfl⟩⟩

/-- ShortFormsFrame: a scalar, a pair, a mask and a drawing form. -/
theorem witness_short_forms : base.cur = some (cw base) ∧ (cw base).fuseDue = none ∧
    (∀ i ∈ [Instr.sadd false 0 1 2, .msave false 1 62, .msetw false 0, .vcvt false 7 7 .e4m3 .f32 .dyn true],
      (Claims.shortForm i).isSome = true) ∧ Claims.draws (.nop true) = false :=
  ⟨base_cur, by decide +kernel, by decide, rfl⟩

/-! ### Witnesses: fragments, branches and control -/

/-- Two LIVE fragments, the current one a word before the end of its quantum. -/
def twoLive : State := edit base fun w => { w with
  qcount := 31
  frags := [{ Frag.none with state := .live, mask := 0x00FF }, { Frag.none with state := .live, mask := 0xFF00, xmask := 0xFF00, pc := 0x100 }] ++
    List.replicate 6 Frag.none
  mregs := 0x00FF :: List.replicate 7 0 }

/-- The wave of `twoLive` with the deferral `d` in the current fragment and `e` in the other. -/
def deferring (d e : Defer) : Wave :=
  let w := cw twoLive
  { w.modFrag 1 (fun f => { f with defer := e }) with defer := d }

/-- FragmentSwitch: at the quantum the wave goes to the other LIVE entry, and so it does leave its fragment; each deferral on both sides of its
bound; and a TRAMP of the other fragment. -/
theorem witness_fragment_switch : (∀ d ∈ [Defer.none, .call, .lr 14, .lr 15, .tramp], let w := deferring d .none;
      w.Ok ∧ w.fuseDue = none ∧ w.inTrap = false ∧ w.pending = [] ∧ w.defer = d ∧ w.qActive ≤ w.qcount + 1 ∧ w.nextLive = some 1 ∧
      1 ≠ w.cur ∧ w.switchDue = false ∧ Claims.noTramp w) ∧
    ((cw twoLive).step true).cur ≠ (cw twoLive).cur ∧ ¬ Claims.noTramp (deferring .none .tramp) := by
  refine ⟨fun d hd => ?_, by decide +kernel, by unfold Claims.noTramp; decide +kernel⟩
  have h : (deferring d .none).Ok := (wave_ok (s := { twoLive with waves := [deferring d .none] }) (by
    simp only [List.mem_cons, List.not_mem_nil, or_false] at hd
    rcases hd with rfl | rfl | rfl | rfl | rfl <;> decide +kernel)).1
  simp only [List.mem_cons, List.not_mem_nil, or_false] at hd
  rcases hd with rfl | rfl | rfl | rfl | rfl <;> exact ⟨h, by unfold Claims.noTramp; decide +kernel⟩

/-- Branches: one of each, a taken and an untaken condition. -/
theorem witness_branches : base.Issues (cw base) ∧ Claims.Goes (cw base) (.br .all 0 1) (Claims.branchTarget (cw base) (1 : BitVec 18)) none ∧
    Claims.Goes (cw base) (.br .scc 0 1) ((cw base).pc + 4) none ∧
    Claims.Goes (cw base) (.tramp 0x1000000) (Claims.branchTarget (cw base) (0x1000000 : BitVec 25)) (some 58) ∧
    Claims.Goes (cw base) .ret (Claims.pairAddress (cw base) 60) none :=
  ⟨base_issues, .taken _ _ _ fun _ h => h, .fallsThrough _ _ _ (by unfold Claims.branchTaken; decide +kernel), .tramp _, .ret⟩

/-- HintsAndYield, ExitLanes, ReturnFromTrap outside a handler, PrefetchesAndFences: the wave issues; with two fragments YIELD has one to go to. -/
theorem witness_hints_and_yield : base.Issues (cw base) ∧ twoLive.Issues (cw twoLive) ∧ (cw twoLive).inTrap = false ∧
    (cw twoLive).pending = [] ∧ (cw twoLive).nextLive = some 1 :=
  ⟨base_issues, issues_ok (by decide +kernel), by decide +kernel⟩

/-- A wave whose m1 splits its lanes, with `n` entries of the split table in use beside the current one. -/
def splitting (n : Nat) : State := edit base fun w => { w with
  mregs := [0xFFFF, 0x00FF, 0, 0, 0, 0, 0, 0]
  frags := w.frags.take 1 ++ List.replicate n { Frag.none with state := .parked } ++ List.replicate (7 - n) Frag.none }

/-- SplitForms: an empty side; two free entries or more, exactly two, one, and none. -/
theorem witness_split : (splitting 0).Issues (cw (splitting 0)) ∧ (cw (splitting 0)).inTrap = false ∧
    (cw (splitting 0)).exec &&& (cw (splitting 0)).m 2 = 0 ∧ (cw (splitting 0)).exec &&& (cw (splitting 0)).m 1 ≠ 0 ∧
    (cw (splitting 0)).exec &&& ~~~ (cw (splitting 0)).m 1 ≠ 0 ∧ (cw (splitting 0)).freeEntries = [1, 2, 3, 4, 5, 6, 7] ∧
    (splitting 5).Issues (cw (splitting 5)) ∧ (cw (splitting 5)).freeEntries = [6, 7] ∧
    (splitting 6).Issues (cw (splitting 6)) ∧ (cw (splitting 6)).freeEntries = [7] ∧
    (splitting 7).Issues (cw (splitting 7)) ∧ (cw (splitting 7)).freeEntries = [] ∧ ((splitting 7).launchOf (cw (splitting 7))).live = true :=
  ⟨issues_ok (by decide +kernel), by decide +kernel, by decide +kernel, by decide +kernel, by decide +kernel, by decide +kernel,
    issues_ok (by decide +kernel), by decide +kernel, issues_ok (by decide +kernel), by decide +kernel, issues_ok (by decide +kernel),
    by decide +kernel, by decide +kernel⟩

/-- A wave at the join of its fragment, in entry 1, whose parent, entry 0, is a PARENT or HELD, and whose other sibling, entry 2, is in some state. -/
def joining (up other : FragState) (trap : Bool) (results : List Pending) : State := edit base fun w => { w with
  cur := 1
  inTrap := trap
  pending := results
  mregs := 0x00FF :: List.replicate 7 0
  frags := [{ Frag.none with state := up, mask := 0xFFFF, pc := 0x30000 },
    { Frag.none with state := .live, mask := 0x00FF, rejoin := 0x30000 }, { Frag.none with state := other, mask := 0xFF00, pc := 0x40 }] ++
    List.replicate 5 Frag.none }

/-- A wave at the join of a deferred partner, entry 1. -/
def deferred (trap : Bool) : State := edit base fun w => { w with
  inTrap := trap
  mregs := 0x00FF :: List.replicate 7 0
  frags := [{ Frag.none with state := .live, mask := 0x00FF }, { Frag.none with state := .defer, mask := 0xFF00, rejoin := 0x30000, pc := 0x40 }] ++
    List.replicate 6 Frag.none }

/-- The partner of JOIN. -/
def partner (w : Wave) : Option Nat := (w.children w.cur).find? fun d => (w.fragAt d).state == .defer && (w.fragAt d).rejoin == w.pc

/-- The premise of JOIN that another child of the parent is not yet at the join. -/
def waits (w : Wave) : Prop := (w.fragAt w.frag.link).state ≠ .held ∧ ((w.fragAt w.frag.link).state = .parent →
  ∃ k ∈ w.children w.frag.link, k ≠ w.cur ∧ (w.fragAt k).state ≠ .parked)

/-- JoinForms: away from a join; at the join of a deferred partner, in a handler or not; at the fragment's own join, with a sibling that still lives, in
a handler or not, with a sibling PARKED, under a PARENT or a HELD entry, with a result outstanding or none. -/
theorem witness_join : (base.Issues (cw base) ∧ partner (cw base) = none ∧ (cw base).cur = 0) ∧
    (∀ trap, (deferred trap).Issues (cw (deferred trap)) ∧ (cw (deferred trap)).inTrap = trap ∧ partner (cw (deferred trap)) = some 1) ∧
    (∀ trap, let s := joining .parent .live trap [];
      s.Issues (cw s) ∧ (cw s).inTrap = trap ∧ partner (cw s) = none ∧ (cw s).cur ≠ 0 ∧ (cw s).frag.rejoin = (cw s).pc ∧ waits (cw s) ∧
      (cw s).pending = [] ∧ (cw s).nextLive = some 2) ∧
    (∀ up ∈ [FragState.parent, .held], let s := joining up .parked false [];
      s.Issues (cw s) ∧ partner (cw s) = none ∧ (cw s).cur ≠ 0 ∧ (cw s).frag.rejoin = (cw s).pc ∧ ¬ waits (cw s) ∧ (cw s).pending = [] ∧
      ((cw s).fragAt (cw s).frag.link).state = up ∧ (cw s).frag.link ≠ (cw s).cur ∧ (cw s).exec.getLsbD 0 = true) ∧
    (let s := joining .parent .parked false [⟨.ready, [], 0, none, false, 0, 0⟩];
      s.Issues (cw s) ∧ partner (cw s) = none ∧ (cw s).frag.rejoin = (cw s).pc ∧ (cw s).inTrap = false ∧ (cw s).pending ≠ []) ∧
    (let s := edit (joining .parent .free false []) fun w => { w with mregs := List.replicate 8 0 };
      s.Issues (cw s) ∧ ¬ waits (cw s) ∧ (cw s).exec = 0 ∧ (cw s).children (cw s).frag.link = [(cw s).cur]) := by
  refine ⟨⟨base_issues, by decide +kernel⟩, fun trap => ?_, fun trap => ?_, fun up h => ?_, ⟨issues_ok (by decide +kernel), by decide +kernel⟩,
    issues_ok (by decide +kernel), by unfold waits; decide +kernel⟩
  · cases trap <;> exact ⟨issues_ok (by decide +kernel), by decide +kernel⟩
  · cases trap <;> exact ⟨issues_ok (by decide +kernel), by unfold waits; decide +kernel⟩
  · simp only [List.mem_cons, List.not_mem_nil, or_false] at h
    rcases h with rfl | rfl <;> exact ⟨issues_ok (by decide +kernel), by unfold waits; decide +kernel⟩

/-- The partner of EXIT. -/
def exitPartner (w : Wave) : Option Nat := (w.children w.cur).find? fun d => (w.fragAt d).state == .defer

/-- A wave of one fragment, all of whose lanes leave: a DEFER partner of it, entry 1. -/
def leaving (s : State) : State := edit s fun w => { w with mregs := w.frag.mask :: List.replicate 7 0 }

/-- ExitLanes where none is left: a DEFER partner; a parent that still waits for a sibling, which is LIVE; a parent HELD, or with its other child PARKED;
the last two with lanes left and with none; and a result outstanding. -/
theorem witness_exit_arms : (let s := leaving (deferred false);
      s.Issues (cw s) ∧ (cw s).frag.mask &&& ~~~ (cw s).exec = 0 ∧ exitPartner (cw s) = some 1) ∧
    (let s := leaving (joining .parent .live false []);
      s.Issues (cw s) ∧ (cw s).frag.mask &&& ~~~ (cw s).exec = 0 ∧ exitPartner (cw s) = none ∧ waits (cw s) ∧ (cw s).pending = [] ∧
      (cw s).nextLive = some 2) ∧
    (∀ up ∈ [FragState.parent, .held], let s := leaving (joining up .parked false []);
      s.Issues (cw s) ∧ (cw s).frag.mask &&& ~~~ (cw s).exec = 0 ∧ exitPartner (cw s) = none ∧ ¬ waits (cw s) ∧ (cw s).pending = [] ∧
      ((cw s).fragAt (cw s).frag.link).state = up ∧ (cw s).frag.link ≠ (cw s).cur ∧ ((cw s).fragAt 2).mask.getLsbD 8 = true) ∧
    (let s := leaving (joining .parent .free false []);
      s.Issues (cw s) ∧ (cw s).frag.mask &&& ~~~ (cw s).exec = 0 ∧ exitPartner (cw s) = none ∧ ¬ waits (cw s) ∧ (cw s).pending = [] ∧
      (cw s).children (cw s).frag.link = [(cw s).cur]) ∧
    (let s := leaving (joining .parent .parked false [⟨.ready, [], 0, none, false, 0, 0⟩]);
      s.Issues (cw s) ∧ (cw s).frag.mask &&& ~~~ (cw s).exec = 0 ∧ exitPartner (cw s) = none ∧ (cw s).pending ≠ []) := by
  refine ⟨⟨issues_ok (by decide +kernel), by decide +kernel⟩, ⟨issues_ok (by decide +kernel), by unfold waits; decide +kernel⟩, fun up h => ?_,
    ⟨issues_ok (by decide +kernel), by unfold waits; decide +kernel⟩, ⟨issues_ok (by decide +kernel), by decide +kernel⟩⟩
  simp only [List.mem_cons, List.not_mem_nil, or_false] at h
  rcases h with rfl | rfl <;> exact ⟨issues_ok (by decide +kernel), by unfold waits; decide +kernel⟩

/-- R42, R43: EXIT of a fragment whose partner is DEFER leaves its entry HELD with MASK 0 at the partner's REJOIN, and the partner runs. -/
theorem test_exit_partner : (match exec .exit (leaving (deferred false)) with
    | .next t => (cw t).cur == 1 && ((cw t).fragAt 0).state == .held && ((cw t).fragAt 0).mask == 0 && ((cw t).fragAt 0).pc == 0x30000 &&
      (cw t).pc == 0x40
    | _ => false) = true := by decide +kernel

/-- ExitLanes: some lanes stay, and none stays in a wave of one fragment. -/
theorem witness_exit : (let s := edit base fun w => { w with mregs := 0x8001 :: List.replicate 7 0 };
      s.Issues (cw s) ∧ (cw s).frag.mask &&& ~~~ (cw s).exec ≠ 0) ∧
    base.Issues (cw base) ∧ (cw base).frag.mask &&& ~~~ (cw base).exec = 0 ∧ (cw base).cur = 0 ∧
    (∀ e, e ≠ 0 → e < 8 → ((cw base).fragAt e).state = .free) ∧ (cw base).frag.link = 0 :=
  ⟨⟨issues_ok (by decide +kernel), by decide +kernel⟩, base_issues, by decide +kernel, by decide +kernel,
    fun e h0 h8 => (by decide +kernel : ∀ e, e < 8 → e ≠ 0 → ((cw base).fragAt e).state = .free) e h8 h0, by decide +kernel⟩

/-! ### Witnesses: control registers and traps -/

/-- ReadingControlRegisters: a register that a word set, CLOCK with its half latched, and the premises of c0 and c1, of a wave whose fragments hold
lanes. -/
theorem witness_getc : base.cur = some (cw base) ∧ (∃ y, Claims.readsRegister base (cw base) (8 : CReg).toNat = some y) ∧
    (∃ y, Claims.readsRegister base (cw base) (23 : CReg).toNat = some y) ∧
    (cw (edit base fun w => { w with clockLatch := some 7 })).clockLatch = some 7 ∧
    (cw twoLive).part < 4 ∧ (cw twoLive).frags.length = 8 ∧
    (∀ f ∈ (cw twoLive).frags, f.state ≠ .free → f.state ≠ .parent → f.mask ≠ 0) ∧
    (cw base).index < 32 ∧ 1 ≤ (base.launchOf (cw base)).desc.nwaves ∧ (base.launchOf (cw base)).desc.nwaves ≤ 32 :=
  ⟨base_cur, ⟨_, rfl⟩, ⟨_, rfl⟩, by decide +kernel⟩

/-- A launch with HOWN, whose s1 is 1. -/
def hown : State := (edit base fun w => w.setS 1 1).modLaunch 0 fun l => { l with desc := { l.desc with hown := true } }

/-- WritingControlRegisters: a value at HZ, which is s0's, and one above it. -/
theorem witness_setc : hown.cur = some (cw hown) ∧ (hown.launchOf (cw hown)).desc.hown = true ∧
    ((cw hown).s 0 ++ (cw hown).hzStaged : Stamp).toNat ≤ (hown.func (hown.funcOf (cw hown))).hz.toNat ∧
    (hown.func (hown.funcOf (cw hown))).hz.toNat < ((cw hown).s 1 ++ (cw hown).hzStaged : Stamp).toNat :=
  ⟨cur_ok (by decide +kernel), by decide +kernel⟩

/-- SoftwareTraps: a launch with a handler, one without, and a wave in its handler; c0 is not writable, nor c63. -/
theorem witness_traps : (let s := handled base;
      s.Issues (cw s) ∧ (cw s).pending = [] ∧ (cw s).inTrap = false ∧ (s.launchOf (cw s)).desc.trapVec ≠ 0 ∧
      ((s.launchOf (cw s)).desc.dbg && (s.func (s.funcOf (cw s))).fdbg.getLsbD 2) = false) ∧
    (base.Issues (cw base) ∧ (base.launchOf (cw base)).desc.trapVec = 0 ∧ (base.launchOf (cw base)).live = true) ∧
    (let s := edit (handled base) fun w => { w with inTrap := true };
      s.Issues (cw s) ∧ (cw s).inTrap = true ∧ (s.launchOf (cw s)).live = true) ∧
    Claims.writable false (0 : CReg).toNat = false ∧ Claims.writable true (63 : CReg).toNat = false ∧
    Claims.writable false (12 : CReg).toNat = false :=
  ⟨⟨issues_ok (by decide +kernel), by decide +kernel⟩, ⟨base_issues, by decide +kernel⟩, ⟨issues_ok (by decide +kernel), by decide +kernel⟩,
    by decide⟩

/-- TrapsWaitForResults: a wave with a result outstanding, and one whose trap waits with none. -/
theorem witness_traps_wait : (let s := edit base fun w => w.later [.s 1 5];
      s.cur = some (cw s) ∧ (cw s).pending ≠ []) ∧
    (let s := edit (handled base) fun w => { w with trapPending := some ⟨0x0D, 0xFFFF, 1⟩ };
      s.Inv ∧ s.cur = some (cw s) ∧ (cw s).trapPending = some ⟨0x0D, 0xFFFF, 1⟩ ∧ (cw s).pending = [] ∧ s.runs s.issuing = true) :=
  ⟨⟨cur_ok (by decide +kernel), by decide +kernel⟩, ⟨inv_ok (by decide +kernel), cur_ok (by decide +kernel), by decide +kernel⟩⟩

/-- ReturnFromTrap: in a handler, and outside one. -/
theorem witness_rett : (let s := edit base fun w => { w with inTrap := true };
      s.Issues (cw s) ∧ (cw s).inTrap = true) ∧ base.Issues (cw base) ∧ (cw base).inTrap = false ∧ (cw base).pending = [] :=
  ⟨⟨issues_ok (by decide +kernel), by decide +kernel⟩, base_issues, by decide +kernel⟩

/-! ### Witnesses: memory -/

/-- A quiet wave whose page 0 maps to physical page 2 with every right but KEEP. -/
def memo : State := mapped true true false base

/-- The wave of `memo` with a release and acquire at DV pending. -/
def published : State := edit memo fun w => { w with hints := { w.hints with ord := some (.acqrel, .dv) } }

/-- The wave of `memo` with s1 an address. -/
def atAddr (a : Word) (s : State) : State := edit s fun w => w.setS 4 a

/-- The check that every lane's scratchpad access lies inside. -/
def okInside (s : State) (b : SReg) (o : VReg) (n : Nat) : Bool :=
  (cw s).active.all fun l => Claims.laneOffset (cw s) b o l % n == 0 && decide (Claims.laneOffset (cw s) b o l < 2 ^ 32) &&
    decide (Claims.laneOffset (cw s) b o l + n ≤ (s.blockOf (cw s)).scratch.size)

theorem inside_ok {s : State} {b : SReg} {o : VReg} {n : Nat} (h : okInside s b o n = true) :
    ∀ l ∈ (cw s).active, Claims.Inside s (cw s) b o n l := by
  intro l hl
  have := List.all_eq_true.mp h l hl
  simp only [Bool.and_eq_true, beq_iff_eq, decide_eq_true_eq] at this
  exact ⟨this.1.1, this.1.2, this.2⟩

/-- ScratchpadAccesses: the last four bytes of the allocation, and eight at its start for CAS64. -/
theorem witness_scratchpad : (atAddr 16380 base).Issues (cw (atAddr 16380 base)) ∧ (cw (atAddr 16380 base)).hints.ord = none ∧
    (∀ l ∈ (cw (atAddr 16380 base)).active, Claims.Inside (atAddr 16380 base) (cw (atAddr 16380 base)) 4 0 4 l) ∧
    ∀ l ∈ (cw (atAddr 16376 base)).active, Claims.Inside (atAddr 16376 base) (cw (atAddr 16376 base)) 4 0 8 l :=
  ⟨issues_ok (by decide +kernel), by decide +kernel, inside_ok (by decide +kernel), inside_ok (by decide +kernel)⟩

/-- AddressTraps: a misaligned address, a base of 2^52, a misaligned offset, and the first offset beyond the allocation. -/
theorem witness_address_traps :
    ((atAddr 2 base).Issues (cw (atAddr 2 base)) ∧ (cw (atAddr 2 base)).pending = [] ∧ (cw (atAddr 2 base)).active.head? = some 0 ∧
      ((cw (atAddr 2 base)).s64 4).toNat < 2 ^ 52 ∧ (∀ l ∈ (cw (atAddr 2 base)).active, Claims.laneAddress (cw (atAddr 2 base)) 4 0 l % 4 ≠ 0) ∧
      ∀ l ∈ (cw (atAddr 2 base)).active, Claims.laneOffset (cw (atAddr 2 base)) 4 0 l % 4 ≠ 0) ∧
    (let s := edit base fun w => w.setS 5 0x100000;
      s.Issues (cw s) ∧ 2 ^ 52 ≤ ((cw s).s64 4).toNat) ∧
    ((atAddr 16384 base).Issues (cw (atAddr 16384 base)) ∧ ∀ l ∈ (cw (atAddr 16384 base)).active,
      Claims.laneOffset (cw (atAddr 16384 base)) 4 0 l % 4 = 0 ∧ ¬ Claims.Inside (atAddr 16384 base) (cw (atAddr 16384 base)) 4 0 4 l) ∧
    Claims.globalForm (.stc false 1 4 0 .b32 0) = some (4, 0, 4) ∧ Claims.scratchForm (.atoms false 1 4 0 .cas) = some (4, 0, 4) :=
  ⟨⟨issues_ok (by decide +kernel), by decide +kernel⟩, ⟨issues_ok (by decide +kernel), by decide +kernel⟩,
    ⟨issues_ok (by decide +kernel), by
      have h : ∀ l ∈ (cw (atAddr 16384 base)).active, Claims.laneOffset (cw (atAddr 16384 base)) 4 0 l % 4 = 0 ∧
        ¬ (Claims.laneOffset (cw (atAddr 16384 base)) 4 0 l + 4 ≤ ((atAddr 16384 base).blockOf (cw (atAddr 16384 base))).scratch.size) := by
        decide +kernel
      exact fun l hl => ⟨(h l hl).1, fun i => (h l hl).2 i.2.2⟩⟩, rfl, rfl⟩

/-- Three lanes: the first misaligned, the second at a page without rights, the third at a page with them. -/
def mixed : State :=
  (edit memo fun w => { w with mregs := 7 :: List.replicate 7 0, vregs := w.vregs.set 5 (2 :: 0x10000 :: List.replicate 14 0) }).modCore 0 fun c =>
    { c with tlb := c.tlb ++ [⟨0, 1, 1, ⟨0, false, false, false, false, false⟩⟩] }

/-- AddressTraps: mixed causes, of which PROT is the lowest, in the second lane. -/
theorem witness_mixed_causes : let i := Instr.ld false 1 0 5 .b32 .dflt
    mixed.Issues (cw mixed) ∧ (cw mixed).pending = [] ∧ (cw mixed).active = [0, 1, 2] ∧ Claims.globalForm i = some (0, 5, 4) ∧ (cw mixed).pinLost = 0 ∧
    (∀ l ∈ (cw mixed).active, (∃ c a, Claims.LaneFails mixed (cw mixed) i l c a) ∨ Claims.LanePasses mixed (cw mixed) i l) ∧
    (∃ l ∈ (cw mixed).active, ∃ a, Claims.LaneFails mixed (cw mixed) i l 3 a) ∧
    (∀ l ∈ (cw mixed).active, ∀ d a, Claims.LaneFails mixed (cw mixed) i l d a → 3 ≤ d) ∧ ∀ d, ¬ Claims.LaneFails mixed (cw mixed) i 0 3 d := by
  intro i
  have ha : (cw mixed).active = [0, 1, 2] := by decide +kernel
  have h0 : Claims.LaneFails mixed (cw mixed) i 0 4 _ := .misaligned rfl (by decide +kernel) (by decide +kernel)
  have h1 : Claims.LaneFails mixed (cw mixed) i 1 3 _ := .right (e := ⟨0, 1, 1, ⟨0, false, false, false, false, false⟩⟩) rfl rfl (by decide +kernel)
    (by decide +kernel) (by decide +kernel) (by unfold Claims.rights; decide)
  have h2 : Claims.LanePasses mixed (cw mixed) i 2 := .global (pa := 0x20000) rfl rfl (by decide +kernel) (by decide +kernel) (reach_ok (by decide +kernel))
  refine ⟨issues_ok (by decide +kernel), by decide +kernel, ha, rfl, by decide +kernel, fun l hl => ?_, ⟨1, by rw [ha]; decide, _, h1⟩,
    fun l _ d a h => ?_, fun d h => ?_⟩
  · rw [ha] at hl
    simp only [List.mem_cons, List.not_mem_nil, or_false] at hl
    rcases hl with rfl | rfl | rfl
    · exact .inl ⟨_, _, h0⟩
    · exact .inl ⟨_, _, h1⟩
    · exact .inr h2
  · cases h <;> decide
  · cases h with
    | base hf hb => cases hf; exact absurd hb (by decide +kernel)
    | right hf _ _ hm => cases hf; exact absurd hm (by decide +kernel)
    | beyond hf => cases hf

/-- Some page as the core's cache holds it. -/
def page0 (s : State) : Option TlbEntry := findTlb (s.core (s.coreOf (cw s))).tlb (s.funcOf (cw s)) 0

/-- The entry that `mapped` gives. -/
def entry0 (rd wr keep : Bool) : TlbEntry := ⟨0, 0, 2, ⟨0, false, keep, false, wr, rd⟩⟩

/-- Every lane of the wave addresses page 0. -/
theorem lanes_page0 : ∀ l ∈ (cw memo).active, Claims.laneAddress (cw memo) 0 0 l / 65536 = 0 := by decide +kernel

/-- AccessRights: no translation cached, a page that is not readable, one that is not writable, and a verified one. -/
theorem witness_access_rights :
    (base.Issues (cw base) ∧ (cw base).active.head? = some 0 ∧ ((cw base).s64 0).toNat < 2 ^ 52 ∧
      (∀ l ∈ (cw base).active, Claims.laneAddress (cw base) 0 0 l % MSize.bytes .b128 = 0) ∧
      ∃ l ∈ (cw base).active, findTlb (base.core (base.coreOf (cw base))).tlb (base.funcOf (cw base)) (Claims.laneAddress (cw base) 0 0 l / 65536) = none) ∧
    (let s := mapped false true false base;
      s.Issues (cw s) ∧ (cw s).pending = [] ∧ ∀ l ∈ (cw s).active, Claims.laneAddress (cw s) 0 0 l / 65536 = 0 ∧
        page0 s = some (entry0 false true false)) ∧
    (let s := mapped true false false base;
      s.Issues (cw s) ∧ (cw s).pending = [] ∧ ∀ l ∈ (cw s).active, Claims.laneAddress (cw s) 0 0 l / 65536 = 0 ∧
        page0 s = some (entry0 true false false)) ∧
    (let s := { mapped true true false base with verified := [⟨3, 0, []⟩, ⟨2, 0, []⟩] };
      s.Issues (cw s) ∧ page0 s = some (entry0 true true false) ∧ s.verifiedPage (entry0 true true false).page = true) :=
  ⟨⟨base_issues, by decide +kernel⟩, ⟨issues_ok (by decide +kernel), by decide +kernel⟩, ⟨issues_ok (by decide +kernel), by decide +kernel⟩,
    ⟨issues_ok (by decide +kernel), by decide +kernel⟩⟩

/-- GlobalLoads and GlobalStores: every lane at the page's start, and a scalar at it. -/
theorem witness_global : memo.Issues (cw memo) ∧ Claims.Quiet memo (cw memo) ∧ (cw memo).hints.ord = none ∧
    Claims.AllReach memo (cw memo) .load 0 0 (MSize.bytes .b128) (fun _ => 0x20000) ∧
    Claims.AllReach memo (cw memo) .store 0 0 (MSize.bytes .b128) (fun _ => 0x20000) ∧
    ((cw memo).s64 0).toNat < 2 ^ 52 ∧ Claims.scalarAddress (cw memo) 0 511 % WSize.bytes .b32 = 0 ∧
    Claims.Reaches memo (cw memo) .load (Claims.scalarAddress (cw memo) 0 511) 0x207FC ∧
    Claims.Reaches memo (cw memo) .store (Claims.scalarAddress (cw memo) 0 511) 0x207FC ∧ (cw memo).active ≠ [] ∧
    (let s := edit memo fun w => { w with mregs := List.replicate 8 0 };
      s.Issues (cw s) ∧ (cw s).active = []) :=
  ⟨issues_ok (by decide +kernel), quiet_ok (by decide +kernel), by decide +kernel, all_ok (by decide +kernel), all_ok (by decide +kernel),
    by decide +kernel, by decide +kernel, reach_ok (by decide +kernel), reach_ok (by decide +kernel), by decide +kernel,
    issues_ok (by decide +kernel), by decide +kernel⟩

/-- PublishedStores. -/
theorem witness_published : published.Issues (cw published) ∧ Claims.Quiet published (cw published) ∧ Claims.Unregistered published ∧
    (cw published).hints.ord = some (.acqrel, .dv) ∧
    Claims.AllReach published (cw published) .store 0 0 (MSize.bytes .b64) (fun _ => 0x20000) ∧
    Claims.Plain published (cw published) 0 0 (fun _ => 0x20000) ∧ (cw published).active ≠ [] :=
  ⟨issues_ok (by decide +kernel), quiet_ok (by decide +kernel), (still_ok (by decide +kernel)).2, by decide +kernel, all_ok (by decide +kernel),
    plain_ok (by decide +kernel), by decide +kernel⟩

/-- GlobalAtomics: eight bytes of every lane at one place. -/
theorem witness_atomics : memo.Issues (cw memo) ∧ Claims.Quiet memo (cw memo) ∧ Claims.Unregistered memo ∧ (cw memo).hints.ord = none ∧
    Claims.AllReach memo (cw memo) .atom 0 0 (Claims.atomSize .cas64) (fun _ => 0x20000) ∧
    (∀ l ∈ (cw memo).active, lineOf ((fun _ => 0x20000) l) = 0x20000) ∧ Claims.Plain memo (cw memo) 0 0 (fun _ => 0x20000) :=
  ⟨issues_ok (by decide +kernel), quiet_ok (by decide +kernel), (still_ok (by decide +kernel)).2, by decide +kernel, all_ok (by decide +kernel),
    by decide +kernel, plain_ok (by decide +kernel)⟩

/-- One lane of `memo` beside a second wave, with some reservations. -/
def lane0 (l : List Resv) : State :=
  let s := edit memo fun w => { w with mregs := 1 :: List.replicate 7 0 }
  { s with waves := s.waves ++ [{ cw base with index := 1 }], resvs := l }

/-- The lane's own reservation at its place, and one of the other wave that overlaps it. -/
def ownResv : Resv := ⟨0, 0, 0x20000, 8, none, 0⟩
def otherResv : Resv := ⟨1, 3, 0x20004, 4, none, 0⟩

/-- Reservations: none, the lane's own, its own after another's, which is older and may be a constrained sequence, and before it. -/
theorem witness_reservations : ∀ l ∈ [[], [ownResv], [otherResv, ownResv], [ownResv, otherResv]],
    (lane0 l).Issues (cw (lane0 l)) ∧ Claims.Quiet (lane0 l) (cw (lane0 l)) ∧
    Claims.Unregistered (lane0 l) ∧ (cw (lane0 l)).hints.ord = none ∧ (cw (lane0 l)).pinLost = 0 ∧ (cw (lane0 l)).active = [0] ∧
    Claims.AllReach (lane0 l) (cw (lane0 l)) .atom 0 0 (WSize.bytes .b64) (fun _ => 0x20000) ∧
    Claims.Plain (lane0 l) (cw (lane0 l)) 0 0 (fun _ => 0x20000) ∧ (lane0 l).resvs = l ∧ (lane0 l).issuing = 0 ∧
    ((lane0 l).resvs.filter fun r => r.pin.isNone && lineOf r.addr == lineOf 0x20000).length < 16 := by
  intro l hl
  simp only [List.mem_cons, List.not_mem_nil, or_false] at hl
  rcases hl with rfl | rfl | rfl | rfl <;>
    exact ⟨issues_ok (by decide +kernel), quiet_ok (by decide +kernel), (still_ok (by decide +kernel)).2, by decide +kernel, by decide +kernel,
      by decide +kernel, all_ok (by decide +kernel), plain_ok (by decide +kernel), by decide +kernel⟩

/-- The premises of SC on those reservations: the older one holds it back, the younger one does not, and with none it is not the lane's own. -/
theorem witness_sc : (let r := otherResv
      r.wave ≠ 0 ∧ r.pin = none ∧ r.addr < 0x20000 + WSize.bytes .b64 ∧ 0x20000 < r.addr + r.size ∧ ((lane0 [r, ownResv]).wave r.wave).ended = false ∧
      ((lane0 [r, ownResv]).blockOf ((lane0 [r, ownResv]).wave r.wave)).status = .resident ∧
      ((lane0 [r, ownResv]).wave r.wave).frag.state = .live ∧ ((lane0 [r, ownResv]).wave r.wave).retired ≤ r.since + 16) ∧
    [otherResv, ownResv] = [otherResv] ++ Resv.mk 0 0 0x20000 (WSize.bytes .b64) none 0 :: [] ∧
    [ownResv, otherResv] = [] ++ Resv.mk 0 0 0x20000 (WSize.bytes .b64) none 0 :: [otherResv] ∧
    (∀ n, Resv.mk 0 0 0x20000 (WSize.bytes .b64) none n ∉ ([] : List Resv)) :=
  ⟨by decide +kernel, by decide, by decide, fun _ h => nomatch h⟩

/-- A registered KEEP page at physical page 2, whose home's count has passed 3, with or without a record above the stamp that s48:s49 holds, 8. -/
def history (rec : Bool) : State :=
  (edit (mapped true false true base) fun w => w.setS 48 8).modTower 2 fun t => { t with
    count := 3
    keeps := [⟨2, 0, 6, []⟩]
    log := if rec then [⟨0, 0, 0x20000, 14, 6, none, none, List.replicate 128 7, []⟩] else [] }

/-- The registration of `history`. -/
theorem keep_history (rec : Bool) : (history rec).keepOf 0x20000 = some ⟨2, 0, 6, []⟩ := by cases rec <;> decide +kernel

/-- AsOfLoads: no newer record, and a record above the stamp. -/
theorem witness_as_of : ∀ rec, (history rec).Issues (cw (history rec)) ∧ Claims.Quiet (history rec) (cw (history rec)) ∧
    Claims.AllReach (history rec) (cw (history rec)) .asof 0 0 (MSize.bytes .b32) (fun _ => 0x20000) ∧
    ((6 : Stamp) ≤ (cw (history rec)).s64 48 ∧
      (history rec).hzCopy ((history rec).coreOf (cw (history rec))) ((history rec).funcOf (cw (history rec))) ≤ (cw (history rec)).s64 48 ∧
      ((cw (history rec)).s64 48).toNat / 4 ≤ ((history rec).core 0).now + 2 ^ 24 ∧
      ((cw (history rec)).s64 48).toNat / 4 < ((history rec).tower (homeOf 0x20000)).count) ∧
    Claims.AsOf (history rec) ⟨2, 0, 6, []⟩ (lineOf 0x20000) ((cw (history rec)).s64 48)
      (fun i => if rec then (List.replicate 128 7).getD i 0 else (history rec).peek (0x20000 + i)) (entry0 true false true).leaf.key 0x20000 := by
  intro rec
  cases rec
  · refine ⟨issues_ok (by decide +kernel), quiet_ok (by decide +kernel), all_ok (by decide +kernel), by decide +kernel, .inl ⟨?_, fun i _ => rfl⟩⟩
    have : (((history false).tower (homeOf (lineOf 0x20000))).log.filter fun v => v.line == lineOf 0x20000 && v.func == 0) = [] := by decide +kernel
    intro v hv
    rw [this] at hv
    cases hv
  · have hf : (((history true).tower (homeOf (lineOf 0x20000))).log.filter fun v => v.line == lineOf 0x20000 && v.func == 0) =
        [] ++ ⟨0, 0, 0x20000, 14, 6, none, none, List.replicate 128 7, []⟩ :: [] := by decide +kernel
    refine ⟨issues_ok (by decide +kernel), quiet_ok (by decide +kernel), all_ok (by decide +kernel), by decide +kernel,
      .inr ⟨[], ⟨0, 0, 0x20000, 14, 6, none, none, List.replicate 128 7, []⟩, [], hf, ?_, by decide +kernel, ?_, .inl rfl, fun i _ => rfl⟩⟩
    · intro u hu; cases hu
    · intro u hu; cases hu

/-- PrefetchesAndFences: a FENCE of no set, one that publishes at DV and one that acquires, and a wave with nothing to wait for. -/
theorem witness_fences : memo.Issues (cw memo) ∧ memo.reqs = [] ∧ (∀ u ∈ memo.towers, ∀ r ∈ u.remote, r.dirty = []) ∧ (0xC0 : BitVec 8) ≠ 0 ∧
    (0xC0 &&& 0x55 : BitVec 8) ≠ 0 ∧ (0x80 &&& 0xAA : BitVec 8) ≠ 0 ∧ Scope.dv ≠ .wv ∧ Claims.Quiet memo (cw memo) ∧ (cw memo).outM = [] ∧
    (cw memo).outK = [] ∧ (cw memo).outD = [] ∧ (cw memo).awaiting = false := by
  refine ⟨issues_ok (by decide +kernel), by decide +kernel, fun u hu r hr => ?_, by decide, by decide, by decide, by decide,
    quiet_ok (by decide +kernel), by decide +kernel⟩
  have h : ∀ u ∈ memo.towers, u.remote = [] := by decide +kernel
  rw [h u hu] at hr; cases hr

/-! ### Witnesses: vectors, groups and engines -/

/-- A wave of `base` with another width and registers to match. -/
def widened (n : Nat) : State :=
  edit base fun w => { w with
    width := n, mregs := BitVec.ofNat 64 (2 ^ n - 1) :: List.replicate 7 0, vregs := List.replicate 8 (List.replicate n 0)
    srState := List.replicate n 1, frags := { Frag.none with state := .live, mask := BitVec.ofNat 64 (2 ^ n - 1) } :: List.replicate 7 Frag.none }

/-- LongVectorForms: a form of one register and one of a pair, a fold, a quotient, and a special value in a part of a packed register. -/
theorem witness_long_forms : base.cur = some (cw base) ∧ (cw base).Ok ∧ Claims.longForm (.vfdiv false .f32 7 1 2) = some (false, 7, false) ∧
    Claims.longForm (.vrsq true 6 2 .f64) = some (true, 6, true) ∧
    (∃ x, Claims.longValue (cw base) 15 (.vscan false 1 2 .addF32) = some x) ∧
    (∃ code, Claims.longFloat (cw base) (.vfdiv false .f32 7 1 2) = some (.f32, 1, 2, code) ∧ ∀ x y, (code .f32 x y).isSome = true) ∧
    ((Claims.longFloat (cw base) (.vsin false 7 1 .h2)).bind fun x => x.2.2.2 .f16 (Fmt.f16.decode 0x8000) (Fmt.f16.decode 0x8000)) = some 0x8000 :=
  ⟨base_cur, base_ok, rfl, rfl, ⟨_, rfl⟩, ⟨_, rfl, fun _ _ => rfl⟩, by decide +kernel⟩

/-- BlockFormats: W = 16 and W = 32. -/
theorem witness_blocks : base.Issues (cw base) ∧ (cw base).width = 16 ∧ (cw base).pending = [] ∧ (widened 32).Issues (cw (widened 32)) ∧
    (cw (widened 32)).width ≠ 16 ∧ (cw (widened 32)).hints.rnd = none ∧ 32 * 0 + 32 ≤ (cw (widened 32)).width :=
  ⟨base_issues, by decide +kernel, by decide +kernel, issues_ok (by decide +kernel), by decide +kernel⟩

/-- Two waves of one block. -/
def pair : State :=
  { base with
    waves := [cw base, { cw base with index := 1, part := 1 }]
    blocks := base.blocks.map fun b => { b with waves := [0, 1] } }

/-- GroupForms: a group that the wave is no member of; the last arrival, another's missing, and a second arrival. -/
theorem witness_groups : (base.Issues (cw base) ∧ Claims.Quiet base (cw base) ∧ (base.launchOf (cw base)).isMember 1 (cw base).index = false ∧
      (base.launchOf (cw base)).isMember 0 (cw base).index = true ∧ ¬ (0, (cw base).index, (cw base).cur) ∈ (base.blockOf (cw base)).marks ∧
      Claims.AllArrived base (cw base) 0) ∧
    (pair.Issues (cw pair) ∧ Claims.Quiet pair (cw pair) ∧ ¬ (0, (cw pair).index, (cw pair).cur) ∈ (pair.blockOf (cw pair)).marks ∧
      ¬ Claims.AllArrived pair (cw pair) 0) ∧
    (let s := pair.modBlock 0 fun b => { b with marks := [(0, 0, 0)] };
      s.Issues (cw s) ∧ Claims.Quiet s (cw s) ∧ (0, (cw s).index, (cw s).cur) ∈ (s.blockOf (cw s)).marks) := by
  refine ⟨⟨base_issues, quiet_ok (by decide +kernel), by decide +kernel, by decide +kernel, by decide +kernel, ?_⟩,
    ⟨issues_ok (by decide +kernel), quiet_ok (by decide +kernel), by decide +kernel, ?_⟩, issues_ok (by decide +kernel), quiet_ok (by decide +kernel),
    by decide +kernel⟩
  · intro i hi
    have h0 : i = 0 := by
      have hw : (base.blockOf (cw base)).waves = [0] := by decide +kernel
      rw [hw] at hi; simpa using hi
    subst h0
    refine .inr (.inr (.inr ⟨⟨0, by decide +kernel⟩, fun e he hs => .inr ⟨rfl, ?_⟩⟩))
    have hf : ∀ e, e < 8 → e ≠ 0 → ((base.wave 0).fragAt e).state = .free := by decide +kernel
    by_cases h0 : e = 0
    · subst h0; decide +kernel
    · rw [hf e he h0] at hs; rcases hs with hs | hs <;> cases hs
  · intro h
    have h1 := h 1 (by decide +kernel)
    have e : pair.wave 1 = { cw base with index := 1, part := 1 } := rfl
    simp only [e] at h1
    rcases h1 with h1 | h1 | h1 | h1
    · exact absurd h1 (by decide +kernel)
    · exact absurd h1 (by decide +kernel)
    · exact absurd (h1 0 (by omega)) (by decide +kernel)
    · exact absurd (h1.2 0 (by omega) (by decide +kernel)) (by decide +kernel)

/-- WaitForms: a misaligned offset, one beyond the allocation, the last word of it, a global word, a bit, and WAITC with two copies outstanding. -/
theorem witness_waits : (base.Issues (cw base) ∧ (cw base).pending = []) ∧
    ((cw (atAddr 2 base)).s 4).toNat % 4 ≠ 0 ∧ (atAddr 2 base).Issues (cw (atAddr 2 base)) ∧
    (atAddr 16384 base).Issues (cw (atAddr 16384 base)) ∧ ((cw (atAddr 16384 base)).s 4).toNat % 4 = 0 ∧
    ((atAddr 16384 base).blockOf (cw (atAddr 16384 base))).scratch.size < ((cw (atAddr 16384 base)).s 4).toNat + 4 ∧
    (atAddr 16380 base).Issues (cw (atAddr 16380 base)) ∧ Claims.Quiet (atAddr 16380 base) (cw (atAddr 16380 base)) ∧
    ((cw (atAddr 16380 base)).s 4).toNat + 4 ≤ ((atAddr 16380 base).blockOf (cw (atAddr 16380 base))).scratch.size ∧
    Claims.meets .eq (Claims.wordOf ((atAddr 16380 base).blockOf (cw (atAddr 16380 base))).scratch.get 16380) ((cw (atAddr 16380 base)).s 0) ∧
    ¬ Claims.meets .ne (Claims.wordOf ((atAddr 16380 base).blockOf (cw (atAddr 16380 base))).scratch.get 16380) ((cw (atAddr 16380 base)).s 0) ∧
    (memo.Issues (cw memo) ∧ Claims.Quiet memo (cw memo) ∧ ((cw memo).s64 0).toNat % 4 = 0 ∧
      Claims.Reaches memo (cw memo) .load ((cw memo).s64 0).toNat 0x20000 ∧ ((cw memo).s64 0).toNat % 8 = 0 ∧ (memo.peek 0x20000).getLsbD 1 = false) ∧
    ((memo.poke [(0x20000, 2)]).peek 0x20000).getLsbD 1 = true ∧
    (let s := edit base fun w => { w with outC := [3, 4], recent := [(.c, 5), (.c, 4), (.m, 6), (.c, 3)] };
      s.Issues (cw s) ∧ (cw s).counter .c ≤ (2 : BitVec 6).toNat ∧ (1 : BitVec 6).toNat < (cw s).counter .c ∧
      ((cw s).out .c).filter (fun o => !(((cw s).recent.filter fun x => x.1 == .c).take (1 : BitVec 6).toNat).contains (.c, o)) = [3, 4]) ∧
    (let s := edit base fun w => { w with outC := [3, 4], recent := [(.c, 4), (.c, 3)] };
      ((cw s).out .c).filter (fun o => !(((cw s).recent.filter fun x => x.1 == .c).take (1 : BitVec 6).toNat).contains (.c, o)) = [3]) :=
  ⟨⟨base_issues, by decide +kernel⟩, by decide +kernel, issues_ok (by decide +kernel), issues_ok (by decide +kernel), by decide +kernel,
    by decide +kernel, issues_ok (by decide +kernel), quiet_ok (by decide +kernel), by decide +kernel, by unfold Claims.meets; decide +kernel,
    by unfold Claims.meets; decide +kernel,
    ⟨issues_ok (by decide +kernel), quiet_ok (by decide +kernel), by decide +kernel, reach_ok (by decide +kernel), by decide +kernel⟩,
    by decide +kernel, ⟨issues_ok (by decide +kernel), by decide +kernel⟩, by decide +kernel⟩

/-- `memo` with a descriptor of four bytes from 0 to 0 at s8 to s15, and its notify word disabled. -/
def copying (n : Nat) : State :=
  edit memo fun w => { ((w.setS 12 4).setS 13 0xFFFFFFFF) with outC := List.replicate n 0 }

/-- `copying` with 128 bytes, for a gather of one row. -/
def gathering : State := edit (copying 0) fun w => w.setS 12 128

/-- A CPYAS of four bytes from the registered page of `history` to a page that the core's cache holds beside it. -/
def recalling : State :=
  (edit (history false) fun w => ((w.setS 10 0x10000).setS 12 4).setS 13 0xFFFFFFFF).modCore 0 fun c =>
    { c with tlb := c.tlb ++ [⟨0, 1, 1, ⟨0, false, false, false, true, true⟩⟩] }

/-- `copying` with 63 copies outstanding, all in flight. -/
def crowded : State := { copying 63 with copies := List.replicate 63 (default : CopyOp) }

/-- EngineRequests: a copy of each kind that may begin, one with 63 outstanding, and a misaligned size, source of a gather, and notify address. -/
theorem witness_copies : ((copying 62).Issues (cw (copying 62)) ∧ Claims.Quiet (copying 62) (cw (copying 62)) ∧ (cw (copying 62)).counter .c < 63 ∧
      ∀ kind, kind < 3 → Claims.copyAligned (cw (copying 62)) 8 kind ∧ Claims.copyInside (copying 62) (cw (copying 62)) 8 kind ∧
        Claims.copyReaches (copying 62) (cw (copying 62)) 8 kind) ∧
    Claims.copyForm (.cpyG2g false 8) = some (false, 8, 2) ∧
    (gathering.Issues (cw gathering) ∧ Claims.Quiet gathering (cw gathering) ∧ Claims.copyAligned (cw gathering) 8 3 ∧
      Claims.copyInside gathering (cw gathering) 8 3 ∧ Claims.copyReaches gathering (cw gathering) 8 3) ∧
    (recalling.Issues (cw recalling) ∧ Claims.Quiet recalling (cw recalling) ∧ Claims.copyAligned (cw recalling) 8 4 ∧
      Claims.copyInside recalling (cw recalling) 8 4 ∧ Claims.copyReaches recalling (cw recalling) 8 4) ∧
    (crowded.Issues (cw crowded) ∧ Claims.noKeepOut crowded (cw crowded) ∧ 63 ≤ (cw crowded).counter .c ∧ crowded.copies ≠ [] ∧
      Claims.copyAligned (cw crowded) 8 0 ∧ Claims.copyInside crowded (cw crowded) 8 0 ∧ Claims.copyReaches crowded (cw crowded) 8 0) ∧
    (∀ x ∈ [(12, 4, (2 : Word64)), (8, 3, 2), (13, 0, 2)], let s := edit gathering fun w => w.setS x.1 2;
      s.Issues (cw s) ∧ (cw s).pending = [] ∧ Claims.copyMisaligned (cw s) 8 x.2.1 x.2.2) := by
  have hl : ∀ k, k < 4 → okReach (copying 62) .load ((((cw (copying 62)).s64 8).toNat + k) % 2 ^ 52) (0x20000 + k) = true ∧
      okReach (copying 62) .store ((((cw (copying 62)).s64 10).toNat + k) % 2 ^ 52) (0x20000 + k) = true := by decide +kernel
  have hn : ((cw (copying 62)).s 12).toNat = 4 := by decide +kernel
  have hc : ∀ k, k < 4 → okReach crowded .load ((((cw crowded).s64 8).toNat + k) % 2 ^ 52) (0x20000 + k) = true := by decide +kernel
  have hcn : ((cw crowded).s 12).toNat = 4 := by decide +kernel
  have hg : okReach gathering .load ((((cw gathering).s64 8).toNat + 128 *
      (Claims.wordOf (gathering.blockOf (cw gathering)).scratch.get (((cw gathering).s 15).toNat + 4 * 0)).toNat) % 2 ^ 52) 0x20000 = true := by
    decide +kernel
  have hgn : ((cw gathering).s 12).toNat = 128 := by decide +kernel
  have hr : ∀ k, k < 4 → okReach recalling .store ((((cw recalling).s64 10).toNat + k) % 2 ^ 52) (0x10000 + k) = true ∧
      okReach recalling .asof ((((cw recalling).s64 8).toNat + k) % 2 ^ 52) (0x20000 + k) = true ∧
      recalling.keepOf (0x20000 + k) = some ⟨2, 0, 6, []⟩ := by decide +kernel
  have hrn : ((cw recalling).s 12).toNat = 4 := by decide +kernel
  refine ⟨⟨issues_ok (by decide +kernel), quiet_ok (by decide +kernel), by decide +kernel, fun kind hk => ⟨?_, ?_, ?_⟩⟩, rfl,
    ⟨issues_ok (by decide +kernel), quiet_ok (by decide +kernel), by unfold Claims.copyAligned; decide +kernel,
      by unfold Claims.copyInside; decide +kernel, ?_⟩,
    ⟨issues_ok (by decide +kernel), quiet_ok (by decide +kernel), by unfold Claims.copyAligned; decide +kernel,
      by unfold Claims.copyInside; decide +kernel, ?_⟩,
    ⟨issues_ok (by decide +kernel), by unfold Claims.noKeepOut; decide +kernel, by decide +kernel, by decide +kernel,
      by unfold Claims.copyAligned; decide +kernel, by unfold Claims.copyInside; decide +kernel, ?_⟩, fun x hx => ?_⟩
  · revert hk; revert kind; unfold Claims.copyAligned; decide +kernel
  · revert hk; revert kind; unfold Claims.copyInside; decide +kernel
  · refine ⟨fun _ k hk => ⟨_, reach_ok (hl k (hn ▸ hk)).1⟩, fun _ k hk => ⟨_, reach_ok (hl k (hn ▸ hk)).2⟩, fun h => ?_, fun h => ?_⟩ <;> omega
  · refine ⟨fun h => ?_, fun h => ?_, fun _ j hj => ?_, fun h => ?_⟩
    · omega
    · omega
    · have hj : j < ((cw gathering).s 12).toNat / 128 := hj
      rw [hgn] at hj
      have : j = 0 := by omega
      subst this
      exact ⟨_, reach_ok hg⟩
    · omega
  · refine ⟨fun h => ?_, fun _ k hk => ⟨_, reach_ok (hr k (hrn ▸ hk)).1⟩, fun h => ?_, fun _ k hk => ?_⟩
    · omega
    · omega
    · exact ⟨_, _, reach_ok (hr k (hrn ▸ hk)).2.1, (hr k (hrn ▸ hk)).2.2, by decide +kernel⟩
  · refine ⟨fun _ k hk => ⟨_, reach_ok (hc k (hcn ▸ hk))⟩, fun h => ?_, fun h => ?_, fun h => ?_⟩ <;> omega
  · simp only [List.mem_cons, List.not_mem_nil, or_false] at hx
    rcases hx with rfl | rfl | rfl <;>
      exact ⟨issues_ok (by decide +kernel), by decide +kernel, by unfold Claims.copyMisaligned; decide +kernel⟩

/-- EngineRequests, of tiles: a slot of the block at a mapped address, and a base of 2^52. -/
theorem witness_transfers : memo.Issues (cw memo) ∧ Claims.Quiet memo (cw memo) ∧ (0 : ZReg).toNat < (memo.blockOf (cw memo)).tiles.length ∧
    ((cw memo).s64 0).toNat % 128 = 0 ∧ ((memo.blockOf (cw memo)).tile 0).matrix = false ∧
    (∀ k, k < 4096 → ∃ pa, Claims.Reaches memo (cw memo) .store ((((cw memo).s64 0).toNat + k) % 2 ^ 52) pa) ∧
    (let s := edit memo fun w => w.setS 5 0x100000;
      s.Issues (cw s) ∧ 2 ^ 52 ≤ ((cw s).s64 4).toNat) := by
  have hz : ((cw memo).s64 0).toNat = 0 := by decide +kernel
  have ht : findTlb (memo.core (memo.coreOf (cw memo))).tlb (memo.funcOf (cw memo)) 0 = some (entry0 true true false) := by decide +kernel
  refine ⟨issues_ok (by decide +kernel), quiet_ok (by decide +kernel), by decide +kernel, by decide +kernel, by decide +kernel, fun k hk => ?_,
    issues_ok (by decide +kernel), by decide +kernel⟩
  have hv : (((cw memo).s64 0).toNat + k) % 2 ^ 52 / 65536 = 0 := by rw [hz]; omega
  refine ⟨_, entry0 true true false, by rw [hv]; exact ht, rfl, ?_, by decide +kernel, .inl rfl, by unfold Claims.rights; decide +kernel⟩
  simp only [peerOf, entry0, hz]
  omega

/-- Market: a TAKE that is misaligned, and one beyond the allocation; a request that may be made; an answer with a tile left in a snake of two columns, and with none left. -/
theorem witness_market : ((atAddr 2 base).Issues (cw (atAddr 2 base)) ∧ (cw (atAddr 2 base)).pending = [] ∧ ((cw (atAddr 2 base)).s 4).toNat % 8 ≠ 0) ∧
    ((atAddr 16384 base).Issues (cw (atAddr 16384 base)) ∧ (cw (atAddr 16384 base)).pending = [] ∧ ((cw (atAddr 16384 base)).s 4).toNat % 8 = 0 ∧
      ((atAddr 16384 base).blockOf (cw (atAddr 16384 base))).scratch.size < ((cw (atAddr 16384 base)).s 4).toNat + 8) ∧
    (atAddr 16376 base).Issues (cw (atAddr 16376 base)) ∧ ((cw (atAddr 16376 base)).s 4).toNat % 8 = 0 ∧
    ((cw (atAddr 16376 base)).s 4).toNat + 8 ≤ ((atAddr 16376 base).blockOf (cw (atAddr 16376 base))).scratch.size ∧
    (cw (atAddr 16376 base)).counter .d < 63 ∧
    (let s := base.modLaunch 0 fun l => { l with
        takes := [⟨0, 0, 0⟩], nextTile := 3, desc := { l.desc with morder := 2, mkx := 2, mky := 2 } };
      (s.launch 0).takes = ⟨0, 0, 0⟩ :: [] ∧ 0 < s.launches.length ∧ (s.launch 0).desc.morder ≠ 0 ∧
      (s.launch 0).nextTile < (s.launch 0).desc.mkx * (s.launch 0).desc.mky ∧ (s.wave 0).block < s.blocks.length ∧ 0 < s.waves.length) ∧
    (let s := base.modLaunch 0 fun l => { l with takes := [⟨0, 0, 0⟩] };
      (s.launch 0).takes = ⟨0, 0, 0⟩ :: [] ∧ ¬ ((s.launch 0).desc.morder ≠ 0 ∧ (s.launch 0).nextTile < (s.launch 0).desc.mkx * (s.launch 0).desc.mky)) :=
  ⟨⟨issues_ok (by decide +kernel), by decide +kernel⟩, ⟨issues_ok (by decide +kernel), by decide +kernel⟩, issues_ok (by decide +kernel),
    by decide +kernel⟩

/-! ### Witnesses: the matrix engine, tiles and rank -/

/-- Two tiles, the first on the matrix side, and the array held by a block or by none. -/
def matrixState (holder : Option Nat) : State :=
  ((base.modBlock 0 fun b => { b with tiles := [⟨List.replicate 1024 0, true⟩, ⟨List.replicate 1024 0, false⟩] }).modCore 0 fun c =>
    { c with array := { c.array with holder := holder } })

/-- The members of group 1 of `pair`: both waves. -/
def ganged (gang : Option Nat) : State :=
  edit ((pair.modLaunch 0 fun l => { l with members := [3] }).modBlock 0 fun b => { b with phases := [false, false] }) fun w => { w with gang := gang }

/-- `ganged` with 63 matrix operations outstanding. -/
def counted (gang : Option Nat) : State := edit (ganged gang) fun w => { w with outM := List.replicate 63 0 }

/-- MatrixWords: each word on a free array, one on an array of another block's, one with 63 outstanding, a member of a gang, and GANG of a group and
of none. -/
theorem witness_matrix : (let s := matrixState none;
      s.Issues (cw s) ∧ (cw s).gang = none ∧ (s.core (s.coreOf (cw s))).array.holder = none ∧ (cw s).counter .m < 63 ∧
      Claims.MatrixWord (s.blockOf (cw s)) (cw s) (.swaps true) true .swaps ∧
      (∃ k, Claims.MatrixWord (s.blockOf (cw s)) (cw s) (.ldstat false 0 .k8 .f32 false 0) false k) ∧
      (∃ k, Claims.MatrixWord (s.blockOf (cw s)) (cw s) (.mma false 0 (.m8, .k8) .f32 0 true false) false k) ∧
      ∃ k, Claims.MatrixWord (s.blockOf (cw s)) (cw s) (.rmma false 0 0 7 .f16 31 false) false k) ∧
    (let s := matrixState (some 1);
      s.Issues (cw s) ∧ (cw s).gang = none ∧ (s.core (s.coreOf (cw s))).array.holder = some 1 ∧ 1 ≠ (cw s).block) ∧
    (let s := ganged (some 1);
      s.Issues (cw s) ∧ (cw s).gang = some 1 ∧ (cw s).counter .m < 63 ∧ 1 ∈ s.gangMembers (cw s).block 1 ∧ 1 ≠ s.issuing ∧
      (s.blockOf (cw s)).latch = []) ∧
    (let s := ganged none;
      s.Issues (cw s) ∧ (s.launchOf (cw s)).isMember 1 (cw s).index = true ∧ (cw s).outM = [] ∧
      ((s.blockOf (cw s)).waves.filter fun j => (s.launchOf (cw s)).isMember 1 (s.wave j).index).length = 2) ∧
    (∀ g ∈ [none, some 1], let s := counted g;
      s.Issues (cw s) ∧ Claims.MatrixWord (s.blockOf (cw s)) (cw s) (.swaps true) true .swaps ∧ 63 ≤ (cw s).counter .m ∧ (cw s).outM ≠ [] ∧
      (s.core (s.coreOf (cw s))).array.holder = none ∧ (cw s).gang = g) ∧
    ((cw base).pending = [] ∧ ((base.blockOf (cw base)).waves.filter fun j => (base.launchOf (cw base)).isMember 0 (base.wave j).index).length < 2) := by
  refine ⟨⟨issues_ok (by decide +kernel), by decide +kernel, by decide +kernel, by decide +kernel, .swaps _,
      ⟨.ldstat .k8 .f32 false 0 0, ?_⟩, ⟨.mma 0 .m8 .k8 .f32 true false 0, ?_⟩, ⟨.rmma 0 7 .f16 32 false 0 0, ?_⟩⟩,
    ⟨issues_ok (by decide +kernel), by decide +kernel⟩, ⟨issues_ok (by decide +kernel), by decide +kernel⟩,
    ⟨issues_ok (by decide +kernel), by decide +kernel⟩, fun g hg => ?_, by decide +kernel⟩
  · exact .ldstat _ _ _ _ _ _ (by decide +kernel) (by decide +kernel) (fun h => nomatch h)
  · exact .mma _ _ _ _ _ _ _ ⟨by decide +kernel, by decide +kernel⟩ (fun h => nomatch h) (by decide +kernel) (by decide +kernel)
  · exact .rmma _ _ _ _ _ _ _ ⟨by decide +kernel, by decide +kernel⟩ (by decide +kernel) (by decide +kernel)
  · simp only [List.mem_cons, List.not_mem_nil, or_false] at hg
    rcases hg with rfl | rfl <;> exact ⟨issues_ok (by decide +kernel), .swaps _, by decide +kernel⟩

/-- MatrixWords: the operands of LDSTAT, MMA and RMMA that fail: their alignment, their end, their slots and tokens. -/
theorem witness_matrix_fails : (∀ a ∈ [2, 16384], let s := atAddr a (matrixState none);
      s.Issues (cw s) ∧ (cw s).gang = none ∧ (cw s).counter .m < 63 ∧ (cw s).pending = [] ∧ (s.core (s.coreOf (cw s))).array.holder = none) ∧
    (let s := atAddr 2 (matrixState none);
      Claims.MatrixFails (s.blockOf (cw s)) (cw s) (.ldstat false 4 .k8 .f32 false 0) 0x04 2 ∧
      Claims.MatrixFails (s.blockOf (cw s)) (cw s) (.ldstat false 0 .k8 .f32 true 4) 0x04 2 ∧
      Claims.MatrixFails (s.blockOf (cw s)) (cw s) (.mma false 0 (.m8, .k8) .f32 4 true false) 0x04 2 ∧
      Claims.MatrixFails (s.blockOf (cw s)) (cw s) (.mma false 1 (.m8, .k8) .f64 4 true false) 0x03 2 ∧
      Claims.MatrixFails (s.blockOf (cw s)) (cw s) (.rmma false 1 0 7 .f16 31 false) 0x08 1) ∧
    (let s := atAddr 16384 (matrixState none);
      Claims.MatrixFails (s.blockOf (cw s)) (cw s) (.ldstat false 4 .k8 .f32 false 0) 0x03 16384 ∧
      Claims.MatrixFails (s.blockOf (cw s)) (cw s) (.ldstat false 0 .k8 .f32 true 4) 0x03 16384 ∧
      Claims.MatrixFails (s.blockOf (cw s)) (cw s) (.rmma false 0 4 7 .f16 31 false) 0x03 16384) := by
  refine ⟨fun a ha => ?_, ⟨.align _ _ _ _ _ _ (by decide +kernel), .metaAlign _ _ _ _ _ (by decide +kernel) (by decide +kernel),
      .stream rfl (by decide +kernel) (.inl (by decide +kernel)), .slot 2 rfl (by decide) (by decide +kernel) (by decide +kernel),
      .token 1 rfl (by decide +kernel) (by decide +kernel) (by decide +kernel) (by decide) (by decide +kernel) (by decide +kernel)⟩,
    .beyond _ _ _ _ _ _ (by decide +kernel) (fun h => nomatch h) (by decide +kernel),
    .metaBeyond _ _ _ _ _ (by decide +kernel) (by decide +kernel) (by decide +kernel) (by decide +kernel),
    .stream rfl (by decide +kernel) (.inr (by decide +kernel))⟩
  simp only [List.mem_cons, List.not_mem_nil, or_false] at ha
  rcases ha with rfl | rfl <;> exact ⟨issues_ok (by decide +kernel), by decide +kernel⟩

/-- The members of group 1 of `pair` as a gang, with the second's word at the latch, a handler, and s4 of the lead an address. -/
def atLatch (a : Word) (i : Instr) : State :=
  let s := handled (ganged (some 1))
  { atAddr a s with
    waves := (atAddr a s).waves.modify 1 fun w => { w with gang := some 1 }
    blocks := s.blocks.map fun b => { b with latch := [⟨1, 1, i, none⟩] } }

/-- The members of the gang, and its lead. -/
theorem latch_members (a : Word) (i : Instr) : (atLatch a i).gangMembers (cw (atLatch a i)).block 1 = [0, 1] := by
  have h : ∀ k, k < 2 → ((handled (ganged (some 1))).launch 0).isMember 1 k = true := by decide +kernel
  refine List.filter_eq_self.mpr fun k (hk : k ∈ [0, 1]) => ?_
  simp only [List.mem_cons, List.not_mem_nil, or_false] at hk
  rcases hk with rfl | rfl
  · rw [Bool.and_eq_true]; exact ⟨rfl, h 0 (by decide)⟩
  · rw [Bool.and_eq_true]; exact ⟨rfl, h 1 (by decide)⟩

/-- The words of the gang are all at the latch. -/
theorem latch_gathered (a : Word) (i j : Instr) : Claims.Gathered (atLatch a i) (cw (atLatch a i)) j 1 := by
  refine ⟨rfl, ?_, by rw [latch_members]; decide, by rw [latch_members]; exact List.mem_cons_self .., fun k hk => ?_, fun e he _ hw => ?_⟩
  · show (cw (atLatch a i)).outM.length < 63
    exact (by decide : ([] : List Nat).length < 63)
  · rw [latch_members] at hk
    simp only [List.mem_cons, List.not_mem_nil, or_false] at hk
    rcases hk with rfl | rfl
    · exact ⟨by show 0 < 2; decide, rfl, rfl, fun h => absurd rfl h⟩
    · exact ⟨by show 1 < 2; decide, rfl, rfl, fun _ => ⟨_, List.mem_singleton.mpr rfl, rfl, rfl⟩⟩
  · have he : e = ⟨1, 1, i, none⟩ := List.mem_singleton.mp he
    subst he
    cases hw

/-- Each member's memory path is quiet. -/
theorem latch_quiet (a : Word) (i : Instr) (h : okQuiet (atLatch a i) = true) : ∀ j ∈ (atLatch a i).gangMembers (cw (atLatch a i)).block 1,
    Claims.Quiet (atLatch a i) ((atLatch a i).wave j) ∧ ((atLatch a i).wave j).pending = [] ∧ ((atLatch a i).wave j).inTrap = false := by
  intro j hj
  rw [latch_members] at hj
  simp only [List.mem_cons, List.not_mem_nil, or_false] at hj
  rcases hj with rfl | rfl
  · exact ⟨quiet_ok h, rfl, rfl⟩
  · exact ⟨{ quiet_ok h with combining := rfl, results := rfl, orders := rfl, kept := rfl, debugged := rfl }, rfl, rfl⟩

/-- MatrixWords: the last member's word where all are the same, and begin or fail; and where they differ. -/
theorem witness_rendezvous :
    (let s := atLatch 0 (.swaps true);
      s.Issues (cw s) ∧ okQuiet s = true ∧ (s.core (s.coreOf (cw s))).array.holder = none ∧
      Claims.MatrixWord (s.blockOf (cw s)) (s.wave 0) (.swaps true) true .swaps) ∧
    (let s := atLatch 2 (.ldstat false 4 .k8 .f32 false 0);
      s.Issues (cw s) ∧ okQuiet s = true ∧ (s.core (s.coreOf (cw s))).array.holder = none ∧ (s.launchOf (cw s)).desc.trapVec ≠ 0 ∧
      Claims.MatrixFails (s.blockOf (cw s)) (s.wave 0) (.ldstat false 4 .k8 .f32 false 0) 0x04 2) ∧
    (∀ i, Claims.AllSame (atLatch 0 i) (cw (atLatch 0 i)) i 1 ∧ Claims.AllSame (atLatch 2 i) (cw (atLatch 2 i)) i 1) ∧
    ¬ Claims.AllSame (atLatch 0 (.swaps true)) (cw (atLatch 0 (.swaps true))) (.swaps false) 1 := by
  refine ⟨⟨issues_ok (by decide +kernel), by decide +kernel, by decide +kernel, .swaps _⟩,
    ⟨issues_ok (by decide +kernel), by decide +kernel, by decide +kernel, by decide +kernel, .align _ _ _ _ _ _ (by decide +kernel)⟩,
    fun i => ⟨fun e he _ => ?_, fun e he _ => ?_⟩, fun h => ?_⟩
  · have he : e = ⟨1, 1, i, none⟩ := List.mem_singleton.mp he
    subst he; exact ⟨rfl, rfl⟩
  · have he : e = ⟨1, 1, i, none⟩ := List.mem_singleton.mp he
    subst he; exact ⟨rfl, rfl⟩
  · cases (h ⟨1, 1, .swaps true, none⟩ (List.mem_singleton.mpr rfl) rfl).1

/-- An operation of block 0 of the wave. -/
def matOp (k : MatKind) (begun : Bool) : MatOp := ⟨0, 0, [0], k, none, 0, 0, none, begun, 0, 0, 0, []⟩

/-- Operations in the queue of core 0. -/
def queued (l : List MatOp) : State :=
  (matrixState (some 0)).modCore 0 fun c => { c with array := { c.array with queue := l } }

/-- MatrixEffects: an operation that may begin, one that an unfinished SWAPS holds back, and one of each kind that may end; bounds of LDSTAT, MMA and
RMMA. -/
theorem witness_matrix_effects : (let s := queued [matOp .swaps false, matOp .swaps false];
      0 < s.cores.length ∧ (s.core 0).array.queue[0]? = some (matOp .swaps false) ∧ Claims.Begins s 0 0 (matOp .swaps false) ∧
      (s.core 0).array.queue[1]? = some (matOp .swaps false) ∧ ¬ Claims.Begins s 0 1 (matOp .swaps false)) ∧
    (∀ k ∈ [MatKind.swaps, .ldstat .k8 .f32 false 0 0, .mma 0 .m8 .k8 .f32 true false 0, .rmma 0 7 .f16 32 false 0 0],
      (queued [matOp k true]).mayEnd 0 0 = true ∧ (matOp k true).sums = []) ∧ 0 < (queued []).waves.length ∧
    MType.f64 ≠ .blk4 ∧ (31 : Nat) < Claims.storedElems .f64 .k1 ∧ (7 : Nat) < Claims.elemBits .f64 / 8 ∧
    (2047 : Nat) < Claims.storedElems .blk4 .k1 ∧ ((true = true) → MType.i8 ≠ .f64 ∧ MType.i8 ≠ .f32) ∧
    (0 < ((matrixState none).block 0).tiles.length ∧ (((matrixState none).block 0).tile 0).words.length = 1024) ∧
    (let entry := fun q => leNat (Scratch.get ⟨16384, [.zero], [⟨2, 1⟩, ⟨5, 0x80⟩]⟩) (0 + 128 * 0 + 2 * q) 2;
      (∀ q, q < 2 → entry q < 0x8000) ∧ 0x8000 ≤ entry 2) := by
  refine ⟨⟨by decide +kernel, by decide +kernel, ⟨rfl, by decide +kernel, by decide +kernel, ?_, ?_⟩, by decide +kernel, ?_⟩, by decide +kernel⟩
  · intro e he; cases he
  · intro z p t n acc x y h; cases h
  · intro h
    have := (h.2.2.2.1 (matOp .swaps false) (List.mem_cons_self ..)).1
    cases this

/-- TileForms: an absent slot, one on the matrix side, one on the vector side, and one that a queued MMA writes. -/
theorem witness_tiles : (let s := matrixState none;
      s.Issues (cw s) ∧ ((cw s).width = 16 ∨ (cw s).width = 32 ∨ (cw s).width = 64) ∧ (cw s).pending = [] ∧
      (s.blockOf (cw s)).tiles.length ≤ (2 : ZReg).toNat ∧ (0 : ZReg).toNat < (s.blockOf (cw s)).tiles.length ∧
      ((s.blockOf (cw s)).tile 0).matrix = true ∧ (1 : ZReg).toNat < (s.blockOf (cw s)).tiles.length ∧
      ((s.blockOf (cw s)).tile 1).matrix = false ∧ s.xfers = [] ∧ (s.core (s.coreOf (cw s))).array.queue = [] ∧ 15 ∈ (cw s).active) ∧
    (let s := queued [matOp (.mma 0 .m8 .k8 .f32 false false 0) false];
      s.Issues (cw s) ∧ ∃ o ∈ (s.core (s.coreOf (cw s))).array.queue, o.block = (cw s).block ∧ (0 : ZReg).toNat ∈ o.kind.slots) ∧
    Claims.tileForm (.zwr false 1 2 3) = some (1, true) ∧ Claims.tileForm (.ztake false 1) = some (1, false) :=
  ⟨⟨issues_ok (by decide +kernel), by decide +kernel⟩, ⟨issues_ok (by decide +kernel), by decide +kernel⟩, rfl, rfl⟩

/-- Two tiles as `matrixState` gives them, page 0 mapped, and a transfer in flight on slots 0 and 1 or none. -/
def tiled (busy : Bool) : State :=
  { mapped true true false (matrixState none) with
    xfers := if busy then [{ (default : XferOp) with block := 0, z := 0 }, { (default : XferOp) with block := 0, z := 1 }] else [] }

/-- TileForms, of ZLD and ZST: a slot on the matrix side, and every slot with an outstanding transfer. -/
theorem witness_tile_transfers : (∀ b, (tiled b).Issues (cw (tiled b)) ∧ (cw (tiled b)).pending = [] ∧
      (0 : ZReg).toNat < ((tiled b).blockOf (cw (tiled b))).tiles.length ∧ ((cw (tiled b)).s64 0).toNat < 2 ^ 52 ∧
      ((cw (tiled b)).s64 0).toNat % 128 = 0 ∧ (((tiled b).blockOf (cw (tiled b))).tile 0).matrix = true ∧
      (((tiled b).blockOf (cw (tiled b))).tile 1).matrix = false ∧
      ∀ k, k < 4096 → ∀ load : Bool, ∃ pa, Claims.Reaches (tiled b) (cw (tiled b)) (if load then .load else .store)
        ((((cw (tiled b)).s64 0).toNat + k) % 2 ^ 52) pa) ∧
    (∀ z ∈ [0, 1], ∃ x ∈ (tiled true).xfers, x.block = (cw (tiled true)).block ∧ x.z = z) := by
  refine ⟨fun b => ?_, by decide +kernel⟩
  have hz : ((cw (tiled b)).s64 0).toNat = 0 := by cases b <;> decide +kernel
  have ht : findTlb ((tiled b).core ((tiled b).coreOf (cw (tiled b)))).tlb ((tiled b).funcOf (cw (tiled b))) 0 = some (entry0 true true false) := by
    cases b <;> decide +kernel
  have hk : (tiled b).keyOk ((tiled b).funcOf (cw (tiled b))) 0 = true ∧ (tiled b).verifiedPage 2 = false := by cases b <;> decide +kernel
  refine ⟨by cases b <;> exact issues_ok (by decide +kernel), by cases b <;> decide +kernel, by cases b <;> decide +kernel,
    by cases b <;> decide +kernel, by cases b <;> decide +kernel, by cases b <;> decide +kernel, by cases b <;> decide +kernel, fun k hlt load => ?_⟩
  have hv : (((cw (tiled b)).s64 0).toNat + k) % 2 ^ 52 / 65536 = 0 := by rw [hz]; omega
  refine ⟨_, entry0 true true false, by rw [hv]; exact ht, rfl, ?_, hk.1, .inl rfl, ?_⟩
  · simp only [peerOf, entry0, hz]; omega
  · cases load
    · exact ⟨rfl, hk.2⟩
    · rfl

/-- RankWords, of operands: a misaligned address, one beyond the allocation, and a register that is no multiple of 16. -/
theorem witness_rank_traps : (∀ a ∈ [2, 16384], (atAddr a base).Issues (cw (atAddr a base)) ∧ (cw (atAddr a base)).pending = []) ∧
    (∀ n ∈ [128, 256], Claims.operandFails ((atAddr 2 base).blockOf (cw (atAddr 2 base))).scratch.size ((cw (atAddr 2 base)).s 4).toNat n 0x04 2 ∧
      Claims.operandFails ((atAddr 16384 base).blockOf (cw (atAddr 16384 base))).scratch.size ((cw (atAddr 16384 base)).s 4).toNat n 0x03 16384) ∧
    (1 : VReg).toNat % (256 / (cw base).width) ≠ 0 ∧ (cw base).width * 2 ^ (NReg.code .n8).toNat ≤ 256 ∧
    ((cw base).s 1).toNat + (cw base).width * 2 ^ (NReg.code .n8).toNat ≤ 4096 := by
  refine ⟨fun a ha => ?_, by unfold Claims.operandFails; decide +kernel, by decide +kernel⟩
  simp only [List.mem_cons, List.not_mem_nil, or_false] at ha
  rcases ha with rfl | rfl <;> exact ⟨issues_ok (by decide +kernel), by decide +kernel⟩

/-- RankWords: too many elements at W = 64, an index beyond 4,095, counts at their limits, and operands at the end of the allocation. -/
theorem witness_rank : (widened 64).Issues (cw (widened 64)) ∧ (cw (widened 64)).pending = [] ∧
    256 < (cw (widened 64)).width * 2 ^ (NReg.code .n8).toNat ∧ (cw (widened 64)).width * 2 ^ (NReg.code .n4).toNat ≤ 256 ∧
    ((cw (widened 64)).s 1).toNat + (cw (widened 64)).width * 2 ^ (NReg.code .n4).toNat ≤ 4096 ∧ (cw (widened 64)).counter .k < 63 ∧
    (let s := edit (widened 64) fun w => w.setS 1 3841;
      s.Issues (cw s) ∧ 4096 < ((cw s).s 1).toNat + (cw s).width * 2 ^ (NReg.code .n4).toNat) ∧
    ((atAddr 16256 base).Issues (cw (atAddr 16256 base)) ∧
      Claims.rankOperand (atAddr 16256 base) (cw (atAddr 16256 base)) (((cw (atAddr 16256 base)).s 4).toNat) 128) ∧
    ((atAddr 16128 base).Issues (cw (atAddr 16128 base)) ∧
      Claims.rankOperand (atAddr 16128 base) (cw (atAddr 16128 base)) (((cw (atAddr 16128 base)).s 4).toNat) 256) ∧
    (0 : VReg).toNat % (256 / (cw base).width) = 0 ∧ ((cw (atAddr 0x7F003F80 base)).s 4).toNat % 2 ^ 20 = 16256 :=
  ⟨issues_ok (by decide +kernel), by decide +kernel, by decide +kernel, by decide +kernel, by decide +kernel, by decide +kernel,
    ⟨issues_ok (by decide +kernel), by decide +kernel⟩, ⟨issues_ok (by decide +kernel), by unfold Claims.rankOperand; decide +kernel⟩,
    ⟨issues_ok (by decide +kernel), by unfold Claims.rankOperand; decide +kernel⟩, by decide +kernel⟩

/-- RankOrder: a held state in rank order, with a tie, and numbers to merge. -/
theorem witness_rank_order : (∀ x ∈ ([⟨.f32, 1, 0x40000000⟩, ⟨.f32, 5, 0x3F800000⟩, ⟨.f32, 7, 0x3F800000⟩] : List RankElem) ++
      [⟨.f32, 2, 0x3F800000⟩], Claims.isNumber x) ∧
    List.Pairwise Claims.rankFirst ([⟨.f32, 1, 0x40000000⟩, ⟨.f32, 5, 0x3F800000⟩, ⟨.f32, 7, 0x3F800000⟩] : List RankElem) := by
  constructor
  · unfold Claims.isNumber; decide +kernel
  · unfold Claims.rankFirst; decide +kernel

/-! ### Witnesses: events of waves and engines -/

/-- Bytes of VF 0's table that map page 0 to physical page 0, readable and writable. -/
def table0 : List (Nat × Byte) := leBytes 0x22000 0xF 8

/-- `base` with virtual page 0 mapped by VF 0's tables. -/
def data : State := base.poke table0

/-- A wave whose one outstanding result is due, or an as-of load that its home answers. -/
def returning (tag : PendTag) : State :=
  (edit base fun w => { w with pending := [⟨tag, [.v 1 w.exec (w.perLane fun _ => 7)], 9, none, false, 0, 0⟩] }).modTower 2 fun t => { t with count := 3 }

/-- A load of one lane suspended at an address that is in no cache. -/
def suspended (a : Word) : State :=
  edit base fun w => { w.setS 0 0 with sregs := (w.setS 4 a).sregs, mregs := 1 :: List.replicate 7 0, susp := some (.ld false 1 4 0 .b32 .dflt) }

/-- Fragment 1 waits for a word, and has waited for 40 cycles of the 32 of its limit. -/
def awaiting (c : WaitFor) : State :=
  edit base fun w => { w with frags := w.frags.set 1 { Frag.none with state := .wait, waited := 40, wait := some c } }

/-- A candidate for issue that has waited for 896 cycles, and whether the datapath holds it back. -/
def late (blocked : Bool) : State × List Cand :=
  (edit base fun w => { w with waitCount := 896 }, [⟨0, .word (.vlane false 1), blocked⟩])

/-- WaveEvents, of the choice: an overdue candidate that is free, and one that its datapath holds back while another issues; a wave that is a
candidate and does not issue, one that issues, and one that is none. -/
theorem witness_choice :
    (∀ b, ∃ x ∈ (late b).2, 896 ≤ ((late b).1.wave x.wave).waitCount ∧ x.blocked = b ∧ ((late b).1.wave x.wave).skipCycle = false ∧
      ∀ y ∈ (late b).2, y = x) ∧
    (let s := { (late true).1 with waves := (late true).1.waves ++ [cw base] };
      s.choosePart [⟨0, .word (.vlane false 1), true⟩, ⟨1, .word (.nop false), false⟩] = some 1 ∧ (s.wave 1).waitCount < (s.wave 0).waitCount) ∧
    (0 < base.waves.length ∧ base.partKey 0 = 4 * 0 + 0 ∧ (∃ c ∈ (late false).2, c.wave = 0) ∧ (none : Option Nat) ≠ some 0 ∧
      ∀ c ∈ ([] : List Cand), c.wave ≠ 0) := by
  refine ⟨fun b => ⟨⟨0, .word (.vlane false 1), b⟩, List.mem_singleton.mpr rfl, ?_⟩, by decide +kernel, by decide +kernel, by decide +kernel,
    ⟨_, List.mem_singleton.mpr rfl, rfl⟩, by decide, fun c h => nomatch h⟩
  cases b <;> decide +kernel

/-- The as-of load of every lane at 0x20000. -/
def asofRec : LoadRec := ⟨.v 1, .b32, (cw base).active.map fun j => (j, 0x20000), [], some 8⟩

/-- WaveEvents, of results: one that is ready, one whose cycle has come, and an as-of load of a home that has passed, of a registered page. -/
theorem witness_results : (∀ tag ∈ [PendTag.ready, .timed 0], (returning tag).Inv ∧ 0 < (returning tag).waves.length ∧ (returning tag).runs 0 = true ∧
      (((returning tag).wave 0).pending[0]?).map (fun x => x.tag) = some tag ∧ 0 ≤ (returning tag).cycle 0) ∧
    (let g := (returning (.asof asofRec 8)).modTower 2 fun t => { t with keeps := [⟨2, 0, 6, []⟩] };
      g.Inv ∧ g.runs 0 = true ∧ Claims.Still g ∧ (((g.wave 0).pending[0]?).map fun x => (x.tag, x.writes.length)) = some (.asof asofRec 8, 1) ∧
      (∀ y ∈ asofRec.bytes, (8 : Stamp).toNat / 4 < (g.tower (homeOf y)).count) ∧
      asofRec.lanes = (g.wave 0).active.map (fun j => (j, 0x20000)) ∧ 0x20000 % MSize.bytes .b32 = 0 ∧
      Claims.ReadsBack g g.seals (asofRec.key 0x20000) 0x20000 ∧ g.keepOf 0x20000 = some ⟨2, 0, 6, []⟩ ∧
      Claims.AsOf g ⟨2, 0, 6, []⟩ (lineOf 0x20000) 8 (fun i => g.peek (0x20000 + i)) (asofRec.key 0x20000) 0x20000) := by
  refine ⟨fun tag h => ?_, inv_ok (by decide +kernel), by decide +kernel, ?_, by decide +kernel, by decide +kernel, by decide +kernel,
    by decide +kernel, .inl (by decide +kernel), by decide +kernel, .inl ⟨?_, fun i _ => rfl⟩⟩
  · simp only [List.mem_cons, List.not_mem_nil, or_false] at h
    rcases h with rfl | rfl <;> exact ⟨inv_ok (by decide +kernel), by decide +kernel⟩
  · exact ⟨by decide +kernel, by decide +kernel, by decide +kernel⟩
  · have : ((((returning (.asof asofRec 8)).modTower 2 fun t => { t with keeps := [⟨2, 0, 6, []⟩] }).tower (homeOf (lineOf 0x20000))).log.filter
        fun v => v.line == lineOf 0x20000 && v.func == 0) = [] := by decide +kernel
    intro v hv
    rw [this] at hv
    cases hv

/-- WaveEvents, of translations: a suspended load of an unmapped page, and of one that its tables map. -/
theorem witness_walks : (let g := suspended 0;
      g.Inv ∧ g.runs 0 = true ∧ (g.wave 0).susp = some (.ld false 1 4 0 .b32 .dflt) ∧ (g.wave 0).pending = [] ∧ g.stoppedWave (g.wave 0) = false ∧
      (g.blockOf (g.wave 0)).victim = none ∧ (g.wave 0).active = [0] ∧ ((g.wave 0).s64 4).toNat < 2 ^ 52 ∧
      Claims.laneAddress (g.wave 0) 4 0 0 % MSize.bytes .b32 = 0 ∧
      findTlb (g.core (g.coreOf (g.wave 0))).tlb (g.funcOf (g.wave 0)) (Claims.laneAddress (g.wave 0) 4 0 0 / 65536) = none ∧
      g.walkVia (g.coreOf (g.wave 0)) (g.funcOf (g.wave 0)) (Claims.laneAddress (g.wave 0) 4 0 0) = .page) ∧
    (let g := suspended 0x30004;
      g.Inv ∧ Claims.Quiet g (cw g) ∧ g.runs 0 = true ∧ (g.wave 0).active = [0] ∧ (g.wave 0).hints.ord = none ∧
      findTlb (g.core (g.coreOf (g.wave 0))).tlb (g.funcOf (g.wave 0)) (Claims.laneAddress (g.wave 0) 4 0 0 / 65536) = none ∧
      g.walkVia (g.coreOf (g.wave 0)) (g.funcOf (g.wave 0)) (Claims.laneAddress (g.wave 0) 4 0 0) = .ok 3 ⟨0, false, false, true, false, true⟩ ∧
      g.keyOk (g.funcOf (g.wave 0)) 0 = true ∧ peerOf 0x30004 = 0 ∧ Claims.ReadsBack g g.seals 0 0x30004) :=
  ⟨⟨inv_ok (by decide +kernel), by decide +kernel⟩,
    ⟨inv_ok (by decide +kernel), quiet_ok (by decide +kernel), by decide +kernel, by decide +kernel, by decide +kernel, by decide +kernel,
      by decide +kernel, by decide +kernel, by decide +kernel, .inl (by decide +kernel)⟩⟩

/-- WaveEvents, of fetches and ends: a fetch that finds its word and one that does not; a wave of no lanes with nothing outstanding; and a slice that
ends. -/
theorem witness_fetches : (let g := edit base fun w => { w with ibuf := none };
      g.Inv ∧ g.runs 0 = true ∧ g.ready (g.wave 0) = true ∧ (g.wave 0).fetched = none ∧
      g.fetchWalk (g.wave 0) = .ok 3 ⟨0, false, false, true, false, true⟩ ∧ g.keyOk (g.funcOf (g.wave 0)) 0 = true ∧ g.verifiedPage 3 = true ∧
      (g.wave 0).pc.toNat % 4 = 0 ∧ Claims.ReadsBack g g.seals 0 (3 * 65536 + (g.wave 0).pc.toNat % 65536)) ∧
    (let g := edit base fun w => { w with pc := 0 };
      g.Inv ∧ g.runs 0 = true ∧ g.ready (g.wave 0) = true ∧ (g.wave 0).fetched = none ∧ g.fetchWalk (g.wave 0) = .page ∧
      (g.launchOf (g.wave 0)).live = true) ∧
    (let g := edit base fun w => { w with frags := List.replicate 8 Frag.none };
      g.Inv ∧ g.runs 0 = true ∧ (g.wave 0).ended = false ∧ (g.wave 0).awaiting = false ∧ (∀ e, e < 8 → ((g.wave 0).fragAt e).state = .free) ∧
      (g.wave 0).pending = [] ∧ (g.wave 0).outC = [] ∧ (g.wave 0).outM = [] ∧ (g.wave 0).outK = [] ∧ (g.wave 0).outD = []) ∧
    (let g := (base.modBlock 0 fun b => { b with victim := some 0 }).modFunc 0 fun g => { g with fslice := 0 };
      g.Inv ∧ g.runs 0 = true ∧ (g.blockOf (g.wave 0)).victim ≠ none ∧
      (g.wave 0).sliceFrom + (g.func (g.funcOf (g.wave 0))).fslice ≤ g.cycle (g.coreOf (g.wave 0)) ∧ g.stoppedWave (g.wave 0) = false) ∧
    (let g := base.modBlock 0 fun b => { b with victim := some 0 };
      g.Inv ∧ g.runs 0 = true ∧ g.cycle (g.coreOf (g.wave 0)) < (g.wave 0).sliceFrom + (g.func (g.funcOf (g.wave 0))).fslice) :=
  ⟨⟨inv_ok (by decide +kernel), by decide +kernel, by decide +kernel, by decide +kernel, by decide +kernel, by decide +kernel, by decide +kernel,
      by decide +kernel, .inl (by decide +kernel)⟩,
    ⟨inv_ok (by decide +kernel), by decide +kernel⟩, ⟨inv_ok (by decide +kernel), by decide +kernel⟩,
    ⟨inv_ok (by decide +kernel), by decide +kernel⟩, inv_ok (by decide +kernel), by decide +kernel⟩

/-- WaveEvents, of waits: words and bits that meet their condition, and that do not, at the limit. -/
theorem witness_wait_events : (∀ x ∈ [(WaitFor.waita .eq 0 .scratch 0 0 32, true), (.waita .eq 1 .scratch 0 0 32, false),
      (.waita .ult 1 .global 0x40000 0 32, true), (.waita .ne 0 .global 0x40000 0 32, false), (.waitbit 0x22018 1 0 32, true),
      (.waitbit 0x22018 3 0 32, false)],
    let g := awaiting x.1;
      g.Inv ∧ Claims.Still g ∧ g.runs 0 = true ∧ (g.wave 0).ended = false ∧ g.stoppedWave (g.wave 0) = false ∧ (g.wave 0).fuseDue = none ∧
      ((g.wave 0).fragAt 1).state = .wait ∧ ((g.wave 0).fragAt 1).wait = some x.1 ∧ ((g.wave 0).fragAt 1).seen = none ∧ Claims.wordWait x.1 = some 32 ∧
      (g.partOf (g.wave 0)).wc = [] ∧ 32 ≤ ((g.wave 0).fragAt 1).waited ∧ (Claims.waitMet g (g.wave 0) x.1 ↔ x.2 = true)) := by
  intro x h
  have hs : Claims.Still (awaiting x.1) := by
    refine ⟨?_, ?_, ?_⟩ <;> revert x <;> decide +kernel
  simp only [List.mem_cons, List.not_mem_nil, or_false] at h
  rcases h with rfl | rfl | rfl | rfl | rfl | rfl <;>
    exact ⟨inv_ok (by decide +kernel), hs, by unfold Claims.waitMet Claims.meets; decide +kernel⟩

/-- WaveEvents: a wait that a store event has met, whose word holds another value again. -/
theorem witness_wait_seen : let g := edit base fun w => { w with frags := w.frags.set 1 { Frag.none with
      state := .wait, wait := some (.waita .ne 0 .global 0x40000 0 32), seen := some 8 } }
    g.Inv ∧ Claims.Still g ∧ g.runs 0 = true ∧ ((g.wave 0).fragAt 1).seen.isSome = true ∧ (g.partOf (g.wave 0)).wc = [] :=
  ⟨inv_ok (by decide +kernel), (still_ok (by decide +kernel)).1, by decide +kernel⟩

/-- A map of page 0 to physical page 0 under the key of VF 0. -/
def map0 : List PageUse := [⟨0, 0, 0⟩]

/-- A copy in flight of each kind, of which one byte of five has moved from 0x1000 to 0x2000, with a notify word at scratchpad offset 64: a gather moves
one row, and a CPYAS reads the registered page 2 as of a stamp that its home has passed. -/
def inFlight (kind : Nat) : CopyOp :=
  let c : CopyOp := { (default : CopyOp) with id := 5, kind := kind, src := 0x1000, dst := 0x2000, n := 5, moved := 1, notify := 64, value := 1, map := map0 }
  match kind with
  | 3 => { c with n := 128, moved := 0, rows := [0x1000] }
  | 4 => { c with src := 0x20000, stamp := 8, map := [⟨0, 0, 0⟩, ⟨2, 2, 0⟩] }
  | _ => c

/-- The machine with that copy. -/
def flying (kind : Nat) : State :=
  { (edit base fun w => { w with outC := [5] }).modTower 2 fun t => { t with count := 3, keeps := if kind = 4 then [⟨2, 0, 6, []⟩] else [] } with
    nextOp := 6, copies := [inFlight kind] }

/-- EngineEvents, of copies: one of each kind, with places that are not registered. -/
theorem witness_copy_events : ∀ k, k < 5 → (flying k).Inv ∧ Claims.Still (flying k) ∧
    let c := inFlight k
    (flying k).copies.find? (fun d => d.id == 5) = some c ∧ c.kind = k ∧ c.moved ≤ c.n ∧ (c.kind = 3 → c.moved = 0 ∧ c.n = 128 * c.rows.length) ∧
      c.block < (flying k).blocks.length ∧ c.wave < (flying k).waves.length ∧
      (∀ a ∈ c.dests (c.n - c.moved), (flying k).keepOf a = none ∧ peerOf a = 0) ∧ (c.dests (c.n - c.moved)).Nodup ∧ c.notify ≠ 0xFFFFFFFF := by
  intro k hk
  have hb : ∀ k, k < 5 → okState (flying k) = true := by decide +kernel
  have hs : Claims.Still (flying k) := by
    refine ⟨?_, ?_, ?_⟩ <;> revert hk <;> revert k <;> decide +kernel
  exact ⟨inv_ok (hb k hk), hs, by clear hs; revert hk; revert k; decide +kernel⟩

/-- EngineEvents: what the first byte of each copy reads. -/
theorem witness_copy_byte : Claims.CopyByte (flying 0) (inFlight 0) 0 0 ∧ Claims.CopyByte (flying 1) (inFlight 1) 0 0 ∧
    Claims.CopyByte (flying 2) (inFlight 2) 0 0 ∧ Claims.CopyByte (flying 3) (inFlight 3) 0 0 ∧
    Claims.CopyByte (flying 4) (inFlight 4) 0 ((flying 4).peek 0x20001) := by
  refine ⟨?_, ?_, ?_, ?_, by decide +kernel, .inl (by decide +kernel), ⟨2, 0, 6, []⟩, fun i => (flying 4).peek (0x20000 + i), by decide +kernel,
    .inl ⟨?_, fun i _ => rfl⟩, rfl⟩
  · show (0 : Byte) = State.peekBy (flying 0) 0 0x1001; decide +kernel
  · show (0 : Byte) = Scratch.get ⟨16384, [.zero], []⟩ 0x1001; decide +kernel
  · show (0 : Byte) = State.peekBy (flying 2) 0 0x1001; decide +kernel
  · show (0 : Byte) = State.peekBy (flying 3) 0 0x1000; decide +kernel
  · have : (((flying 4).tower (homeOf (lineOf 0x20000))).log.filter fun v => v.line == lineOf 0x20000 && v.func == 0) = [] := by decide +kernel
    intro v hv
    have hv : v ∈ (((flying 4).tower (homeOf (lineOf 0x20000))).log.filter fun v => v.line == lineOf 0x20000 && v.func == 0) := hv
    rw [this] at hv
    cases hv

/-- A rank operation of the block at the core. -/
def ranking (k : RankKind) : State := base.modCore 0 fun c => { c with rankq := [⟨5, 0, 0, k⟩] }

/-- A tile transfer between slot 0 and the first 4,096 bytes of memory. -/
def moving (load : Bool) : State :=
  { base with xfers := [{ (default : XferOp) with id := 5, isLoad := load, addr := 0, map := map0 }] }

/-- The places of a tile transfer are each named once. -/
theorem moving_phys (load : Bool) : ∀ x ∈ (moving load).xfers, x.phys.Nodup := by
  intro x hx
  have hx : x = { (default : XferOp) with id := 5, isLoad := load, addr := 0, map := map0 } := by simpa [moving] using hx
  subst hx
  refine List.pairwise_map.mpr (List.Pairwise.imp_of_mem ?_ (List.nodup_range (n := 4096)))
  intro a b ha hb hab
  have ha := List.mem_range.mp ha
  have hb := List.mem_range.mp hb
  have h : ∀ k, k < 4096 → mapAddr map0 ((0 + k) % 2 ^ 52) = k := by
    intro k hk
    have h0 : (0 + k) % 2 ^ 52 = k := by omega
    have h1 : k / 65536 = 0 := by omega
    simp only [map0, mapAddr, h0, h1, List.find?, BEq.rfl]
    omega
  show mapAddr map0 ((0 + a) % 2 ^ 52) ≠ mapAddr map0 ((0 + b) % 2 ^ 52)
  rw [h a ha, h b hb]
  exact hab

/-- EngineEvents: a wave whose result waits for its RKREC of two ranks, the first of which holds the index 3. -/
theorem witness_recall : let k := RankKind.rkrec 0 0 128 0 .f32 0xFFFF
    let g := ((edit base fun w => { w with pending := [⟨.rank 5, [], 0, none, false, 0, 0⟩] }).modCore 0 fun c => { c with rankq := [⟨5, 0, 0, k⟩] }).modBlock 0
      fun b => { b with scratch := { b.scratch with cells := [⟨0, 3⟩, ⟨3, 0x80⟩] }, pals := b.pals.set 0 (List.replicate 64 0x3F800000) }
    g.Inv ∧ (g.core 0).rankq = ⟨5, 0, 0, k⟩ :: [] ∧ g.rankWaits 0 ⟨5, 0, 0, k⟩ = false ∧
      ((g.wave 0).pending[0]?).map (fun x => x.tag) = some (.rank 5) ∧ 0 < 256 / (g.wave 0).width ∧ 4 < (g.wave 0).width ∧
      let code := fun r => ((g.block 0).scratch.get (2 * r + 1) ++ (g.block 0).scratch.get (2 * r)).toNat
      code 0 < 0x8000 ∧ code 0 % 4096 = 3 ∧ ∀ r, r < 64 → ¬ ((∀ q, q ≤ r → code q < 0x8000) ∧ code r % 4096 = 4) :=
  ⟨inv_ok (by decide +kernel), by decide +kernel⟩

/-- EngineEvents: a rank operation of each kind, and a tile transfer each way. -/
theorem witness_engine_events :
    (∀ k ∈ [RankKind.ldpal 7 0, .rank [] 4 false 0, .rank [] 4 true 0, .rkrec 0 0 128 0 .f32 0xFFFF], (ranking k).Inv ∧
      ((ranking k).core 0).rankq = ⟨5, 0, 0, k⟩ :: [] ∧ (ranking k).rankWaits 0 ⟨5, 0, 0, k⟩ = false ∧ 7 < ((ranking k).block 0).pals.length) ∧
    (∀ b, (moving b).Inv ∧ Claims.Still (moving b) ∧ Claims.Unregistered (moving b) ∧ 0 < (moving b).blocks.length ∧
      0 < ((moving b).block 0).tiles.length ∧ (moving b).seals = [] ∧
      ∃ x, (moving b).xfers.find? (fun d => d.id == 5) = some x ∧ x.isLoad = b ∧ x.block = 0 ∧ x.z = 0) := by
  refine ⟨fun k hk => ?_, fun b => ?_⟩
  · simp only [List.mem_cons, List.not_mem_nil, or_false] at hk
    rcases hk with rfl | rfl | rfl | rfl <;> exact ⟨inv_ok (by decide +kernel), by decide +kernel⟩
  · cases b <;> exact ⟨inv_ok (by decide +kernel), (still_ok (by decide +kernel)).1, (still_ok (by decide +kernel)).2, by decide +kernel,
      by decide +kernel, by decide +kernel, _, rfl, by decide +kernel⟩

/-! ### Witnesses: events of the memory path and of history -/

/-- A store request of four bytes at 0x20100. -/
def request0 : Req := ⟨3, some 0, 0, 0x20100, leBytes 0x20100 7 4, 5, 0, .dflt, [], .store, .shown 2 [0]⟩

/-- Page 2 as VF 0 registers it. -/
def keep2 : Keep := ⟨2, 0, 6, []⟩

/-- The request, whose page is registered or not. -/
def requested (keep : Bool) : State :=
  { base.modTower 2 fun t => { t with keeps := if keep then [keep2] else [] } with
    funcs := base.funcs.modify 0 fun g => { g with hlogQuota := 4 }
    reqs := [request0], nextReq := 4 }

/-- A pin of core 0 on the line at 0x20000 whose lease has ended, with a reservation on it, its page registered in a log without room or not. -/
def pin0 : Pin := ⟨0x20000, [(1, 9)], 0, 0, [0], 0, 0⟩

def pinning (keep : Bool) : State :=
  { (base.modCore 0 fun c => { c with pins := [pin0] }).modTower 2 fun t => { t with keeps := if keep then [keep2] else [] } with
    resvs := [⟨0, 3, 0x20004, 4, some 0, 0⟩] }

/-- HomeEvents: a request on a plain and on a registered page; lines buffered for the own and for another tower; a dirty line; a pin whose lease ends,
on a plain page and on one whose log is full; and a clock exchange that is due. -/
theorem witness_home_events : (∀ b, let g := requested b;
      g.Inv ∧ g.reqs[0]? = some request0 ∧ g.blocked request0 = false ∧ g.firstOnLine 0 0x20100 = true ∧ peerOf 0x20100 = 0 ∧
      (g.tower (homeOf 0x20100)).count < 2 ^ 61 ∧ (g.tower (homeOf 0x20100)).eFloor.toNat < 2 ^ 62 ∧ request0.floor.toNat < 2 ^ 62 ∧
      (∀ h ∈ (g.tower (homeOf 0x20100)).home, h.stamp.toNat < 2 ^ 62) ∧ keep2.ks.toNat < 2 ^ 62 ∧
      g.keepOf 0x20100 = (if b then some keep2 else none) ∧ (g.tower (homeOf 0x20100)).homeWays ≠ [] ∧
      (∀ x ∈ request0.bytes, x.1 / 128 = 0x20100 / 128) ∧ (request0.bytes.map fun x => x.1).Nodup) ∧
    (∀ a ∈ [0, 0x20000], let l : WcLine := ⟨0, a, [(a, 1)], 0, 0, [], 0, .dflt, []⟩;
      let g := base.modCore 0 fun c => { c with parts := c.parts.modify 1 fun p => { p with wc := [l] } };
      g.Inv ∧ (((g.core 0).parts.getD 1 default).wc)[0]? = some l ∧ (homeOf l.line = towerOf 0 ↔ a = 0) ∧ peerOf l.line = 0 ∧
      (∀ b ∈ l.bytes, l.line ≤ b.1) ∧ (l.bytes.map fun b => b.1).Nodup) ∧
    (let r : RLine := ⟨0x20000, noWords, [⟨1, 7, 0, 0⟩], 0, 0, 0, 0, 0, .dflt, none, []⟩;
      let g := base.modTower 1 fun t => { t with remote := [r] };
      g.Inv ∧ 1 < g.towers.length ∧ g.rline 1 0x20000 = some r ∧ r.dirty ≠ []) ∧
    (∀ b, let g := pinning b;
      g.Inv ∧ 0 < g.cores.length ∧ (g.core 0).pins.find? (fun p => p.line == 0x20000) = some pin0 ∧ pin0.taken + pin0.lease ≤ g.cycle 0 ∧ g.reqs = [] ∧ g.late = [] ∧
      (pin0.words.map fun w => w.1).Nodup ∧ peerOf 0x20000 = 0 ∧ g.keepOf 0x20000 = (if b then some keep2 else none) ∧
      g.logRoom 0 (homeOf 0x20000) 1 = false ∧
      (∃ r ∈ g.resvs, r.pin = some 0 ∧ lineOf r.addr = 0x20000 ∧ r.wave < g.waves.length ∧ r.lane < 64)) ∧
    (let g := { base with tick := 256 };
      g.Inv ∧ g.lastExchange + 256 ≤ g.tick) := by
  refine ⟨fun b => ?_, fun a ha => ?_, ⟨inv_ok (by decide +kernel), by decide +kernel⟩, fun b => ?_, inv_ok (by decide +kernel), by decide +kernel⟩
  · cases b <;> exact ⟨inv_ok (by decide +kernel), by decide +kernel⟩
  · simp only [List.mem_cons, List.not_mem_nil, or_false] at ha
    rcases ha with rfl | rfl <;> exact ⟨inv_ok (by decide +kernel), by decide +kernel⟩
  · cases b <;> exact ⟨inv_ok (by decide +kernel), by decide +kernel⟩

/-- VF 0 with a raise to 4 under way, waiting for an acknowledgement of core 0 or for none; a wave or a tower asked for it. -/
def raising (acks : List Nat) (tower : Option Nat) : State :=
  (edit base fun w => { w with pending := [⟨.raise, [], 0, none, false, 0, 0⟩] }).modFunc 0 fun g =>
    { g with raising := some ⟨4, if tower.isNone then some 0 else none, tower⟩, acks := acks }

/-- Tower 2's share of VF 0's log holds some records, and the clocks stand at 40. -/
def filled (n : Nat) (s : State) : State :=
  { s with
    towers := s.towers.modify 2 fun t => { t with
      count := 40
      log := (List.range n).map fun i => ⟨0, i, 0x20000, BitVec.ofNat 64 (4 * i + 10), 6, none, none, [], []⟩ }
    funcs := s.funcs.modify 0 fun g => { g with hlogQuota := 4 } }

/-- VF 0 has asked for page 2 to be registered or ended. -/
def asked (op : Bool) (quota : Nat) (old : List Keep) : State :=
  (base.modFunc 0 fun g => { g with keepBusy := true, keepReq := 2, keepOp := op, hlogQuota := quota }).modTower 2 fun t => { t with keeps := old }

/-- A wave whose word waits for records of `n` lines of tower 2, whose page 2 is registered. -/
def forRecords (n : Nat) (s : State) : State :=
  (edit s fun w => { w with stall := .log (List.replicate n 0x20000) }).modTower 2 fun t => { t with keeps := [keep2] }

/-- HistoryEvents, of raises: one that lies above HZ and one that does not, an acknowledgement, a completion for a wave that asked, and one for a full
share that it could not help, with no room for a record or none for a word's; shares that ask, and ones with room for what waits. -/
theorem witness_raises :
    (let g := { base with towers := base.towers.modify 1 fun t => { t with count := 9 } };
      g.Inv ∧ 0 < g.funcs.length ∧ (g.func 0).raising = none ∧ (g.func 0).raises = [] ∧ (g.func 0).hz.toNat <
        min (min (8 : Stamp).toNat (g.func 0).hold.toNat) (min (g.savedFloor 0).toNat g.nowStamp.toNat) ∧
      min (min (0 : Stamp).toNat (g.func 0).hold.toNat) (min (g.savedFloor 0).toNat g.nowStamp.toNat) ≤ (g.func 0).hz.toNat) ∧
    ((raising [0] none).Inv ∧ ((raising [0] none).func 0).raising = some ⟨4, some 0, none⟩ ∧ (raising [0] none).asofQuiet 0 0 4 = true) ∧
    ((raising [] none).Inv ∧ ((raising [] none).func 0).acks = [] ∧ ((raising [] none).func 0).raises = [] ∧
      (((raising [] none).wave 0).pending.map fun x => x.tag) = [.raise]) ∧
    (let g := (filled 455 (raising [] (some 2))).modFunc 0 fun g => { g with hold := 8 };
      g.Inv ∧ (g.func 0).raising = some ⟨4, none, some 2⟩ ∧ (g.func 0).acks = [] ∧ (g.func 0).raises = [] ∧ (∃ v ∈ (g.tower 2).log, v.func = 0) ∧
      (∀ v ∈ (g.tower 2).log, v.func = 0 → min (g.func 0).hold.toNat (g.savedFloor 0).toNat < v.stamp.toNat) ∧
      (match exec (.horizonRaiseComplete 0) g with
        | .next t => decide ((t.func 0).hz = 4 ∧ (∀ v ∈ (g.tower 2).log, (t.func 0).hz < v.stamp) ∧ t.logRoom 0 2 1 = false)
        | _ => false) = true) ∧
    (let g := forRecords 64 ((filled 400 (raising [] (some 2))).modFunc 0 fun g => { g with hold := 8 });
      g.Inv ∧ (g.func 0).raising = some ⟨4, none, some 2⟩ ∧ (g.func 0).acks = [] ∧ (g.func 0).raises = [] ∧
      (match exec (.horizonRaiseComplete 0) g with
        | .next t => decide (t.logRoom 0 2 1 = true ∧ (t.wave 0).ended = false ∧ (t.wave 0).stall = .log (List.replicate 64 0x20000) ∧
            t.shortLines 0 2 (List.replicate 64 0x20000) = true)
        | _ => false) = true) ∧
    (let g := filled 455 (raising [] none);
      g.Inv ∧ g.shareShort 0 2 = true ∧ (g.func 0).asked 2 = false ∧ g.stalledShare 0 2 = false ∧ (g.func 0).raising = some ⟨4, some 0, none⟩ ∧
      (g.advanceTarget 0 2).isSome = true) ∧
    (let g := forRecords 64 (filled 400 (raising [] none));
      g.Inv ∧ g.logRoom 0 2 1 = true ∧ g.shareShort 0 2 = true ∧ (g.func 0).asked 2 = false ∧ g.stalledShare 0 2 = false) ∧
    (forRecords 1 (filled 400 base)).shareShort 0 2 = false :=
  ⟨⟨inv_ok (by decide +kernel), by decide +kernel⟩, ⟨inv_ok (by decide +kernel), by decide +kernel⟩, ⟨inv_ok (by decide +kernel), by decide +kernel⟩,
    ⟨inv_ok (by decide +kernel), by decide +kernel⟩, ⟨inv_ok (by decide +kernel), by decide +kernel⟩, ⟨inv_ok (by decide +kernel), by decide +kernel⟩,
    ⟨inv_ok (by decide +kernel), by decide +kernel⟩, by decide +kernel⟩

/-- HistoryEvents, of registers: each answer of FKEEPREQ; in normal operation and in recovery; a write of FHOLD with a full
share whose word waits, and with none. -/
theorem witness_history_events :
    ((asked false 4 []).Inv ∧ (asked true 4 [keep2]).Inv ∧ (asked false 0 [keep2]).Inv ∧ (asked false 0 []).Inv ∧
      (asked false 4 []).owns 0 (2 * 65536) 65536 = true ∧ peerOf (2 * 65536) = 0 ∧ (asked false 4 []).keepOf (2 * 65536) = none ∧
      (asked false 0 [keep2]).keepOf (2 * 65536) = some keep2) ∧
    (let g := base.modFunc 0 fun g => { g with keepBusy := true, keepReq := 4 };
      g.Inv ∧ g.owns 0 (4 * 65536) 65536 = false) ∧
    ((filled 0 base).Inv ∧ base.Inv ∧ base.accepts = true ∧ (base.func 0).keepBusy = false ∧ base.reqs = [] ∧
      (∀ n, n < base.towers.length → ((filled 0 base).modFunc 0 fun g => { g with hold := 8 }).shareShort 0 n = false ∧
        (base.modFunc 0 fun g => { g with hlogQuota := 4 }).shareShort 0 n = false) ∧
      (∀ n, n < base.towers.length → ∀ k ∈ (base.tower n).keeps, k.func ≠ 0)) ∧
    (let g := { base with recovery := true };
      g.Inv ∧ g.accepts = false) ∧
    (let g := forRecords 64 (filled 400 base);
      let u := g.modFunc 0 fun g => { g with hold := -1 };
      g.Inv ∧ g.accepts = true ∧ g.reqs = [] ∧ (g.func 0).raising = none ∧ (g.func 0).raises = [] ∧ 2 < g.towers.length ∧
      u.shareShort 0 2 = true ∧ (∀ k, k < 2 → u.shareShort 0 k = false) ∧
      ∃ x, g.advanceTarget 0 2 = some x ∧
        min (min x.toNat (max (-1 : Word64).toNat (g.func 0).hz.toNat)) (min (g.savedFloor 0).toNat g.nowStamp.toNat) > (g.func 0).hz.toNat) ∧
    ∃ n, n < (requested true).towers.length ∧ ∃ k ∈ ((requested true).tower n).keeps, k.func = 0 :=
  ⟨⟨inv_ok (by decide +kernel), inv_ok (by decide +kernel), inv_ok (by decide +kernel), inv_ok (by decide +kernel), by decide +kernel⟩,
    ⟨inv_ok (by decide +kernel), by decide +kernel⟩, ⟨inv_ok (by decide +kernel), inv_ok (by decide +kernel), by decide +kernel⟩,
    ⟨inv_ok (by decide +kernel), by decide +kernel⟩,
    ⟨inv_ok (by decide +kernel), by decide +kernel, by decide +kernel, by decide +kernel, by decide +kernel, by decide +kernel, by decide +kernel,
      by decide +kernel, 122, by decide +kernel⟩,
    2, by decide +kernel, keep2, by decide +kernel, rfl⟩

/-! ### Witnesses: events of the work distributor -/

/-- A leaf of VF 0's tables maps its memory, and a descriptor stands at address 0, whose bytes from 0x18 on are given; it begins at 0x30000. -/
def slotMem (l : List Host.Cell) : List Host.Cell := (2, 3) :: l ++ [(0x10000, 1), (0x10002, 2), (0x20000, 0xF)]

/-- The descriptor. -/
def slotDesc (l : List Host.Cell) : Desc := parseDesc fun off => leNat (Memory.read (slotMem l)) off 8

/-- The machine with VF 0's queue at address 0. -/
def described (l : List Host.Cell) : State :=
  { base.modLaunch 0 fun g => { g with desc := { g.desc with cbmp := 0x1200 } } with
    mem := slotMem l
    funcs := base.funcs.modify 0 fun g => { g with queues := g.queues.set 0 ⟨0, 4, 3, 0, 1, false⟩, memSize := 2 ^ 32 - 1 } }

/-- A descriptor is its sixteen words. -/
theorem parse_words {q r : Nat → Nat} (h : ∀ k, k < 16 → q (8 * k) = r (8 * k)) : parseDesc q = parseDesc r := by
  have h0 := h 0 (by omega); have h1 := h 1 (by omega); have h2 := h 2 (by omega); have h3 := h 3 (by omega)
  have h4 := h 4 (by omega); have h5 := h 5 (by omega); have h6 := h 6 (by omega); have h7 := h 7 (by omega)
  have h8 := h 8 (by omega); have h9 := h 9 (by omega); have h10 := h 10 (by omega); have h11 := h 11 (by omega)
  have h12 := h 12 (by omega); have h13 := h 13 (by omega); have h14 := h 14 (by omega); have h15 := h 15 (by omega)
  simp only [Nat.reduceMul] at h0 h1 h2 h3 h4 h5 h6 h7 h8 h9 h10 h11 h12 h13 h14 h15
  simp only [parseDesc, h0, h1, h2, h3, h4, h5, h6, h7, h8, h9, h10, h11, h12, h13, h14, h15]

/-- The check of the words: the page at 0 may be read, and the bytes there are the descriptor's. -/
def okWords (l : List Host.Cell) : Bool :=
  let s := described l
  match s.walk 0 0 with
  | .ok page f => s.keyOk 0 f.key && s.peerOk 0 (page * 65536) && f.rd &&
      (List.range 16).all fun k => leNat (fun a => s.peekBy f.key (page * 65536 + a)) (8 * k) 8 == leNat (Memory.read (slotMem l)) (8 * k) 8
  | _ => false

/-- The queue's slot holds the descriptor. -/
theorem slot_desc {l : List Host.Cell} (h : okWords l = true) :
    (parseDesc fun off => leNat ((described l).sysByte 0) (0 + off) 8) = slotDesc l := by
  unfold okWords at h
  dsimp only at h
  split at h
  · rename_i page f hw
    rw [Bool.and_eq_true] at h
    refine parse_words fun k hk => ?_
    rw [Nat.zero_add, ← eq_of_beq (List.all_eq_true.mp h.2 k (List.mem_range.mpr hk))]
    exact leNat_congr fun j hj => State.sysByte_page hw (by omega) h.1
  · exact absurd h (by simp)

/-- The check that a slot is read, and its descriptor not held. -/
def okRead (l : List Host.Cell) : Bool :=
  let s := described l
  okState s && s.readsQueue 0 0 && !s.sysWaits 0 0 128 && s.sysOk 0 0 128 false && okWords l && !s.descHeld 0 (slotDesc l)

/-- The check that its record can be written and its flags are right. -/
def okFlags (l : List Host.Cell) : Bool := okRead l && (described l).sysOk 0 (slotDesc l).crec 32 true && !(slotDesc l).badFlags (described l) 0

/-- The check that its shape and its groups are right too. -/
def okShape (l : List Host.Cell) : Bool := okFlags l && !(slotDesc l).badShape && (described l).readGroups 0 (slotDesc l) == some []

/-- A descriptor of one block, with a bitmap at 0x1100 and a record at 0x1000. -/
abbrev good : List Host.Cell := [(0x21, 0x11), (0x29, 0x10), (0x30, 8), (0x31, 1), (0x32, 0x20), (0x3C, 1), (0x40, 1), (0x42, 1)]

/-- One of another function. -/
abbrev ofOther : List Host.Cell := [(0x21, 0x11), (0x29, 0x10), (0x30, 8), (0x31, 1), (0x32, 0x20), (0x38, 1), (0x3C, 1), (0x40, 1), (0x42, 1)]

/-- One of 7 vector registers. -/
abbrev shapeless : List Host.Cell := [(0x21, 0x11), (0x29, 0x10), (0x30, 7), (0x31, 1), (0x32, 0x20), (0x3C, 1), (0x40, 1), (0x42, 1)]

/-- One whose group table is not mapped. -/
abbrev farGroups : List Host.Cell := [(0x1E, 4), (0x21, 0x11), (0x29, 0x10), (0x30, 8), (0x31, 1), (0x32, 0x20), (0x3C, 1), (0x40, 1), (0x42, 1)]

/-- A sweep whose vector is (1, 0, 0). -/
abbrev cycling : List Host.Cell := [(0x21, 0x11), (0x29, 0x10), (0x30, 8), (0x31, 1), (0x32, 0x20), (0x34, 2), (0x35, 2), (0x3C, 1), (0x40, 1), (0x42, 1), (0x48, 1)]

/-- One whose upstream launch has not been read. -/
abbrev orphan : List Host.Cell := [(0x21, 0x11), (0x29, 0x10), (0x30, 8), (0x31, 1), (0x32, 0x20), (0x35, 0x10), (0x3C, 1), (0x40, 1), (0x42, 1), (0x50, 7)]

/-- One whose upstream launch is number 0. -/
abbrev follower : List Host.Cell := [(0x21, 0x11), (0x29, 0x10), (0x30, 8), (0x31, 1), (0x32, 0x20), (0x35, 0x10), (0x3C, 1), (0x40, 1), (0x42, 1)]

/-- One whose bitmap is not mapped. -/
abbrev farBitmap : List Host.Cell := [(0x26, 4), (0x29, 0x10), (0x30, 8), (0x31, 1), (0x32, 0x20), (0x3C, 1), (0x40, 1), (0x42, 1)]

/-- A CORES launch of 256 blocks. -/
abbrev wide : List Host.Cell := [(0x21, 0x11), (0x29, 0x10), (0x30, 8), (0x31, 1), (0x32, 0x20), (0x34, 1), (0x3C, 1), (0x41, 1), (0x42, 1)]

/-- One whose record is not mapped. -/
abbrev farRecord : List Host.Cell := [(0x21, 0x11), (0x2E, 4), (0x30, 8), (0x31, 1), (0x32, 0x20), (0x3C, 1), (0x40, 1), (0x42, 1)]

/-- LaunchEvents: descriptors that fail the checks of R53, in its order: their flags, shape and groups. -/
theorem witness_checks : (okRead ofOther = true ∧ (described ofOther).sysOk 0 (slotDesc ofOther).crec 32 true = true ∧
      (slotDesc ofOther).badFlags (described ofOther) 0 = true) ∧
    (okFlags shapeless = true ∧ (slotDesc shapeless).badShape = true) ∧
    (okFlags farGroups = true ∧ (slotDesc farGroups).badShape = false ∧ (described farGroups).readGroups 0 (slotDesc farGroups) = none) := by
  decide +kernel

/-- LaunchEvents: those that fail the later ones: vectors, upstream, bitmap and cores. -/
theorem witness_later_checks : (okShape cycling = true ∧ ∃ v ∈ (slotDesc cycling).depv, Claims.cyclic v) ∧
    (okShape orphan = true ∧ (slotDesc orphan).depv = [] ∧ (slotDesc orphan).ups = true ∧
      (described orphan).upstreamSeq 0 0 (slotDesc orphan) = none) ∧
    (okShape farBitmap = true ∧ (slotDesc farBitmap).ups = false ∧ (slotDesc farBitmap).cbmp ≠ 0 ∧
      (described farBitmap).sysOk 0 (slotDesc farBitmap).cbmp (slotDesc farBitmap).bitmapBytes true = false) ∧
    (okShape wide = true ∧ (described wide).sysOk 0 (slotDesc wide).cbmp (slotDesc wide).bitmapBytes true = true ∧
      ((described wide).partition 0).length * (slotDesc wide).perCore < (slotDesc wide).total) := by
  unfold Claims.cyclic
  decide +kernel

/-- LaunchEvents: descriptors that pass, without an upstream launch and with one; a slot that cannot be read; and a record that cannot be written. -/
theorem witness_reads :
    ((described good).Inv ∧ 0 < ((described good).func 0).queues.length ∧ okShape good = true ∧ (slotDesc good).depv = [] ∧
      (slotDesc good).ups = false ∧ (slotDesc good).cores = false ∧ (described good).partition 0 = [0] ∧
      (described good).sysOk 0 (slotDesc good).cbmp (slotDesc good).bitmapBytes true = true ∧ Claims.Still (described good) ∧
      Claims.Unregistered (described good) ∧ (∀ x ∈ (described good).sysBytes 0 0x1000 (List.replicate 32 0), peerOf x.1 = 0)) ∧
    (okShape follower = true ∧ (slotDesc follower).ups = true ∧ (described follower).upstreamSeq 0 0 (slotDesc follower) = some 0 ∧
      Claims.mayFollow (described follower) 0 0) ∧
    (let s := { described [] with funcs := (described []).funcs.modify 0 fun g => { g with ptEn := false } };
      s.Inv ∧ s.readsQueue 0 0 = true ∧ s.sysWaits 0 0 128 = false ∧ s.sysOk 0 0 128 false = false) ∧
    (okRead farRecord = true ∧ (described farRecord).sysOk 0 (slotDesc farRecord).crec 32 true = false) := by
  refine ⟨⟨inv_ok (by decide +kernel), by decide +kernel, by decide +kernel, by decide +kernel, by decide +kernel, by decide +kernel,
    by decide +kernel, by decide +kernel, (still_ok (by decide +kernel)).1, (still_ok (by decide +kernel)).2, by decide +kernel⟩, ?_,
    ⟨inv_ok (by decide +kernel), by decide +kernel⟩, by decide +kernel⟩
  unfold Claims.mayFollow
  decide +kernel

/-- LaunchEvents: a write of the host that waits; normal operation and recovery; a launch that has aged; and launches to drain and to close. -/
theorem witness_launch_events :
    (let g := { base with reqs := [{ request0 with kind := .host }] };
      g.Inv ∧ (∃ x ∈ g.reqs, x.kind = .host ∧ x.func = 0)) ∧
    (State.accepts { base with recovery := true } = false ∧ base.accepts = true ∧ (0 = 0 ∨ 0 = Config.pf)) ∧
    (let g := base.modLaunch 0 fun l => { l with age := 1000000 };
      g.Inv ∧ 0 < g.launches.length ∧ (g.launch 0).live = true ∧ (g.func 0).fage ≠ 0 ∧ (g.func 0).fage.toNat ≤ (g.launch 0).age ∧ dieOf 0 < g.dies.length ∧
      ∀ x ∈ (g.launch 0).lvlWas, x.1 ≤ g.cycle 0) ∧
    (let g := ((pinning false).modBlock 0 fun b => { b with status := .stopped }).modLaunch 0 fun l => { l with status := .fault };
      g.Inv ∧ g.undrained 0 ≠ []) ∧
    (let g := State.modLaunch { data with blocks := [] , waves := [] } 0 fun l => { l with status := .fault, cause := 3 };
      g.Inv ∧ g.mustClose 0 = true ∧ g.undrained 0 = [] ∧ Claims.Still g ∧ Claims.Unregistered g ∧ (g.launch 0).live = false ∧ g.heldOf 0 = [] ∧
      g.sysOk 0 (g.launch 0).desc.crec 32 true = true ∧ ∀ x ∈ g.sysBytes 0 (g.launch 0).desc.crec ((g.launch 0).record 0), peerOf x.1 = 0) := by
  refine ⟨⟨inv_ok ?_, _, List.mem_singleton.mpr rfl, rfl, rfl⟩, ?_, ⟨inv_ok ?_, ?_⟩, ⟨inv_ok ?_, ?_⟩, inv_ok ?_, ?_, ?_, (still_ok ?_).1,
    (still_ok ?_).2, ?_⟩ <;> decide +kernel

/-- A launch of VF 0 with no block placed, on the queue of `data`; CORES or not. -/
def waiting (cores : Bool) : State :=
  ({ data with blocks := [], waves := [] }).modLaunch 0 fun l => { l with placed := [], desc := { l.desc with cores := cores } }

/-- A resident block whose only wave has ended, with a bitmap that its page tables map, or one that they do not. -/
def ending (cbmp : Nat) : State :=
  (edit data fun w => { w with ended := true }).modLaunch 0 fun l => { l with desc := { l.desc with cbmp := cbmp } }

/-- A victim whose wave is taken, with room for its record. -/
def evicting : State :=
  ((edit data fun w => { w with taken := true }).modBlock 0 fun b => { b with victim := some 0 }).modFunc 0 fun g => { g with saveSize := 64 }

/-- A saved block, whose record software has written or not. -/
def saved (invalid : Bool) : State :=
  (edit data fun w => { w with taken := true }).modBlock 0 fun b => { b with status := .saved, save := some (0, 8), invalid := invalid }

/-- PlacementEvents: a block that may be placed; a CORES launch that fits and one that does not; a retirement with a bitmap, without one, and with
one that cannot be written; an eviction; and restorations. -/
theorem witness_placement_events :
    ((waiting false).Inv ∧ (waiting false).mayPlace 0 0 = true ∧ ((waiting false).launch 0).desc.cores = false ∧
      (waiting false).coreOpen 0 0 = true ∧
      (waiting false).fits ((waiting false).launch 0).desc (List.range ((waiting false).launch 0).desc.nwaves) 0 0 = true) ∧
    (let g := waiting true;
      g.Inv ∧ (g.launch 0).live = true ∧ (g.launch 0).desc.cores = true ∧ (g.func 0).susp = false ∧ g.savedOf 0 = [] ∧ (g.launch 0).placed = [] ∧
      g.clears (g.launch 0) = false ∧ g.upstreamFailed (g.launch 0) = false ∧ g.isReleased (g.launch 0) 0 = true ∧ (g.launch 0).desc.total = 1 ∧
      State.placeAll 0 ((List.range 1).zip [(5, 0)]) g = none ∧ (State.placeAll 0 ((List.range 1).zip [(0, 0)]) g).isSome = true) ∧
    (∀ c ∈ [0x1000, 0, 0x50000], let g := ending c;
      g.Inv ∧ (g.block 0).status = .resident ∧ (∀ w ∈ (g.block 0).waves, (g.wave w).ended = true) ∧ Claims.Still g ∧ Claims.Unregistered g ∧
      (g.launch 0).live = true ∧ g.upstreamFailed (g.launch 0) = false ∧
      ((g.sysCheck 0 ((g.launch 0).desc.bitmapWord 0 % 2 ^ 52) true).toOption.isSome = true ↔ c ≠ 0x50000) ∧
      (g.launch 0).board.length + 1 = (g.launch 0).desc.total) ∧
    (evicting.Inv ∧ evicting.evictable 0 = true ∧ (∀ w ∈ (evicting.block 0).waves, (evicting.wave w).awaiting = false) ∧
      (evicting.saveSlot 0 0 (evicting.recordUnits 0)).isSome = true ∧
      (evicting.evictRelease 0 (evicting.moveScope 0)).evictReleased 0 (evicting.moveScope 0) = true) ∧
    (∀ b, (saved b).Inv ∧ (saved b).canRestore 0 0 1 = true ∧ ((saved b).launch 0).desc.cores = false ∧ (saved b).loadsFree 0 = true ∧
      ((saved b).block 0).invalid = b) := by
  refine ⟨⟨inv_ok (by decide +kernel), by decide +kernel⟩, ⟨inv_ok (by decide +kernel), by decide +kernel⟩, fun c hc => ?_,
    ⟨inv_ok (by decide +kernel), by decide +kernel⟩, fun b => ?_⟩
  · simp only [List.mem_cons, List.not_mem_nil, or_false] at hc
    rcases hc with rfl | rfl | rfl <;> exact ⟨inv_ok (by decide +kernel), by decide +kernel, by decide +kernel, (still_ok (by decide +kernel)).1,
      (still_ok (by decide +kernel)).2, by decide +kernel⟩
  · cases b <;> exact ⟨inv_ok (by decide +kernel), by decide +kernel⟩

/-- A second launch of VF 0, of level 7, that asks for every way and of which no block has been placed; block 0 of the first holds 16 of them and
has room in the save area. -/
def rivals (ask : Nat) : State :=
  { (data.modBlock 0 fun b => { b with ways := List.range 16 }).modFunc 0 fun g => { g with saveSize := 64 } with
    launches := data.launches ++ [{ Loaded.launch with placed := [], lvl := 7, desc := { Loaded.desc with scratch := ask } }] }

/-- PlacementEvents: a placement while a victim chosen for the same block still runs; a choice of a victim; a retirement that leaves blocks to come,
and one with a transfer in flight. -/
theorem witness_victims :
    (let g := (rivals 1).modBlock 0 fun b => { b with victim := some 0, victimFor := (1, 0), save := some (0, 8) };
      g.Inv ∧ g.mayPlace 1 0 = true ∧ (g.launch 1).desc.cores = false ∧ g.coreOpen 0 0 = true ∧ g.fits (g.launch 1).desc [0] 0 0 = true ∧
      (g.block 0).victim ≠ none ∧ (g.block 0).victimFor = (1, 0) ∧ (∀ w ∈ (g.block 0).waves, (g.wave w).taken = false) ∧
      (g.launch (g.block 0).launch).desc.cores = false) ∧
    (let g := rivals 32;
      g.Inv ∧ g.nextChoice.isSome = true ∧ (g.block 0).victim = none ∧
      ((g.nextChoice.map fun c => ((c.2.2.block 0).victim.isSome, (c.2.2.block 0).victimFor)) = some (true, (1, 0)))) ∧
    (let g := (ending 0).modLaunch 0 fun l => { l with desc := { l.desc with gridX := 2 } };
      g.Inv ∧ (g.block 0).status = .resident ∧ (∀ w ∈ (g.block 0).waves, (g.wave w).ended = true) ∧ g.atRest 0 = true ∧ Claims.Still g ∧
      Claims.Unregistered g ∧ (g.launch 0).live = true ∧ g.upstreamFailed (g.launch 0) = false ∧
      (g.launch 0).board.length + 1 ≠ (g.launch 0).desc.total) ∧
    (let g := { ending 0 with xfers := [{ (default : XferOp) with id := 5, block := 0, map := map0 }] };
      g.Inv ∧ 0 < g.blocks.length ∧ ∃ x ∈ g.xfers, x.block = 0) := by
  refine ⟨⟨inv_ok (by decide +kernel), by decide +kernel⟩, ⟨inv_ok (by decide +kernel), by decide +kernel⟩, ?_, inv_ok (by decide +kernel),
    by decide +kernel, by decide +kernel⟩
  exact ⟨inv_ok (by decide +kernel), by decide +kernel, by decide +kernel, by decide +kernel, (still_ok (by decide +kernel)).1,
    (still_ok (by decide +kernel)).2, by decide +kernel⟩

/-- A saved block of a CORES launch of one block or of two, the second of which is resident. -/
def savedCores (two : Bool) : State :=
  let s := (saved false).modLaunch 0 fun l => { l with desc := { l.desc with cores := true } }
  if two then { s with blocks := s.blocks ++ [{ Loaded.block with index := 1, waves := [] }] } else s

/-- That saved block as the launch's second, with another launch's block chosen as a victim for the launch. -/
def savedFor : State :=
  let s := (savedCores false).modBlock 0 fun b => { b with index := 1 }
  { s with
    launches := s.launches ++ [Loaded.launch]
    blocks := s.blocks ++ [{ Loaded.block with launch := 1, waves := [], victim := some 0, victimFor := (0, 0), save := some (8, 8) }] }

/-- A saved block whose wave waits in a barrier that has completed. -/
def savedWaiting : State :=
  edit (saved false) fun w => { w with
    frags := { Frag.none with state := .wait, mask := 1, wait := some (.bar 0 false true) } :: List.replicate 7 Frag.none }

/-- PlacementEvents: a CORES launch restored where it fits and kept waiting where it does not, or while one of its blocks is resident; a
victim of such a launch; and a block restored whose wave waits in a barrier that has completed. -/
theorem witness_restored :
    (let g := savedCores false;
      g.Inv ∧ (g.launch 0).live = true ∧ (g.launch 0).desc.cores = true ∧ (g.func 0).susp = false ∧ g.savedOf 0 = [0] ∧ g.heldOf 0 = [] ∧
      (∀ b ∈ g.savedOf 0, (g.block b).invalid = false) ∧ (State.restoreAll ([0].zip [(5, 0)]) g).isNone = true ∧
      (State.restoreAll ([0].zip [(0, 0)]) g).isSome = true) ∧
    (let g := savedCores true;
      g.Inv ∧ (g.launch 0).live = true ∧ (g.launch 0).desc.cores = true ∧ (g.func 0).susp = false ∧ g.savedOf 0 ≠ [] ∧ g.heldOf 0 ≠ []) ∧
    (let g := savedFor;
      g.Inv ∧ (g.launch 0).desc.cores = true ∧ (g.func 0).susp = false ∧ g.savedOf 0 = [0] ∧ g.heldOf 0 = [] ∧
      (match State.restoreAll ([0].zip [(0, 0)]) g with
        | some u => decide ((u.block 1).victim ≠ none ∧ (u.block 1).victimFor = (0, 0) ∧ (u.block 1).waves = [] ∧
            (u.launch (u.block 1).launch).desc.cores = false)
        | none => false) = true) ∧
    (let g := savedWaiting;
      g.Inv ∧ g.canRestore 0 0 3 = true ∧ g.loadsFree 0 = true ∧ (g.block 0).invalid = false ∧ 0 < g.waves.length ∧ 0 < (g.block 0).phases.length ∧
      (g.wave 0).block = 0 ∧ (g.wave 0).fuseDue = none ∧ ((g.wave 0).fragAt 0).wait = some (.bar 0 false true)) :=
  ⟨⟨inv_ok (by decide +kernel), by decide +kernel⟩, ⟨inv_ok (by decide +kernel), by decide +kernel⟩, ⟨inv_ok (by decide +kernel), by decide +kernel⟩,
    inv_ok (by decide +kernel), by decide +kernel⟩

/-! ### Witnesses: commands -/

/-- VF 0 asks for a page to be verified. -/
def verifying (page : Nat) (words : List (Nat × Byte)) (done : Bool) : State :=
  { (base.poke words).modFunc 0 fun g => { g with vfyBusy := true, vfyReq := page } with verified := if done then [⟨page, 0, []⟩] else [] }

/-- VF 0 asks for a report, with no page verified. -/
def attesting : State := { base.modFunc 0 fun g => { g with attBusy := true } with verified := [] }

theorem natBytes_length (x n : Nat) : (natBytes x n).length = n := by
  rw [natBytes, List.length_map]; exact length_leBytes 0 x n

theorem fixBytes_length (n : Nat) (l : List Byte) : (fixBytes n l).length = n := by simp [fixBytes]

/-- A report of no page has 176 bytes. -/
theorem report_length (g : State) (h1 : g.attested 0 = ([], false)) (h2 : (g.func 0).attn = [0, 0, 0, 0]) : (g.attestation 0).length = 176 := by
  simp only [State.attestation, State.reportBody, h1, h2, List.length_append, natBytes_length, fixBytes_length, List.flatMap_cons, List.flatMap_nil,
    List.length_nil]

/-- A key pair, and a machine where it has written one block. -/
def pairA : List Word64 := List.replicate 8 5

/-- Key slot 9 holds the pair; block 64 of memory stands under it, block 65 under another. -/
def keyed : State := { base with keys := base.keys.set 9 (some pairA), seals := [(64, pairA), (65, [1])] }

/-- VF 0 suspended or not, its block chosen for the suspension. -/
def departing (susp : Bool) : State :=
  (base.modFunc 0 fun g => { g with susp := susp, saveSize := 64 }).modBlock 0 fun b => { b with
    victim := some 0, victimFor := (0, 1), save := some (0, 8) }

/-- FunctionCommands: verifications asked for, and none taken in recovery; every answer of one, and one that a store on its way holds back; a release. -/
theorem witness_verifications :
    (base.Inv ∧ 0 < base.funcs.length ∧ (base.func 0).vfyBusy = false ∧ base.accepts = true ∧
      base.owns 0 (9 * 65536) 65536 = false ∧ base.owns 0 (3 * 65536) 65536 = true) ∧
    (let g := { base with recovery := true };
      g.Inv ∧ g.accepts = false ∧ g.presents 0 = false ∧ g.presents Config.pf = true) ∧
    ((verifying 9 [] false).Inv ∧ ((verifying 9 [] false).func 0).vfyBusy = true ∧ (verifying 9 [] false).owns 0 (9 * 65536) 65536 = false) ∧
    ((verifying 2 [] true).Inv ∧ (verifying 2 [] true).verifiedPage 2 = true ∧ (verifying 2 [] true).owns 0 (2 * 65536) 65536 = true) ∧
    (let g := verifying 0 (leBytes 0 0x04000000 4) false;
      g.Inv ∧ g.owns 0 0 65536 = true ∧ g.verifiedPage 0 = false ∧ g.pageQuiet 0 = true ∧
        (scanWords (g.pageWords 0 0) ⟨[], 0, none⟩ 0).isSome = true) ∧
    (let g := verifying 0 [] false;
      g.Inv ∧ g.owns 0 0 65536 = true ∧ g.verifiedPage 0 = false ∧ g.pageQuiet 0 = true) ∧
    (let g := { verifying 2 [] false with reqs := [request0] };
      g.Inv ∧ g.owns 0 (2 * 65536) 65536 = true ∧ g.verifiedPage 2 = false ∧ g.pageQuiet 2 = false) :=
  ⟨⟨inv_ok (by decide +kernel), by decide +kernel⟩, ⟨inv_ok (by decide +kernel), by decide +kernel⟩, ⟨inv_ok (by decide +kernel), by decide +kernel⟩,
    ⟨inv_ok (by decide +kernel), by decide +kernel⟩, ⟨inv_ok (by decide +kernel), by decide +kernel⟩, ⟨inv_ok (by decide +kernel), by decide +kernel⟩,
    inv_ok (by decide +kernel), by decide +kernel⟩

/-- FunctionCommands: key commands for a busy and a free key, and an erase of one under which a block stands. -/
theorem witness_keys : base.keyCmd = none ∧ base.recovery = false ∧ State.recovery { base with recovery := true } = true ∧
    (∀ k, k ≤ 1 → let g := { base with keyCmd := some (true, k) };
      g.Inv ∧ k < g.keys.length ∧ g.busyFunc k = decide (k = 0)) ∧
    (let g := { keyed with keyCmd := some (false, 9) };
      g.Inv ∧ 9 < g.keys.length ∧ g.busyFunc 9 = false ∧ g.keys.getD 9 none = some pairA ∧ sealOf g.seals (64 * 16 + 15) = some pairA ∧
      sealOf g.seals (65 * 16) ≠ some pairA) := by
  refine ⟨by decide +kernel, by decide +kernel, rfl, fun k hk => ?_, inv_ok (by decide +kernel), by decide +kernel⟩
  match k, hk with
  | 0, _ | 1, _ => exact ⟨inv_ok (by decide +kernel), by decide +kernel⟩

/-- FunctionCommands: an attestation, an invalidation, cores taken and free, and blocks of a function that is suspended or goes on. -/
theorem witness_function_commands : ((base.func 0).attBusy = false ∧ (base.func 0).invBusy = false ∧ (1 : Word64).getLsbD 0 = true) ∧
    (attesting.Inv ∧ (attesting.func 0).attBusy = true ∧ (attesting.func 0).attOut = [] ∧ attesting.owns 0 0 (attesting.attestation 0).length = true ∧
      attesting.meetsVerified 0 (attesting.attestation 0).length = false ∧ Claims.Still attesting ∧ Claims.Unregistered attesting) ∧
    (∀ k ∈ [2, 3], let g := { base.modFunc 0 fun g => { g with attBusy := true, attOut := [k] } with reqs := [request0] };
      g.Inv ∧ (g.func 0).attBusy = true ∧ (g.func 0).attOut ≠ [] ∧ (g.waiting [k] = true ↔ k = 3)) ∧
    (∀ b, let g := base.modFunc 0 fun g => { g with invBusy := true, invAll := b };
      g.Inv ∧ (g.func 0).invBusy = true) ∧
    ((base.modTower 1 fun t => { t with remote := [⟨0x20000, noWords, [⟨1, 7, 0, 0⟩], 0, 0, 0, 0, 0, .dflt, none, []⟩] }).Inv ∧
      (∀ w ∈ (base.modTower 1 fun t => { t with remote := [⟨0x20000, noWords, [⟨1, 7, 0, 0⟩], 0, 0, 0, 0, 0, .dflt, none, []⟩] }).towers,
        (w.remote.map fun x => x.line).Nodup)) ∧
    (base.coreTaken 1 0 1 = true ∧ base.coreTaken 1 0 2 = false ∧ (1 : Nat) ≠ Config.pf) ∧
    (let g := base.modFunc 0 fun g => { g with saveSize := 64 };
      g.Inv ∧ g.residentOf 0 = [0] ∧ (g.block 0).status = .resident ∧ (g.block 0).victim = none ∧ (g.saveSlot 0 0 (g.recordUnits 0)).isSome = true) ∧
    ∀ b, let g := departing b;
      g.Inv ∧ 0 ∈ g.residentOf 0 ∧ (g.block 0).status = .resident ∧ (g.block 0).victim ≠ none ∧ (g.block 0).victimFor = g.suspendMark 0 ∧
      (g.launch (g.block 0).launch).desc.cores = false := by
  refine ⟨by decide +kernel, ?_, fun k hk => ?_, fun b => ?_, ⟨inv_ok (by decide +kernel), by decide +kernel⟩, by decide +kernel,
    ⟨inv_ok (by decide +kernel), by decide +kernel⟩, fun b => ?_⟩
  · rw [report_length attesting (by decide +kernel) (by decide +kernel)]
    exact ⟨inv_ok (by decide +kernel), by decide +kernel, by decide +kernel, by decide +kernel, by decide +kernel, (still_ok (by decide +kernel)).1,
      (still_ok (by decide +kernel)).2⟩
  · simp only [List.mem_cons, List.not_mem_nil, or_false] at hk
    rcases hk with rfl | rfl <;> exact ⟨inv_ok (by decide +kernel), by decide +kernel⟩
  · cases b <;> exact ⟨inv_ok (by decide +kernel), by decide +kernel⟩
  · cases b <;> exact ⟨inv_ok (by decide +kernel), by decide +kernel⟩

/-- VF 0 asks for a sample in every core cycle. -/
def sampling : State := { base.modFunc 0 fun g => { g with samp := 1, sampBuf := 0 } with dies := base.dies.map fun d => { d with acc := 32 } }

/-- No other function has one due. -/
theorem sampling_alone (f : Nat) (h : f ≠ 0) : sampling.sampleDue 0 0 f = none := by
  have hb : ∀ f, f < sampling.funcs.length → f ≠ 0 → (sampling.func f).samp = 0 := by decide +kernel
  have h0 : (sampling.func f).samp = 0 := by
    rcases Nat.lt_or_ge f sampling.funcs.length with hl | hl
    · exact hb f hl h
    · rw [State.func, List.getD_eq_getElem?_getD, List.getElem?_eq_none hl]; rfl
  simp [State.sampleDue, h0]

/-- DeviceEvents: a partition to stop and one to resume; a stopped wave with nothing pending and with a write of the register pending; a
sampled wave; a tower whose second way a reset finds retired; a resident block of a live launch, read by a wave, by a result and by a wait; a way in use
on a tower with no way retired and with one; accesses from outside to plain and to verified memory; and a function that the device does not present. -/
theorem witness_device_events :
    (base.Inv ∧ base.accepts = true ∧ base.mayStop 0 0 = true ∧ (base.core 0).parts.length = 4 ∧ ((base.core 0).parts.getD 3 default).stopped = false) ∧
    (let g := (edit base fun w => { w with pending := [⟨.ready, [.s 5 7], 0, none, false, 0, 0⟩] }).modCore 0 fun c =>
        { c with parts := c.parts.modify 0 fun p => { p with stopped := true } };
      g.Inv ∧ 0 < g.waves.length ∧ g.stoppedWave (g.wave 0) = true ∧ g.funcOf (g.wave 0) = 0 ∧ ((g.core 0).parts.getD 0 default).stopped = true ∧
      (g.partWaves 0 0).Nodup ∧ g.partWaves 0 0 = [0] ∧ ((g.wave 0).pending[0]?).map (fun p => p.writes) = some [.s 5 7] ∧ RegWrite.s (5 : SReg).toNat 7 ∈ [RegWrite.s 5 7]) ∧
    (let g := base.modCore 0 fun c => { c with parts := c.parts.modify 0 fun p => { p with stopped := true } };
      g.Inv ∧ g.stoppedWave (g.wave 0) = true ∧ (g.wave 0).pending = [] ∧ ((g.wave 0).vregs.getD 7 []).length = (g.wave 0).width) ∧
    base.stoppedWave (base.wave 0) = false ∧
    (let g := sampling;
      g.Inv ∧ (∀ f, f ≠ 0 → g.sampleDue 0 0 f = none) ∧ 0 < g.funcs.length ∧ g.sampleDue 0 0 0 = some 0 ∧ g.owns 0 0 16 = true ∧
      (∀ k, k < 16 → g.verifiedPage ((0 + k) / 65536) = false ∧ g.pinned [0 + k] = false) ∧ g.pair Config.pf = none) ∧
    (let g := base.modTower 3 fun t => { t with retiredWays := [7] };
      g.Inv ∧ 3 < g.towers.length ∧ (7 ∈ (g.tower 3).retiredWays ∧ (3, 8) ∈ [(3, 8)] ∧ 8 < 25) ∧
      (match exec (.deviceReset ⟨true, [], 0, [(3, 8)]⟩) g with
        | .next t => decide ((t.tower 3).homeWays.length < 24)
        | _ => false) = true) ∧
    0 < base.blocks.length ∧ (base.block 0).holds = true ∧ (base.launch 0).live = true ∧
    (let g := edit base fun w => { w with pending := [⟨.ready, [.s 5 7], 0, none, false, 0, 0⟩] };
      g.Inv ∧ (g.block 0).holds = true ∧ (g.launch (g.block 0).launch).live = true ∧ ((g.wave 0).pending[0]?).isSome = true) ∧
    (base.tower 3).retiredWays = [] ∧
    (let g := base.modTower 3 fun t => { t with retiredWays := [7], home := [⟨0x20100, 24, 5, .dflt, 0⟩, ⟨0x20180, 23, 9, .dflt, 0⟩] };
      g.Inv ∧ 24 ∉ (g.tower 3).retiredWays ∧ ((g.tower 3).home.map fun h => h.line).Nodup) ∧
    Claims.Reachable base 0 0 64 ∧ base.meetsVerified 0 64 = false ∧ Claims.Reachable base 0 0x30000 4 ∧ base.meetsVerified 0x30000 4 = true ∧
    State.presents { base with recovery := true } 0 = false ∧ State.accepts { base with recovery := true } = false := by
  refine ⟨⟨inv_ok (by decide +kernel), by decide +kernel⟩, ⟨inv_ok (by decide +kernel), by decide +kernel⟩,
    ⟨inv_ok (by decide +kernel), by decide +kernel⟩, by decide +kernel, ⟨inv_ok (by decide +kernel), sampling_alone, by decide +kernel⟩,
    ⟨inv_ok (by decide +kernel), by decide +kernel⟩, by decide +kernel, by decide +kernel, by decide +kernel,
    ⟨inv_ok (by decide +kernel), by decide +kernel⟩, by decide +kernel, ⟨inv_ok (by decide +kernel), by decide +kernel⟩, ?_, by decide +kernel, ?_,
    by decide +kernel⟩ <;>
  exact ⟨by decide +kernel, by decide +kernel, by decide +kernel, by decide +kernel, (still_ok (by decide +kernel)).1, (still_ok (by decide +kernel)).2⟩

/-! ### Witnesses: the machine as a whole -/

/-- DecodeEncode: an instruction with every operand at its largest value. -/
theorem witness_decode_encode : (Instr.rank true 120 .n8 .f16 63 63 true true).wf = false ∧ (Instr.rank true 120 .n8 .f16 62 63 true true).wf = true ∧
    (encode (Instr.rank true 120 .n8 .f16 62 63 true true)).isSome = true := by decide +kernel

/-- A wave that holds back every access until its stores before a request are performed, and whose request 0 is on its way; its word is given. -/
def ordered (req : Nat) (i : Instr) : State :=
  { (edit base fun w => { w with
      ibuf := (encode i).map fun x => (w.pc, x)
      holds := [⟨0, req, 0, 0x40, 0x1FF, .dv, false, false, none⟩] }) with reqs := [{ request0 with id := 0 }] }

/-- StepRuns: a wait that is met; an order that is done; an event of the agenda. -/
theorem witness_step_first : (awaiting (.waita .eq 0 .scratch 0 0 32)).metWait.isSome = true ∧
    ((ordered 0 (.nop false)).metWait = none ∧ (ordered 0 (.nop false)).dueHold = some 0) ∧
    (let g := { base with agenda := [(0, .clockExchange)] };
      g.metWait = none ∧ g.dueHold = none ∧ g.agenda = (0, .clockExchange) :: []) := by decide +kernel

/-- StepRuns: the word at the wave's PC is chosen, and runs or is held; a timed event; an event due on its turn; and time that passes. -/
theorem witness_step :
    (base.metWait = none ∧ base.dueHold = none ∧ base.agenda = [] ∧ base.turn % 2 = 0 ∧ (base.chooseIssue).map (fun c => c.wave) = some 0 ∧
      ((base.wave 0).wordAt.map fun b => (decodeBytes b).toOption) = some (some (Instr.nop false, [])) ∧
      base.holdsWord (base.wave 0) (.nop false) = false) ∧
    (let g := ordered 1 (.st false 1 4 0 .b32 .dflt);
      g.metWait = none ∧ g.dueHold = none ∧ (g.chooseIssue).map (fun c => c.wave) = some 0 ∧
      ((g.wave 0).wordAt.map fun b => (decodeBytes b).toOption) = some (some (.st false 1 4 0 .b32 .dflt, [])) ∧
      g.holdsWord (g.wave 0) (.st false 1 4 0 .b32 .dflt) = true) ∧
    (let g := { edit base fun w => { w with pending := [⟨.timed 0, [.s 5 7], 9, none, false, 0, 0⟩] } with turn := 1 };
      g.metWait = none ∧ g.dueHold = none ∧ g.timed.isSome = true) ∧
    (let g := { edit base fun w => { w with pending := [⟨.ready, [.s 5 7], 9, none, false, 0, 0⟩] } with turn := 1 };
      g.agenda = [] ∧ g.turn % 2 = 1 ∧ g.timed = none ∧ g.due.isSome = true) ∧
    (let g := { base with waves := [], blocks := [] };
      g.Inv ∧ g.timed = none ∧ g.turn % 2 = 0) ∧
    (base.wave 0).ibuf = some ((base.wave 0).pc, 0) :=
  ⟨by decide +kernel, by decide +kernel, by decide +kernel, by decide +kernel, ⟨inv_ok (by decide +kernel), by decide +kernel⟩, by decide +kernel⟩

/-- StepKeepsInv: a state with the invariant that has a next one. -/
theorem witness_step_inv : base.Inv ∧ (match step base with | .next t => okState t | _ => false) = true := ⟨base_issues.inv, by decide +kernel⟩

/-- MemoryLaws: a memory in its canonical form, and one that is not. -/
theorem witness_memory : Memory.wf base.mem ∧ ¬ Memory.wf ([⟨3, 1⟩, ⟨2, 1⟩] : List Host.Cell) ∧ ¬ Memory.wf ([⟨3, 0⟩] : List Host.Cell) := by
  decide +kernel

/-- StampOrder: the largest count and tower. -/
theorem witness_stamps : (2 ^ 62 - 1 < 2 ^ 62 ∧ 3 < 4) ∧ stampOf (2 ^ 62 - 1) 3 = -1 ∧ peerOf 0x30000 = 0 := by decide +kernel

/-! ### Single steps with the values of the spec's examples -/

/-- The state after an instruction. -/
def after (i : Instr) (s : State) : Option State :=
  match exec i s with
  | .next t => some t
  | _ => none

/-- Something of the state after an instruction. -/
def sees {α : Type} [DecidableEq α] (i : Instr) (s : State) (f : State → α) (x : α) : Bool :=
  match exec i s with
  | .next t => f t == x
  | _ => false

/-- "Worked example" of 02: the split at 0x14 on lanes 0 to 4. -/
def atSplit : State := edit base fun w => { w with mregs := 0xFFFF :: 0x1F :: List.replicate 6 0, pc := 0x30014 }

/-- Step 1 of the worked example: entry 1 is current with EXEC 0x1F, entry 0 is the parent, and entry 2 lives. -/
theorem test_split : sees (.split 1 4) atSplit (fun t => ((cw t).cur, (cw t).exec, (cw t).pc, ((cw t).fragAt 0).state, ((cw t).fragAt 2).state))
    (1, 0x1F, 0x30018, .parent, .live) = true := by decide +kernel

/-- Step 1, of the entries that are not current: the parent's PC is that of the JOIN, 0x28, and lanes 5 to 15 start at 0x1C. -/
theorem test_split_entries : sees (.split 1 4) atSplit (fun t => (((cw t).fragAt 0).pc, ((cw t).fragAt 2).pc, ((cw t).fragAt 2).mask))
    (0x30028, 0x3001C, 0xFFE0) = true := by decide +kernel

/-- The values of "For example" of R140 in a 32-lane wave. -/
def packing : State := edit (widened 32) fun w => { w with vregs := w.vregs.set 1 (0x40400000 :: 0xBF300000 :: 0x3E400000 :: List.replicate 29 0) }

/-- R140's example in E2M1: code word 0x01B7 in lane 0 and scale byte 0x5F in lane 4. -/
theorem test_vpack4_e2m1 : sees (.vpack4 false 2 1 .e2m1) packing (fun t => ((cw t).vn 2 0, (cw t).vn 2 4)) (0x1B7, 0x5F) = true := by decide +kernel

/-- R140's example in POW2. -/
theorem test_vpack4_pow2 : sees (.vpack4 false 2 1 .pow2) packing (fun t => ((cw t).vn 2 0, (cw t).vn 2 4)) (0x2C6, 0xA2) = true := by decide +kernel

/-- The example of VUNPK4: the E2M1 block decodes to 3.0, -0.75 and 0.25. -/
theorem test_vunpk4 : sees (.vunpk4 false 2 1 .uni)
    (edit (widened 32) fun w => { w with vregs := w.vregs.set 1 (0x1B7 :: 0 :: 0 :: 0 :: 0x5F :: List.replicate 27 0) })
    (fun t => ((cw t).vn 2 0, (cw t).vn 2 1, (cw t).vn 2 2, (cw t).vn 2 3)) (0x40400000, 0xBF400000, 0x3E800000, 0) = true := by decide +kernel

/-- R144's example: lane 0 with state 1 draws 0x00042021, which is below 2^29, so 1 + 2^-10 rounds to 0x3F81 in BF16. -/
theorem test_stochastic : sees (.vcvt false 2 1 .bf16 .f32 .dyn false)
    (edit base fun w => { w with vregs := w.vregs.set 1 (List.replicate 16 0x3F802000), srState := List.replicate 16 1, rndMode := 5 })
    (fun t => ((cw t).vn 2 0, (cw t).srState.getD 0 0)) (0x3F81, 0x42021) = true := by decide +kernel

/-- The example after R156: 2^24, 1, 1 and -2^24 sum to 2.0 in BF16, where a group of four is exact. -/
theorem test_mma_bf16 : accumulate .f32 4 (fun k => Fmt.bf16.decode ([0x4B80, 0x3F80, 0x3F80, 0xCB80].getD k 0)) (fun _ => Fmt.bf16.decode 0x3F80) 0 1 0 =
    0x40000000 := by decide +kernel

/-- The same in F32, one product at a time: 0.0. -/
theorem test_mma_f32 : accumulate .f32 1 (fun k => Fmt.f32.decode ([0x4B800000, 0x3F800000, 0x3F800000, 0xCB800000].getD k 0))
    (fun _ => Fmt.f32.decode 0x3F800000) 0 4 0 = 0 := by decide +kernel

/-- VSQRT's examples: 2.0 in RNE and, with a HINT.RND, toward +infinity. -/
def root2 (h : Option RMode) : State :=
  edit base fun w => { w with vregs := w.vregs.set 1 (List.replicate 16 0x40000000), hints := { w.hints with rnd := h } }

/-- The value of lane 0 in the one result that is outstanding. -/
def dueLane (t : State) : Option Word :=
  match (cw t).pending with
  | [p] => match p.writes with
    | [.v _ _ xs] => xs[0]?
    | _ => none
  | _ => none

/-- Two values of VSQRT.F32 of 2.0: 0x3FB504F3 and 0x3FB504F4. -/
theorem test_vsqrt : (sees (.vsqrt false 2 1 .f32) (root2 none) dueLane (some 0x3FB504F3) &&
    sees (.vsqrt false 2 1 .f32) (root2 (some .rup)) dueLane (some 0x3FB504F4)) = true := by decide +kernel

/-- The market of R67's example: six requests and a seventh in a serpentine market of 3 by 2. -/
def marketAt (k : Nat) : State :=
  base.modLaunch 0 fun l => { l with takes := [⟨0, 8, 0⟩], nextTile := k, desc := { l.desc with morder := 2, mkx := 3, mky := 2 } }

/-- The two words of an answer. -/
def answers (k : Nat) (x y : Word) : Bool :=
  sees (.marketAnswer 0) (marketAt k) (fun t => (Claims.wordOf (t.block 0).scratch.get 8, Claims.wordOf (t.block 0).scratch.get 12)) (x, y)

/-- The fourth, the sixth and the seventh answer. -/
theorem test_market : (answers 3 0x10002 4 && answers 5 0x10000 6 && answers 6 0xFFFFFFFF 7) = true := by decide +kernel

/-- The SWEEP example of 03: block 4 has the predecessors 3 and 1. -/
def sweeping (board : List Nat) : Launch :=
  { Loaded.launch with
    board := board
    desc := { Loaded.desc with sweep := true, ndep := 2, gridX := 3, gridY := 2, depv := depVectors 0x01F0001F 2 } }

/-- The board after block 3 holds block 4 back, and after block 1 releases it. -/
theorem test_sweep : ((sweeping [0, 3]).predecessorsSet 4, (sweeping [0, 3, 1]).predecessorsSet 4, (sweeping [0, 3]).predecessorsSet 1) =
    (false, true, true) := by decide +kernel

/-- The value of a lane of a register after a step. -/
def lane (s : State) (r l : Nat) : Option Word :=
  match step s with
  | .next t => some ((t.wave 0).vn r l)
  | _ => none

/-- "Worked example" of 02: 0x26080705 is `vli v2, 5`, and 0x3A040006 is `vlane v1`, fetched and run from reset. -/
theorem test_step : (lane (State.reset.withFetchWord 32 0x26080705) 2 15, lane (State.reset.withFetchWord 32 0x3A040006) 1 15) = (some 5, some 15) := by
  decide +kernel

end Sys2Proof.Tests
end

section
/-! SUPPORT. The step (R12, R72, R73): what `decode` gives is well-formed, what the issue choice gives is ready, which plan a step follows, and what
putting a wave on the issue port leaves alone. -/

namespace Sys2Proof

/-- The checks of R102 answer the word's own instruction, and it is well-formed. -/
theorem checkWord_eq_ok {w : Word} {i j : Instr} (h : checkWord w i = .ok j) : i = j ∧ i.wf = true := by
  unfold checkWord at h
  split at h
  · cases h
  · next codes =>
    split at h
    · cases h
    · next fields =>
      split at h
      · cases h
      · next align =>
        split at h
        · cases h
        · cases h
          refine ⟨rfl, ?_⟩
          simp only [not_or, Bool.not_eq_false] at codes fields align
          simp [Instr.wf, codes.2, fields.2.1, align]

/-- A word decodes to well-formed instructions only (R102). -/
theorem wf_of_decode {w : Word} {i : Instr} (h : decode w = .ok i) : i.wf = true := by
  unfold decode at h
  split at h
  · cases h
  · obtain ⟨rfl, hwf⟩ := checkWord_eq_ok h
    exact hwf

theorem wf_of_decodeBytes {bs rest : List Byte} {i : Instr} (h : decodeBytes bs = .ok (i, rest)) : i.wf = true := by
  unfold decodeBytes at h
  split at h
  · split at h
    · next hd =>
      cases h
      exact wf_of_decode hd
    · cases h
  · cases h

end Sys2Proof

namespace Sys2Proof.Machine

/-! ### The issue choice (R72, R73) -/

/-- A candidate is ready, and its word is the one fetched at its PC (R72). -/
theorem State.of_mem_cands {s : State} {c : Cand} (h : c ∈ s.cands) :
    s.ready (s.wave c.wave) = true ∧ (s.wave c.wave).nextWord = some c.next := by
  obtain ⟨i, _, hi⟩ := List.mem_filterMap.mp h
  dsimp only at hi
  split at hi
  · next hr =>
    obtain ⟨n, hn, rfl⟩ := Option.map_eq_some_iff.mp hi
    exact ⟨hr, hn⟩
  · cases hi

/-- The wave on the issue port is one of the candidates (R73). -/
theorem State.mem_cands_of_chooseIssue {s : State} {c : Cand} (h : s.chooseIssue = some c) : c ∈ s.cands := by
  unfold State.chooseIssue at h
  dsimp only at h
  split at h
  · cases h
  · exact (List.mem_filter.mp (List.mem_of_find?_eq_some h)).1

/-- A wave whose fetched bytes decode has the instruction as its next word. -/
theorem Wave.nextWord_of_decode {w : Wave} {bs rest : List Byte} {i : Instr} (hb : w.wordAt = some bs) (hd : decodeBytes bs = .ok (i, rest)) :
    w.nextWord = some (.word i) := by
  simp [Wave.nextWord, hb, hd]

/-- The word that waits at the wave's PC, byte by byte (R4, R72). -/
theorem Wave.wordAt_of_ibuf {w : Wave} {x : Word} (h : w.ibuf = some (w.pc, x)) :
    w.wordAt = some [x.setWidth 8, (x >>> 8).setWidth 8, (x >>> 16).setWidth 8, (x >>> 24).setWidth 8] := by
  simp [Wave.wordAt, Wave.fetched, h]

/-- The plan of an issue turn for a wave whose word decodes. -/
theorem State.planIssue_of_next {s : State} {c : Cand} {i : Instr} (hc : s.chooseIssue = some c) (hn : c.next = .word i) :
    s.planIssue = some (if s.holdsWord (s.wave c.wave) i then .pass ((s.onPort c.wave).holdWord c.wave)
      else .word c.wave i (s.onPort c.wave)) := by
  simp [State.planIssue, hc, hn]

theorem State.planIssue_of_none {s : State} (hc : s.chooseIssue = none) : s.planIssue = none := by
  simp [State.planIssue, hc]

/-! ### The plan of a step (log 2, log 5) -/

theorem State.plan_of_metWait {s : State} {i : Instr} (h : s.metWait = some i) : s.plan = .event i s.nextTurn := by
  simp [State.plan, h]

theorem State.plan_of_dueHold {s : State} {wi : Nat} (hw : s.metWait = none) (h : s.dueHold = some wi) :
    s.plan = .pass (s.settleHolds wi) := by
  simp [State.plan, hw, h]

section
variable {s : State} (hw : s.metWait = none) (hh : s.dueHold = none)
include hw hh

theorem State.plan_of_agenda {i : Instr} {r : List (Nat × Instr)} (ha : s.agenda = (0, i) :: r) :
    s.plan = .event i { s with agenda := r } := by
  simp [State.plan, hw, hh, ha]

/-- Where nothing comes before words, they and the device's own events have their turns. -/
theorem State.plan_of_turn (ha : ∀ i r, s.agenda ≠ (0, i) :: r) :
    s.plan = if s.turn % 2 = 0 then s.planIssue.getD s.planTime else (s.planEvent <|> s.planIssue).getD s.planTime := by
  unfold State.plan
  rw [hw, hh]
  dsimp only
  split
  · next i r h => exact absurd h (ha i r)
  · rfl

/-- In its turn, or where no event is due, a step follows the issue choice. -/
theorem State.plan_of_issue (ha : ∀ i r, s.agenda ≠ (0, i) :: r) (ht : s.turn % 2 = 0 ∨ (s.timed = none ∧ s.due = none)) {p : Plan}
    (hp : s.planIssue = some p) : s.plan = p := by
  rw [State.plan_of_turn hw hh ha]
  rcases ht with ht | ⟨h1, h2⟩
  · simp [ht, hp]
  · simp [State.planEvent, h1, h2, hp]

/-- A timed event runs in its turn, and where no word can issue. -/
theorem State.plan_of_timed (ha : ∀ i r, s.agenda ≠ (0, i) :: r) {i : Instr} (hi : s.timed = some i)
    (ht : s.turn % 2 = 1 ∨ s.chooseIssue = none) : s.plan = .event i s.nextTurn := by
  rw [State.plan_of_turn hw hh ha]
  split
  · next he =>
    have hc : s.chooseIssue = none := ht.resolve_left (by omega)
    simp [State.planIssue_of_none hc, State.planTime, hi]
  · simp [State.planEvent, hi]

theorem State.plan_of_due (ha : ∀ i r, s.agenda ≠ (0, i) :: r) {i : Instr} (hn : s.timed = none) (hi : s.due = some i)
    (ht : s.turn % 2 = 1) : s.plan = .event i s.nextTurn := by
  rw [State.plan_of_turn hw hh ha, if_neg (by omega)]
  simp [State.planEvent, hn, hi]

/-- Time passes where nothing is due and no word can issue. -/
theorem State.plan_of_idle (ha : ∀ i r, s.agenda ≠ (0, i) :: r) (hn : s.timed = none) (hc : s.chooseIssue = none)
    (ht : s.turn % 2 = 0 ∨ s.due = none) : s.plan = .pass s.nextTurn.advance := by
  rw [State.plan_of_turn hw hh ha]
  split
  · simp [State.planIssue_of_none hc, State.planTime, hn]
  · next he =>
    have hd : s.due = none := ht.resolve_left he
    simp [State.planEvent, State.planIssue_of_none hc, State.planTime, hn, hd]

end

/-! ### The step by its plan -/

theorem step_of_event {s t : State} {i : Instr} (h : s.plan = .event i t) : step s = exec i t := by
  unfold step; rw [h]

theorem step_of_pass {s t : State} (h : s.plan = .pass t) : step s = .next t := by
  unfold step; rw [h]

/-- A word's step is its meaning with what follows every word added; one that stops the machine stops the step. -/
theorem step_of_word {s t : State} {wi : Nat} {i : Instr} (h : s.plan = .word wi i t) :
    (∀ u, exec i t = .next u → step s = .next (u.afterWord t wi i)) ∧ (∀ r, exec i t = .fault r → step s = .fault r) ∧
    ∀ r, exec i t = .refused r → step s = .refused r := by
  unfold step
  rw [h]
  refine ⟨fun u hu => ?_, fun r hr => ?_, fun r hr => ?_⟩
  · dsimp only; rw [hu]
  · dsimp only; rw [hr]
  · dsimp only; rw [hr]

/-! ### A wave on the issue port (R377) -/

/-- A wave without the counts of its partition's issue choice (R73, R376). -/
def Wave.uncounted (w : Wave) : Wave := { w with waitCount := 0, skipCycle := false }

/-- The waves but for those counts, and the cores, are all that has changed. -/
def State.CountsOnly (s t : State) : Prop :=
  ∃ ws cs, t = { s with waves := ws, cores := cs } ∧ ws.map Wave.uncounted = s.waves.map Wave.uncounted

theorem State.CountsOnly.refl (s : State) : s.CountsOnly s := ⟨s.waves, s.cores, rfl, rfl⟩

theorem State.CountsOnly.trans {s t u : State} (h : s.CountsOnly t) (k : t.CountsOnly u) : s.CountsOnly u := by
  obtain ⟨ws, cs, rfl, hs⟩ := h
  obtain ⟨vs, ds, rfl, ht⟩ := k
  exact ⟨vs, ds, rfl, ht.trans hs⟩

theorem State.CountsOnly.modCore (s : State) (i : Nat) (f : Core → Core) : s.CountsOnly (s.modCore i f) := ⟨_, _, rfl, rfl⟩

theorem State.CountsOnly.length {s t : State} (h : s.CountsOnly t) : t.waves.length = s.waves.length := by
  obtain ⟨ws, cs, rfl, hs⟩ := h
  simpa using congrArg List.length hs

theorem State.CountsOnly.wave {s t : State} (h : s.CountsOnly t) (k : Nat) : (t.wave k).uncounted = (s.wave k).uncounted := by
  obtain ⟨ws, cs, rfl, hs⟩ := h
  have hk := congrArg (fun l : List Wave => l.getD k (Wave.uncounted default)) hs
  simp only [List.getD_eq_getElem?_getD, List.getElem?_map, Option.getD_map] at hk
  simpa only [State.wave, List.getD_eq_getElem?_getD] using hk

/-- The list of the waves by number. -/
theorem State.map_wave_range (s : State) : (List.range s.waves.length).map s.wave = s.waves := by
  apply List.ext_getElem
  · simp
  · intro n h _
    have hn : n < s.waves.length := by simpa using h
    simp [State.wave, List.getD_eq_getElem?_getD, hn]

theorem State.CountsOnly.countWaits (s : State) (core part : Nat) (cs : List Cand) (issued : Option Nat) :
    s.CountsOnly (s.countWaits core part cs issued) := by
  refine ⟨_, s.cores, rfl, ?_⟩
  refine Eq.trans ?_ (congrArg (List.map Wave.uncounted) (State.map_wave_range s))
  simp only [List.map_map]
  refine List.map_congr_left fun i _ => ?_
  simp only [Function.comp]
  split <;> rfl

theorem State.CountsOnly.histTurn (s : State) (core part n : Nat) : s.CountsOnly (s.histTurn core part n) := by
  unfold State.histTurn
  split
  · exact .refl s
  · exact .modCore ..

theorem State.CountsOnly.endTurn (s : State) (core part : Nat) (cs : List Cand) (issued : Option Nat) :
    s.CountsOnly (s.endTurn core part cs issued) := by
  unfold State.endTurn
  dsimp only
  split
  · exact .modCore ..
  · exact (CountsOnly.countWaits ..).trans (.modCore ..)

/-- A partition that issues nothing changes its counts alone (R73, R287). -/
theorem State.CountsOnly.idleTurn (s : State) (core part : Nat) : s.CountsOnly (s.idleTurn core part) :=
  (CountsOnly.histTurn ..).trans (.endTurn ..)

theorem State.CountsOnly.idleTurns (s : State) (ks : List Nat) : s.CountsOnly (s.idleTurns ks) := by
  unfold State.idleTurns
  induction ks generalizing s with
  | nil => exact .refl s
  | cons k r ih =>
    refine CountsOnly.trans ?_ (ih _)
    dsimp only
    split
    · exact .idleTurn ..
    · exact .refl s

/-- Putting a wave on the issue port changes the counts of the partitions before its own, and of it its stall alone (R73, R377). -/
theorem State.onPort_frame (s : State) (i : Nat) : let t := s.onPort i
    t.issuing = i ∧ t.mem = s.mem ∧ t.tick = s.tick ∧ t.blocks = s.blocks ∧ t.launches = s.launches ∧ t.waves.length = s.waves.length ∧
    ∀ k, (t.wave k).regs.uncounted = (s.wave k).regs.uncounted := by
  have h := CountsOnly.idleTurns s ((List.range (s.wave i).part).map fun q => 4 * s.coreOf (s.wave i) + q)
  generalize hu : s.idleTurns ((List.range (s.wave i).part).map fun q => 4 * s.coreOf (s.wave i) + q) = u at h
  have hp : s.onPort i = { u.modWave i fun w => { w with stall := .none } with turn := u.turn + 1, issuing := i } := by
    rw [← hu]; rfl
  have hwave : ∀ k, ((s.onPort i).wave k).regs.uncounted = (s.wave k).regs.uncounted := fun k => by
    have hk : ((s.onPort i).wave k).regs = (u.wave k).regs := by
      rw [hp]
      change ((u.modWave i fun w => { w with stall := .none }).wave k).regs = _
      rw [State.wave_modWave]
      split <;> rfl
    rw [hk]
    exact congrArg Wave.regs (h.wave k)
  have hlen := h.length
  obtain ⟨ws, cs, rfl, -⟩ := h
  refine ⟨by rw [hp], by rw [hp]; rfl, by rw [hp]; rfl, by rw [hp]; rfl, by rw [hp]; rfl, ?_, hwave⟩
  rw [hp]
  simpa [State.modWave] using hlen

end Sys2Proof.Machine

open Sys2Proof Sys2Proof.Machine

/-- Settles O55, by the plan that a step follows in each case: the issue choice is ready and its word is the one its bytes decode to, and a partition
that issues nothing changes its own counts alone. -/
theorem stepRuns : Obligations.StepRuns := by
  unfold Obligations.StepRuns
  refine ⟨fun s i h => step_of_event (State.plan_of_metWait h), fun s wi hw h => step_of_pass (State.plan_of_dueHold hw h),
    fun s hw hh => ⟨fun i r ha => step_of_event (State.plan_of_agenda hw hh ha), fun ha => ⟨?_, ?_, ?_, ?_⟩⟩, fun s i _ => State.onPort_frame s i,
    fun w x h => Wave.wordAt_of_ibuf h⟩
  · intro c bs rest i ht hc hb hd
    obtain ⟨hready, hnext⟩ := State.of_mem_cands (State.mem_cands_of_chooseIssue hc)
    have hn : c.next = .word i := Option.some.inj (hnext.symm.trans (Wave.nextWord_of_decode hb hd))
    have hplan := State.plan_of_issue hw hh ha ht (State.planIssue_of_next hc hn)
    refine ⟨hready, wf_of_decodeBytes hd, fun hold => ?_, fun hold => ?_⟩
    · rw [if_pos hold] at hplan
      exact step_of_pass hplan
    · rw [hold] at hplan
      exact step_of_word hplan
  · exact fun i hi ht => step_of_event (State.plan_of_timed hw hh ha hi ht)
  · exact fun i hn hi ht => step_of_event (State.plan_of_due hw hh ha hn hi ht)
  · exact fun hn hc ht => step_of_pass (State.plan_of_idle hw hh ha hn hc ht)
end

section
/-! SUPPORT. Memory (R4, R163): the canonical form determines the bytes, a list of writes is read back, and what a write through a key gives to a
read through it and leaves to reads of other blocks. -/

namespace Sys2Proof.Machine

/-! ### The canonical form -/

/-- The listed bytes of memory in canonical form are those that do not read 0. -/
theorem Memory.mem_iff_read {m : List Host.Cell} (h : Memory.wf m) (a : Nat) (b : Byte) : (a, b) ∈ m ↔ b ≠ 0 ∧ Memory.read m a = b := by
  obtain ⟨rising, nonzero⟩ := h
  induction m with
  | nil =>
    simp only [List.not_mem_nil, false_iff, not_and]
    exact fun hb he => hb he.symm
  | cons c r ih =>
    obtain ⟨k, v⟩ := c
    obtain ⟨above, rising⟩ := List.pairwise_cons.mp rising
    have ih := ih rising fun c hc => nonzero c (List.mem_cons_of_mem _ hc)
    have hv : v ≠ 0 := nonzero (k, v) List.mem_cons_self
    rw [List.mem_cons]
    by_cases hk : k = a
    · subst hk
      have hr : (k, b) ∉ r := fun hm => Nat.lt_irrefl k (above (k, b) hm)
      have hread : Memory.read ((k, v) :: r) k = v := by simp [Memory.read, Cells.get]
      simp only [hread, hr, or_false, Prod.mk.injEq, true_and]
      exact ⟨fun e => ⟨e ▸ hv, e.symm⟩, fun e => e.2.symm⟩
    · have hread : Memory.read ((k, v) :: r) a = Memory.read r a := by simp [Memory.read, Cells.get, hk]
      simp [hread, ih, Ne.symm hk]

/-- Two memories in canonical form that read alike are equal. -/
theorem Memory.ext_read {m n : List Host.Cell} (hm : Memory.wf m) (hn : Memory.wf n) (h : ∀ a, Memory.read m a = Memory.read n a) : m = n := by
  have nodup : ∀ {l : List Host.Cell}, Memory.wf l → l.Nodup := fun hl => hl.1.imp fun {x y} hlt (he : x = y) => by simp [he] at hlt
  have perm : m.Perm n := (List.perm_ext_iff_of_nodup (nodup hm) (nodup hn)).mpr fun c => by
    rw [Memory.mem_iff_read hm c.1 c.2, Memory.mem_iff_read hn c.1 c.2, h]
  exact perm.eq_of_pairwise (fun x y _ _ hxy hyx => absurd hxy (Nat.lt_asymm hyx)) hm.1 hn.1

/-! ### A list of writes to distinct addresses -/

theorem Memory.read_writeAll_of_mem (m : List Host.Cell) {bs : List (Nat × Byte)} (hn : (bs.map fun b => b.1).Nodup) {b : Nat × Byte}
    (hb : b ∈ bs) : Memory.read (Memory.writeAll m bs) b.1 = b.2 := by
  induction bs generalizing m with
  | nil => cases hb
  | cons c r ih =>
    obtain ⟨hc, hr⟩ := List.nodup_cons.mp hn
    change Memory.read (Memory.writeAll (Memory.write m c.1 c.2) r) b.1 = b.2
    rcases List.mem_cons.mp hb with rfl | hb
    · rw [Memory.read_writeAll_of_not_mem _ fun x hx he => hc (List.mem_map.mpr ⟨x, hx, he⟩), Memory.read_write, if_pos rfl]
    · exact ih _ hr hb

/-- Writes that agree with a byte space leave its bytes where they fall. -/
theorem Memory.read_writeAll_of_fun (m : List Host.Cell) {bs : List (Nat × Byte)} (g : Nat → Byte) (h : ∀ b ∈ bs, b.2 = g b.1) (x : Nat) :
    Memory.read (Memory.writeAll m bs) x = if x ∈ bs.map (fun b => b.1) then g x else Memory.read m x := by
  by_cases hx : x ∈ bs.map (fun b => b.1)
  · obtain ⟨b, hb, rfl⟩ := List.mem_map.mp hx
    rw [if_pos hx, Memory.read_writeAll]
    cases hf : bs.reverse.find? fun c => c.1 == b.1 with
    | none =>
      have := List.find?_eq_none.mp hf b (List.mem_reverse.mpr hb)
      simp at this
    | some c =>
      have hc : c.1 = b.1 := by simpa using List.find?_some hf
      simp [h c (List.mem_reverse.mp (List.mem_of_find?_eq_some hf)), hc]
  · rw [if_neg hx]
    exact Memory.read_writeAll_of_not_mem m fun b hb he => hx (List.mem_map.mpr ⟨b, hb, he⟩)

theorem State.peek_poke_of_mem (s : State) {bs : List (Nat × Byte)} (hn : (bs.map fun b => b.1).Nodup) {b : Nat × Byte} (hb : b ∈ bs) :
    (s.poke bs).peek b.1 = b.2 := Memory.read_writeAll_of_mem _ hn hb

/-- Writes that miss a block leave its bytes. -/
theorem State.peek_poke_of_block (s : State) {bs : List (Nat × Byte)} {a : Nat} (h : ∀ b ∈ bs, b.1 / 16 ≠ a / 16) : (s.poke bs).peek a = s.peek a :=
  State.peek_poke_of_not_mem s fun b hb he => h b hb (he ▸ rfl)

/-! ### Little-endian values (R4) -/

theorem leBytes_addresses (a x n : Nat) : (leBytes a x n).map (fun b => b.1) = List.range' a n := by
  induction n generalizing a x with
  | zero => rfl
  | succ n ih => simp [leBytes, ih, List.range'_succ]

theorem placeBytes_addresses (a : Nat) (bs : List Byte) : (placeBytes a bs).map (fun b => b.1) = List.range' a bs.length := by
  induction bs generalizing a with
  | nil => rfl
  | cons b r ih => simp [placeBytes, ih, List.range'_succ]

/-- A value is read from memory that holds its bytes. -/
theorem leNat_of_leBytes {f : Nat → Byte} {a x n : Nat} (h : ∀ b ∈ leBytes a x n, f b.1 = b.2) : leNat f a n = x % 256 ^ n := by
  induction n generalizing a x with
  | zero => simp [leNat, Nat.mod_one]
  | succ n ih =>
    have head : f a = BitVec.ofNat 8 x := h (a, BitVec.ofNat 8 x) List.mem_cons_self
    have tail : leNat f (a + 1) n = x / 256 % 256 ^ n := ih fun b hb => h b (List.mem_cons_of_mem _ hb)
    have split : x % 256 ^ (n + 1) = x % 256 + 256 * (x / 256 % 256 ^ n) := by
      rw [show 256 ^ (n + 1) = 256 * 256 ^ n from Nat.pow_succ', Nat.mod_mul]
    rw [leNat, head, tail, BitVec.toNat_ofNat, split]

theorem leNat_poke_leBytes (s : State) (a x n : Nat) : leNat (s.poke (leBytes a x n)).peek a n = x % 256 ^ n :=
  leNat_of_leBytes fun _ hb => State.peek_poke_of_mem s (by rw [leBytes_addresses]; exact List.nodup_range') hb

/-! ### Reads through a key (R163, R278) -/

theorem mem_distinct {x : Nat} {l : List Nat} : x ∈ distinct l ↔ x ∈ l := by
  induction l with
  | nil => rfl
  | cons y r ih => by_cases h : x = y <;> simp [distinct, ih, h]

theorem bytesAt_congr {f g : Nat → Byte} {a n : Nat} (h : ∀ x, a ≤ x → x < a + n → f x = g x) : bytesAt f a n = bytesAt g a n := by
  induction n generalizing a with
  | zero => rfl
  | succ n ih => rw [bytesAt, bytesAt, h a (by omega) (by omega), ih fun x hx hx' => h x (by omega) (by omega)]

theorem mem_placeBytes_bytesAt {f : Nat → Byte} {a n : Nat} {b : Nat × Byte} (h : b ∈ placeBytes a (bytesAt f a n)) : b.2 = f b.1 := by
  induction n generalizing a with
  | zero => cases h
  | succ n ih =>
    rcases List.mem_cons.mp h with rfl | h
    · rfl
    · exact ih h

/-- A read looks at the keys and the bytes of its own block alone. -/
theorem decipher_congr {t u : Seals} {f g : Nat → Byte} {a : Nat} (ht : sealOf t a = sealOf u a) (h : ∀ x, x / 16 = a / 16 → f x = g x)
    (pair : Option (List Word64)) : decipher t pair f a = decipher u pair g a := by
  unfold decipher
  rw [ht, h a rfl, bytesAt_congr fun x hx hx' => h x (by omega)]

/-- What stands under the reader's pair, or under none, reads as it was written. -/
theorem decipher_plain {t : Seals} {pair : Option (List Word64)} {a : Nat} (h : ∀ w, sealOf t a = some w → pair = some w) (f : Nat → Byte) :
    decipher t pair f a = f a := by
  unfold decipher
  split
  · rfl
  · next w hw => rw [if_pos (h w hw)]

/-- Under another pair, a byte reads as the function that the model leaves open (log 8). -/
theorem State.peekBy_of_sealed {s : State} {key a : Nat} {p w : List Word64} (hp : s.pair key = some p) (hw : sealOf s.seals a = some w) :
    s.peekBy key a = if w = p then s.peek a else Config.throughKey w p (a / 16) (bytesAt s.peek (a / 16 * 16) 16) (a % 16) := by
  simp only [State.peekBy, decipher, hp, hw, Option.some.injEq, eq_comm (a := p), Option.getD_some]

/-- The keys of the blocks that a write through a pair meets, and of the others. -/
theorem sealOf_resealed (blocks : List Nat) (p : List Word64) (t : Seals) (a : Nat) :
    sealOf ((blocks.map fun b => (b, p)) ++ t.filter fun x => !blocks.contains x.1) a = if a / 16 ∈ blocks then some p else sealOf t a := by
  unfold sealOf
  rw [List.find?_append]
  by_cases h : a / 16 ∈ blocks
  · have hf : (blocks.map fun b => (b, p)).find? (fun x => x.1 == a / 16) = some (a / 16, p) := by
      induction blocks with
      | nil => cases h
      | cons b r ih =>
        by_cases hb : b = a / 16
        · simp [hb]
        · have := ih ((List.mem_cons.mp h).resolve_left (Ne.symm hb))
          simpa [hb] using this
    rw [hf, if_pos h]
    rfl
  · have hf : (blocks.map fun b => (b, p)).find? (fun x => x.1 == a / 16) = none := by
      simp only [List.find?_eq_none, List.mem_map]
      rintro _ ⟨b, hb, rfl⟩ he
      exact h (by simpa [← eq_of_beq he] using hb)
    rw [hf, if_neg h, Option.none_or, List.find?_filter]
    congr 2
    funext x
    by_cases hx : x.1 = a / 16
    · simp [hx, h]
    · simp [hx]

/-- A state without a pair in the slot reseals nothing. -/
theorem State.reseal_of_none {s : State} {key : Nat} (h : s.pair key = none) (as : List Nat) : s.reseal key as = s := by
  unfold State.reseal; rw [h]

@[simp] theorem State.reseal_keys (s : State) (key : Nat) (as : List Nat) : (s.reseal key as).keys = s.keys := by
  unfold State.reseal
  split <;> rfl

@[simp] theorem State.pair_reseal (s : State) (key : Nat) (as : List Nat) (k : Nat) : (s.reseal key as).pair k = s.pair k := by
  unfold State.pair; rw [State.reseal_keys]

/-- The blocks of some addresses that stand under a pair other than `p`: those that `State.reseal` writes again. -/
def State.foreignBlocks (s : State) (p : List Word64) (as : List Nat) : List Nat :=
  (distinct (as.map fun x => x / 16)).filter fun b => sealOf s.seals (16 * b) != none && sealOf s.seals (16 * b) != some p

theorem State.mem_foreignBlocks (s : State) (p : List Word64) (as : List Nat) (a : Nat) : a / 16 ∈ s.foreignBlocks p as ↔
    a / 16 ∈ as.map (fun x => x / 16) ∧ sealOf s.seals a ≠ none ∧ sealOf s.seals a ≠ some p := by
  have hseal : sealOf s.seals (16 * (a / 16)) = sealOf s.seals a := by
    unfold sealOf
    rw [Nat.mul_div_cancel_left _ (by decide)]
  rw [State.foreignBlocks, List.mem_filter, mem_distinct, hseal, Bool.and_eq_true, bne_iff_ne, bne_iff_ne]

/-- The bytes of some blocks as they read through a key. -/
def State.deciphered (s : State) (key : Nat) (blocks : List Nat) : List (Nat × Byte) :=
  blocks.flatMap fun b => placeBytes (16 * b) (bytesAt (s.peekBy key) (16 * b) 16)

theorem State.deciphered_val (s : State) (key : Nat) (blocks : List Nat) : ∀ b ∈ s.deciphered key blocks, b.2 = s.peekBy key b.1 := by
  intro b hb
  obtain ⟨n, _, hb⟩ := List.mem_flatMap.mp hb
  exact mem_placeBytes_bytesAt hb

theorem State.mem_deciphered_addresses (s : State) (key : Nat) (blocks : List Nat) (a : Nat) :
    a ∈ (s.deciphered key blocks).map (fun b => b.1) ↔ a / 16 ∈ blocks := by
  simp only [State.deciphered, List.map_flatMap, placeBytes_addresses, length_bytesAt, List.mem_flatMap, List.mem_range'_1]
  exact ⟨fun ⟨n, hn, hl, hu⟩ => (show a / 16 = n by omega) ▸ hn, fun h => ⟨a / 16, h, by omega, by omega⟩⟩

section
variable {s : State} {key : Nat} {p : List Word64} (hp : s.pair key = some p)
include hp

theorem State.sealOf_reseal (as : List Nat) (a : Nat) :
    sealOf (s.reseal key as).seals a = if a / 16 ∈ as.map (fun x => x / 16) then some p else sealOf s.seals a := by
  unfold State.reseal
  rw [hp]
  exact (sealOf_resealed ..).trans (by simp only [mem_distinct])

/-- A block that comes to stand under a pair holds what is read through it; the others hold what they held. -/
theorem State.peek_reseal (as : List Nat) (a : Nat) :
    (s.reseal key as).peek a = if a / 16 ∈ as.map (fun x => x / 16) then s.peekBy key a else s.peek a := by
  unfold State.reseal
  rw [hp]
  refine (Memory.read_writeAll_of_fun s.mem (s.peekBy key) (deciphered_val s key _) a).trans ?_
  have foreign := s.mem_foreignBlocks p as a
  have addresses := mem_deciphered_addresses s key (s.foreignBlocks p as) a
  by_cases hb : a / 16 ∈ as.map fun x => x / 16
  · rw [if_pos hb]
    by_cases ho : a / 16 ∈ s.foreignBlocks p as
    · exact if_pos (addresses.mpr ho)
    · refine (if_neg fun h => ho (addresses.mp h)).trans (decipher_plain (fun w hw => ?_) s.peek).symm
      refine Classical.byContradiction fun hne => ho (foreign.mpr ⟨hb, by simp [hw], fun h => hne ?_⟩)
      exact hp.trans (h.symm.trans hw)
  · rw [if_neg hb]
    exact if_neg fun h => hb (foreign.mp (addresses.mp h)).1

end

/-- Resealing some blocks leaves what is read of the others, through any key. -/
theorem State.peekBy_reseal_of_block (s : State) (key : Nat) {as : List Nat} {a : Nat} (h : a / 16 ∉ as.map fun x => x / 16) (k : Nat) :
    (s.reseal key as).peekBy k a = s.peekBy k a := by
  cases hp : s.pair key with
  | none => rw [State.reseal_of_none hp]
  | some p =>
    unfold State.peekBy
    rw [State.pair_reseal]
    refine decipher_congr (by rw [State.sealOf_reseal hp, if_neg h]) (fun x hx => ?_) _
    rw [State.peek_reseal hp, if_neg (hx ▸ h)]

/-! ### Writes through a key (R163) -/

/-- A write through a key leaves what is read of the blocks that it does not meet, through any key. -/
theorem State.peekBy_pokeBy_of_block (s : State) (key : Nat) {bs : List (Nat × Byte)} {a : Nat} (h : ∀ b ∈ bs, b.1 / 16 ≠ a / 16) (k : Nat) :
    (s.pokeBy key bs).peekBy k a = s.peekBy k a := by
  have hb : a / 16 ∉ (bs.map fun b => b.1).map fun x => x / 16 := by
    simp only [List.map_map, List.mem_map, not_exists, not_and]
    exact h
  rw [← State.peekBy_reseal_of_block s key hb k]
  exact decipher_congr rfl (fun x hx => State.peek_poke_of_block _ fun b hb' => hx ▸ h b hb') _

section
variable {s : State} {key : Nat} {p : List Word64} (hp : s.pair key = some p)
include hp

/-- What a write through a loaded key meets reads through it as it then stands in memory. -/
theorem State.peekBy_pokeBy_of_met {bs : List (Nat × Byte)} {a : Nat} (h : a / 16 ∈ (bs.map fun b => b.1).map fun x => x / 16) :
    (s.pokeBy key bs).peekBy key a = (s.pokeBy key bs).peek a := by
  have hs := State.sealOf_reseal hp (bs.map fun b => b.1) a
  rw [if_pos h] at hs
  refine decipher_plain (fun w hw => ?_) _
  exact (State.pair_reseal ..).trans (hp.trans (hs.symm.trans hw))

/-- What is written through a loaded key is read through it. -/
theorem State.peekBy_pokeBy_of_mem {bs : List (Nat × Byte)} (hn : (bs.map fun b => b.1).Nodup) {b : Nat × Byte} (hb : b ∈ bs) :
    (s.pokeBy key bs).peekBy key b.1 = b.2 := by
  rw [State.peekBy_pokeBy_of_met hp (List.mem_map_of_mem (List.mem_map_of_mem hb))]
  exact State.peek_poke_of_mem _ hn hb

/-- What stood elsewhere reads through the key as before. -/
theorem State.peekBy_pokeBy_of_not_mem {bs : List (Nat × Byte)} {a : Nat} (h : a ∉ bs.map fun b => b.1) :
    (s.pokeBy key bs).peekBy key a = s.peekBy key a := by
  by_cases hb : a / 16 ∈ (bs.map fun b => b.1).map fun x => x / 16
  · rw [State.peekBy_pokeBy_of_met hp hb, State.pokeBy, State.peek_poke_of_not_mem _ fun b hb' he => h (List.mem_map.mpr ⟨b, hb', he⟩),
      State.peek_reseal hp, if_pos hb]
  · refine State.peekBy_pokeBy_of_block s key (fun b hb' he => hb ?_) key
    exact he ▸ List.mem_map_of_mem (List.mem_map_of_mem hb')

end

/-! ### Reads through an empty slot -/

/-- Reading a block that stands under some key through no key gives its bytes as they were written: the model leaves open whether it does, as
`Config.throughKey` is opaque (log 8). -/
def KeylessPlain : Prop :=
  ∀ (w : List Word64) (n : Nat) (bs : List Byte) (k : Nat), bs.length = 16 → k < 16 → Config.throughKey w [] n bs k = bs.getD k 0

theorem getD_bytesAt (f : Nat → Byte) (a n k : Nat) (h : k < n) : (bytesAt f a n).getD k 0 = f (a + k) := by
  induction n generalizing a k with
  | zero => omega
  | succ n ih =>
    cases k with
    | zero => rfl
    | succ k => rw [show a + (k + 1) = a + 1 + k by omega]; exact ih (a + 1) k (by omega)

theorem bytesAt_of_placeBytes {f : Nat → Byte} {a : Nat} {bs : List Byte} (h : ∀ b ∈ placeBytes a bs, f b.1 = b.2) :
    bytesAt f a bs.length = bs := by
  induction bs generalizing a with
  | nil => rfl
  | cons b r ih =>
    rw [List.length_cons, bytesAt, h (a, b) List.mem_cons_self, ih fun c hc => h c (List.mem_cons_of_mem _ hc)]

theorem placeBytes_getElem? (a : Nat) (bs : List Byte) (k : Nat) : (placeBytes a bs)[k]? = bs[k]?.map fun b => (a + k, b) := by
  induction bs generalizing a k with
  | nil => rfl
  | cons b r ih =>
    cases k with
    | zero => rfl
    | succ k => simp [placeBytes, ih, show a + 1 + k = a + (k + 1) by omega]

theorem State.peekBy_of_empty {s : State} {key a : Nat} {w : List Word64} (h : s.pair key = none) (hw : sealOf s.seals a = some w) :
    s.peekBy key a = Config.throughKey w [] (a / 16) (bytesAt s.peek (a / 16 * 16) 16) (a % 16) := by
  simp [State.peekBy, decipher, h, hw]

theorem State.peekBy_of_keyless (hk : KeylessPlain) {s : State} {key : Nat} (h : s.pair key = none) (a : Nat) : s.peekBy key a = s.peek a := by
  cases hw : sealOf s.seals a with
  | none => exact decipher_plain (fun w h => absurd (hw.symm.trans h) nofun) _
  | some w =>
    rw [State.peekBy_of_empty h hw, hk w _ _ _ (length_bytesAt ..) (Nat.mod_lt _ (by decide)), getD_bytesAt _ _ _ _ (Nat.mod_lt _ (by decide)),
      Nat.div_add_mod']

/-- A machine with an empty key slot and one block under a key. -/
def sealedBlock (w : List Word64) (n : Nat) : State := { State.reset with seals := [(n, w)] }

/-- Reading back through an empty slot what was written through it asks for the value of the opaque function. -/
theorem keylessPlain_of_readBack (h : ∀ (s : State) (bs : List (Nat × Byte)), s.pair 0 = none → (bs.map fun b => b.1).Nodup →
    ∀ b ∈ bs, (s.pokeBy 0 bs).peekBy 0 b.1 = b.2) : KeylessPlain := by
  intro w n bs k hl hk
  have hn : ((placeBytes (16 * n) bs).map fun b => b.1).Nodup := by rw [placeBytes_addresses]; exact List.nodup_range'
  have hpair : (sealedBlock w n).pair 0 = none := rfl
  have hempty : ((sealedBlock w n).poke (placeBytes (16 * n) bs)).pair 0 = none := rfl
  have hpoke : (sealedBlock w n).pokeBy 0 (placeBytes (16 * n) bs) = (sealedBlock w n).poke (placeBytes (16 * n) bs) := by
    rw [State.pokeBy, State.reseal_of_none hpair]
  have hmem : (16 * n + k, bs.getD k 0) ∈ placeBytes (16 * n) bs := by
    refine List.mem_of_getElem? (i := k) ?_
    have hk' : k < bs.length := hl ▸ hk
    rw [placeBytes_getElem?, List.getElem?_eq_getElem hk', List.getD_eq_getElem?_getD, List.getElem?_eq_getElem hk']
    rfl
  have hread := h (sealedBlock w n) _ hpair hn _ hmem
  have hseal : sealOf ((sealedBlock w n).poke (placeBytes (16 * n) bs)).seals (16 * n + k) = some w := by
    simp [sealOf, sealedBlock, show (16 * n + k) / 16 = n by omega]
  have hbytes := bytesAt_of_placeBytes fun b hb => State.peek_poke_of_mem (sealedBlock w n) hn hb
  rw [hl, Nat.mul_comm] at hbytes
  rw [hpoke, State.peekBy_of_empty hempty hseal, show (16 * n + k) / 16 = n by omega, show (16 * n + k) % 16 = k by omega, Nat.mul_comm 16 n,
    hbytes] at hread
  exact hread

end Sys2Proof.Machine

open Sys2Proof Sys2Proof.Machine

/-- O59 cannot be settled as it stands, and this says why: its clause on keys speaks of every key slot, an empty one among them, and there it holds just
where the opaque `Config.throughKey` gives back what was written. All else that O59 says holds, and its clause on keys holds of every loaded key. -/
theorem memoryLaws_iff_keylessPlain : Obligations.MemoryLaws ↔ KeylessPlain := by
  unfold Obligations.MemoryLaws
  refine ⟨fun ⟨_, _, _, _, keyed, _⟩ => keylessPlain_of_readBack fun s bs _ hn => (keyed s 0 bs hn).1, fun hk => ⟨?_, ?_, ?_, ?_, ?_, ?_⟩⟩
  · exact fun m a b hm => ⟨Memory.wf_write hm a b, Memory.read_write m a b⟩
  · exact fun m bs hm => ⟨Memory.wf_writeAll hm bs, fun x hx => Memory.read_writeAll_of_not_mem m fun b hb he => hx (List.mem_map.mpr ⟨b, hb, he⟩),
      fun hn b hb => Memory.read_writeAll_of_mem m hn hb⟩
  · exact fun m n hm hn h => Memory.ext_read hm hn h
  · exact leNat_poke_leBytes
  · intro s key bs hn
    have key' : (∀ b ∈ bs, (s.pokeBy key bs).peekBy key b.1 = b.2) ∧
        ∀ a, a ∉ bs.map (fun b => b.1) → (s.pokeBy key bs).peekBy key a = s.peekBy key a := by
      cases hp : s.pair key with
      | some p => exact ⟨fun b hb => State.peekBy_pokeBy_of_mem hp hn hb, fun a ha => State.peekBy_pokeBy_of_not_mem hp ha⟩
      | none =>
        have hpoke : s.pokeBy key bs = s.poke bs := by rw [State.pokeBy, State.reseal_of_none hp]
        have hempty : (s.poke bs).pair key = none := hp
        rw [hpoke]
        refine ⟨fun b hb => ?_, fun a ha => ?_⟩
        · rw [State.peekBy_of_keyless hk hempty, State.peek_poke_of_mem s hn hb]
        · rw [State.peekBy_of_keyless hk hempty, State.peekBy_of_keyless hk hp]
          exact State.peek_poke_of_not_mem s fun b hb he => ha (List.mem_map.mpr ⟨b, hb, he⟩)
    exact ⟨key'.1, key'.2, fun a ha k => State.peekBy_pokeBy_of_block s key ha k⟩
  · exact fun s key a p w hp hw => State.peekBy_of_sealed hp hw
end

section
/-! SUPPORT. Store events (R173, R214, R228) and the end of pins (R188): of launches, functions and blocks they change the counters of R284 and the
marks of spoiled records (R211) alone; an event at its home leaves the cores, the requests, the key slots and the remote caches too. -/

namespace Sys2Proof.Machine

/-! ### Counters (R284) -/

/-- A function's registers without the values and overflow bits of its counters. -/
def Func.unmetered (g : Func) : Func := { g with cntVal := [], cntOvf := 0 }

/-- A block without the mark that a write to its record sets (R211). -/
def Block.unspoiled (b : Block) : Block := { b with invalid := false }

/-- Launches stay, and of functions and blocks only counters and spoiled records change. -/
structure State.Steady (s t : State) : Prop where
  launches : t.launches = s.launches
  funcs : t.funcs.map Func.unmetered = s.funcs.map Func.unmetered
  blocks : t.blocks.map Block.unspoiled = s.blocks.map Block.unspoiled

/-- Cores, requests and key slots stay beside them, and in each tower the remote cache and the registered pages. -/
structure State.Stored (s t : State) : Prop extends State.Steady s t where
  cores : t.cores = s.cores
  reqs : t.reqs = s.reqs
  keys : t.keys = s.keys
  remote : t.towers.map (fun w => w.remote) = s.towers.map fun w => w.remote
  keeps : t.towers.map (fun w => w.keeps.map Keep.page) = s.towers.map fun w => w.keeps.map Keep.page

/-- Memory and the keys of its blocks stay too. -/
structure State.Unwritten (s t : State) : Prop extends State.Stored s t where
  mem : t.mem = s.mem
  seals : t.seals = s.seals

theorem State.Steady.refl (s : State) : s.Steady s := ⟨rfl, rfl, rfl⟩

theorem State.Steady.trans {s t u : State} (h : s.Steady t) (k : t.Steady u) : s.Steady u :=
  ⟨k.launches.trans h.launches, k.funcs.trans h.funcs, k.blocks.trans h.blocks⟩

theorem State.Stored.refl (s : State) : s.Stored s := ⟨.refl s, rfl, rfl, rfl, rfl, rfl⟩

theorem State.Stored.trans {s t u : State} (h : s.Stored t) (k : t.Stored u) : s.Stored u :=
  ⟨h.toSteady.trans k.toSteady, k.cores.trans h.cores, k.reqs.trans h.reqs, k.keys.trans h.keys, k.remote.trans h.remote, k.keeps.trans h.keeps⟩

theorem State.Unwritten.refl (s : State) : s.Unwritten s := ⟨.refl s, rfl, rfl⟩

theorem State.Unwritten.trans {s t u : State} (h : s.Unwritten t) (k : t.Unwritten u) : s.Unwritten u :=
  ⟨h.toStored.trans k.toStored, k.mem.trans h.mem, k.seals.trans h.seals⟩

/-- A fold of steps that each keep a reflexive and transitive relation keeps it. -/
theorem foldl_rel {α β : Type} {R : α → α → Prop} (refl : ∀ a, R a a) (trans : ∀ {a b c}, R a b → R b c → R a c) {f : α → β → α}
    (step : ∀ a x, R a (f a x)) (l : List β) (a : α) : R a (l.foldl f a) := by
  induction l generalizing a with
  | nil => exact refl a
  | cons x r ih => exact trans (step a x) (ih _)

theorem getD_congr_map {α β : Type} {g : α → β} {l m : List α} (h : m.map g = l.map g) (i : Nat) (d : α) : g (m.getD i d) = g (l.getD i d) := by
  have := congrArg (fun x : List β => x.getD i (g d)) h
  simpa only [List.getD_eq_getElem?_getD, List.getElem?_map, Option.getD_map] using this

theorem State.Steady.func {s t : State} (h : s.Steady t) (f : Nat) : (t.func f).unmetered = (s.func f).unmetered := getD_congr_map h.funcs f default

theorem State.Steady.block {s t : State} (h : s.Steady t) (b : Nat) : (t.block b).unspoiled = (s.block b).unspoiled :=
  getD_congr_map h.blocks b default

theorem map_modify_of_eq {α β : Type} {g : α → β} {f : α → α} (h : ∀ a, g (f a) = g a) (l : List α) (i : Nat) : (l.modify i f).map g = l.map g := by
  apply List.ext_getElem?
  intro n
  rw [List.getElem?_map, List.getElem?_map, List.getElem?_modify]
  cases l[n]? with
  | none => rfl
  | some a => by_cases hi : i = n <;> simp [hi, h]

theorem State.Unwritten.modTower (s : State) (i : Nat) (f : Tower → Tower) (hr : ∀ t, (f t).remote = t.remote)
    (hk : ∀ t, (f t).keeps.map Keep.page = t.keeps.map Keep.page) : s.Unwritten (s.modTower i f) :=
  ⟨⟨⟨rfl, rfl, rfl⟩, rfl, rfl, rfl, map_modify_of_eq hr s.towers i, map_modify_of_eq hk s.towers i⟩, rfl, rfl⟩

/-- The counters of functions and the interrupts of their overflows are all that has changed. -/
def State.Metered (s t : State) : Prop := ∃ fs is, t = { s with funcs := fs, irqs := is } ∧ fs.map Func.unmetered = s.funcs.map Func.unmetered

theorem State.Metered.refl (s : State) : s.Metered s := ⟨s.funcs, s.irqs, rfl, rfl⟩

theorem State.Metered.trans {s t u : State} (h : s.Metered t) (k : t.Metered u) : s.Metered u := by
  obtain ⟨_, _, rfl, hf⟩ := h
  obtain ⟨fs, is, rfl, kf⟩ := k
  exact ⟨fs, is, rfl, kf.trans hf⟩

theorem State.Metered.modFunc (s : State) (i : Nat) (f : Func → Func) (hf : ∀ g, (f g).unmetered = g.unmetered) : s.Metered (s.modFunc i f) :=
  ⟨_, s.irqs, rfl, map_modify_of_eq hf s.funcs i⟩

theorem State.Metered.interrupt (s : State) (f v : Nat) : s.Metered (s.interrupt f v) := ⟨s.funcs, _, rfl, rfl⟩

theorem State.Metered.countOne (s : State) (f ev n i : Nat) : s.Metered (s.countOne f ev n i) := by
  unfold State.countOne
  dsimp only
  split
  · have counted := Metered.modFunc s f (fun f' => { f' with
      cntVal := f'.cntVal.set i (((s.func f).cntVal.getD i 0 + n) % 2 ^ 48)
      cntOvf := if (s.func f).cntVal.getD i 0 + n < 2 ^ 48 then f'.cntOvf else f'.cntOvf ||| (1 <<< i) }) fun _ => rfl
    split
    · exact counted
    · exact counted.trans (.interrupt ..)
  · exact .refl s

theorem State.Metered.count (s : State) (f ev n : Nat) : s.Metered (s.count f ev n) := by
  unfold State.count
  split
  · exact .refl s
  · exact foldl_rel Metered.refl Metered.trans (fun s i => Metered.countOne s f ev n i) _ s

theorem State.Unwritten.count (s : State) (f ev n : Nat) : s.Unwritten (s.count f ev n) := by
  obtain ⟨fs, is, ht, hf⟩ := Metered.count s f ev n
  rw [ht]
  exact ⟨⟨⟨rfl, hf, rfl⟩, rfl, rfl, rfl, rfl, rfl⟩, rfl, rfl⟩

theorem State.Unwritten.countEvict (s : State) (owner filler : Nat) : s.Unwritten (s.countEvict owner filler) := .count ..

/-! ### Store events at a home (R173, R214, R228) -/

theorem State.Unwritten.spoil (s : State) (as : List Nat) : s.Unwritten (s.spoil as) := by
  refine ⟨⟨⟨rfl, rfl, ?_⟩, rfl, rfl, rfl, rfl, rfl⟩, rfl, rfl⟩
  simp only [State.spoil, List.map_map]
  refine List.map_congr_left fun b _ => ?_
  simp only [Function.comp]
  split
  · split <;> rfl
  · rfl

theorem State.Unwritten.countIf (s : State) (own : Bool) (f ev : Nat) : s.Unwritten (if own then s.count f ev 1 else s) := by
  split
  · exact .count ..
  · exact .refl s

/-- A line that reaches its home changes the home cache and its counters alone. -/
theorem State.Unwritten.touchBy (s : State) (own : Bool) (f line : Nat) (mark : Mark) : s.Unwritten (s.touchBy own f line mark) := by
  unfold State.touchBy
  split
  · exact .refl s
  · have reached := Unwritten.countIf s own f 5
    dsimp only
    generalize (if own then s.count f 5 1 else s) = t at reached
    refine reached.trans ?_
    split
    · split
      · exact .refl t
      · exact .modTower t _ (fun x => x.markHome line mark) (fun _ => rfl) fun _ => rfl
    · have missed := Unwritten.countIf t own f 6
      generalize (if own then t.count f 6 1 else t) = u at missed
      refine missed.trans ?_
      split
      · next way _ => exact .modTower u _ (fun x => x.fillHome f line way mark) (fun _ => rfl) fun _ => rfl
      · split
        · exact .refl u
        · next v _ =>
          refine Unwritten.trans ?_ (.countEvict _ _ _)
          exact .modTower u (homeOf line) (fun x => (x.writeBack v).fillHome f line v.way mark) (fun _ => rfl) fun _ => rfl

theorem State.Stored.poke (s : State) (bs : List (Nat × Byte)) : s.Stored (s.poke bs) := ⟨⟨rfl, rfl, rfl⟩, rfl, rfl, rfl, rfl, rfl⟩

theorem State.Stored.appendVersion (s : State) (line : Nat) (st : Stamp) : s.Stored (s.appendVersion line st) := by
  unfold State.appendVersion
  split
  · exact .refl s
  · next k _ =>
    refine Stored.trans (Stored.trans (Unwritten.toStored ?_) (.poke _ _)) (Unwritten.count ..).toStored
    refine .modTower s _ (fun t => { t with
      log := s.versionFor k line st :: t.log, keeps := t.keeps.map fun x => if x.page = k.page then x.noted (s.versionFor k line st) else x })
      (fun _ => rfl) fun t => ?_
    simp only [List.map_map]
    refine List.map_congr_left fun k _ => ?_
    simp only [Function.comp]
    split <;> rfl

theorem State.Stored.reseal (s : State) (key : Nat) (as : List Nat) : s.Stored (s.reseal key as) := by
  unfold State.reseal
  split
  · exact .refl s
  · exact ⟨⟨rfl, rfl, rfl⟩, rfl, rfl, rfl, rfl, rfl⟩

theorem State.Stored.pokeBy (s : State) (key : Nat) (bs : List (Nat × Byte)) : s.Stored (s.pokeBy key bs) :=
  (Stored.reseal ..).trans (.poke ..)

theorem State.Unwritten.seeEvent (s : State) (as : List Nat) (st : Stamp) : s.Unwritten (s.seeEvent as st) :=
  ⟨⟨⟨rfl, rfl, rfl⟩, rfl, rfl, rfl, rfl, rfl⟩, rfl, rfl⟩

theorem State.Unwritten.loseSpan (s : State) (pin : Option Nat) (as : List Nat) (own : Option (Nat × Nat)) : s.Unwritten (s.loseSpan pin as own) :=
  ⟨⟨⟨rfl, rfl, rfl⟩, rfl, rfl, rfl, rfl, rfl⟩, rfl, rfl⟩

/-- What a store event leaves of the units of the machine (R214). -/
theorem State.Stored.homeStore (s : State) (r : Req) (own : Option (Nat × Nat)) : s.Stored (s.homeStore r own).1 := by
  unfold State.homeStore
  dsimp only
  refine Stored.trans (Unwritten.spoil s (r.bytes.map fun b => b.1)).toStored ?_
  generalize s.spoil (r.bytes.map fun b => b.1) = t
  split
  · exact (Stored.poke t r.bytes).trans ((Unwritten.loseSpan _ _ _ _).trans (.count ..)).toStored
  · have touched := (Unwritten.touchBy t (r.kind != .host) r.func r.line r.mark).toStored
    generalize t.touchBy (r.kind != .host) r.func r.line r.mark = u at touched
    have stamped := (Stored.appendVersion u r.line (u.nextStamp r.line r.floor)).trans
      (Unwritten.modTower _ (homeOf r.line) (fun t => t.stamped r.line (u.nextStamp r.line r.floor)) (fun _ => rfl) fun _ => rfl).toStored
    exact touched.trans (stamped.trans ((Stored.pokeBy ..).trans ((Unwritten.loseSpan _ _ _ _).trans (.seeEvent ..)).toStored))

/-- Writes through a key look at memory, its keys and the key slots alone. -/
theorem State.Unwritten.pokeBy {s t : State} (h : s.Unwritten t) (key : Nat) (bs : List (Nat × Byte)) : (s.pokeBy key bs).Unwritten (t.pokeBy key bs) := by
  have hpair : ∀ k, t.pair k = s.pair k := fun k => by unfold State.pair; rw [h.keys]
  have hpeek : ∀ k, t.peekBy k = s.peekBy k := fun k => by
    funext a
    unfold State.peekBy State.peek
    rw [hpair, h.mem, h.seals]
  have hstored := (Stored.pokeBy t key bs)
  have hs := Stored.pokeBy s key bs
  have hbytes : (t.pokeBy key bs).mem = (s.pokeBy key bs).mem ∧ (t.pokeBy key bs).seals = (s.pokeBy key bs).seals := by
    unfold State.pokeBy State.reseal
    rw [hpair]
    cases s.pair key with
    | none => simp only [State.poke, h.mem, h.seals, and_self]
    | some p => simp only [State.poke, h.mem, h.seals, hpeek, and_self]
  exact ⟨⟨⟨hstored.launches.trans (h.launches.trans hs.launches.symm), hstored.funcs.trans (h.funcs.trans hs.funcs.symm),
    hstored.blocks.trans (h.blocks.trans hs.blocks.symm)⟩, hstored.cores.trans (h.cores.trans hs.cores.symm),
    hstored.reqs.trans (h.reqs.trans hs.reqs.symm), hstored.keys.trans (h.keys.trans hs.keys.symm),
    hstored.remote.trans (h.remote.trans hs.remote.symm), hstored.keeps.trans (h.keeps.trans hs.keeps.symm)⟩, hbytes.1, hbytes.2⟩

theorem State.Stored.unregistered {s t : State} (h : s.Stored t) (hk : Claims.Unregistered s) : Claims.Unregistered t := fun w hw => by
  have hm : w.keeps.map Keep.page ∈ t.towers.map fun w => w.keeps.map Keep.page := List.mem_map_of_mem hw
  rw [h.keeps] at hm
  obtain ⟨v, hv, he⟩ := List.mem_map.mp hm
  rw [hk v hv] at he
  exact List.map_eq_nil_iff.mp he.symm

theorem State.keepOf_of_unregistered {s : State} (h : Claims.Unregistered s) (a : Nat) : s.keepOf a = none := by
  unfold State.keepOf
  split
  · rfl
  · rw [State.tower, List.getD_eq_getElem?_getD]
    cases ht : s.towers[homeOf a]? with
    | none => rfl
    | some w => simp [h w (List.mem_of_getElem? ht)]

/-- A store event on a page that is not registered writes its bytes through their key, and no others (R163, R214). -/
theorem State.Unwritten.homeStore {s : State} {r : Req} (own : Option (Nat × Nat)) (hp : peerOf r.line = 0) (hk : Claims.Unregistered s) :
    (s.pokeBy r.key r.bytes).Unwritten (s.homeStore r own).1 := by
  unfold State.homeStore
  dsimp only
  have spoilt := Unwritten.spoil s (r.bytes.map fun b => b.1)
  generalize s.spoil (r.bytes.map fun b => b.1) = t at spoilt
  rw [if_neg (by simp [hp])]
  have touched := spoilt.trans (Unwritten.touchBy t (r.kind != .host) r.func r.line r.mark)
  generalize t.touchBy (r.kind != .host) r.func r.line r.mark = u at touched
  have hkeep : u.keepOf r.line = none := State.keepOf_of_unregistered (touched.toStored.unregistered hk) r.line
  have happend : ∀ st, u.appendVersion r.line st = u := fun st => by unfold State.appendVersion; rw [hkeep]
  rw [happend]
  have stamped := touched.trans (Unwritten.modTower u (homeOf r.line) (fun t => t.stamped r.line (u.nextStamp r.line r.floor)) (fun _ => rfl) fun _ => rfl)
  exact (stamped.pokeBy r.key r.bytes).trans ((Unwritten.loseSpan ..).trans (.seeEvent ..))

/-! ### Requests that are performed, and pins that end (R173, R188) -/

theorem State.Steady.devicePoke (s : State) (key : Nat) (bs : List (Nat × Byte)) : s.Steady (s.devicePoke key bs) := by
  unfold State.devicePoke
  dsimp only
  split
  · exact (Stored.pokeBy ..).toSteady
  · exact (Stored.pokeBy s ..).toSteady.trans ⟨rfl, rfl, rfl⟩

theorem State.Steady.pokeLate (s : State) : s.Steady s.pokeLate :=
  Steady.trans (t := { s with late := [] }) ⟨rfl, rfl, rfl⟩ (foldl_rel Steady.refl Steady.trans (fun s _ => Steady.devicePoke s _ _) s.late _)

theorem State.Steady.ack (s : State) (r : Req) (st : Stamp) : s.Steady (s.ack r st) := by
  unfold State.ack
  split
  · exact .refl s
  · exact ⟨rfl, rfl, rfl⟩

theorem State.Steady.noteStrong (s : State) (as : List (Nat × Nat)) : s.Steady (s.noteStrong as) := by
  unfold State.noteStrong
  dsimp only
  split
  · exact .refl s
  · exact ⟨rfl, rfl, rfl⟩

theorem State.Steady.showDirect (s : State) (r : Req) : s.Steady (s.showDirect r) := by
  unfold State.showDirect
  split
  · exact ⟨rfl, rfl, rfl⟩
  · exact .refl s
  · exact .refl s

theorem State.Steady.perform (s : State) (r : Req) : s.Steady (s.perform r) := by
  unfold State.perform
  have stored := (Stored.homeStore { s with reqs := s.reqs.filter fun q => q.id != r.id } r none).toSteady
  have performed := Steady.trans (s := s) (t := { s with reqs := s.reqs.filter fun q => q.id != r.id }) ⟨rfl, rfl, rfl⟩ stored
  generalize State.homeStore { s with reqs := s.reqs.filter fun q => q.id != r.id } r none = x at performed
  have shown := performed.trans ((Steady.ack x.1 r x.2).trans ((Steady.noteStrong _ r.strong).trans (Steady.showDirect _ r)))
  dsimp only
  split
  · exact shown.trans (.pokeLate _)
  · exact shown

theorem State.Steady.performList (p : Req → Bool) (l : List Req) (held : List Nat) (s : State) : s.Steady (State.performList p l held s) := by
  induction l generalizing held s with
  | nil => exact .refl s
  | cons r rest ih =>
    unfold State.performList
    split
    · exact ih held s
    · split
      · exact ih _ s
      · exact (Steady.perform s r).trans (ih held _)

theorem State.Steady.flushLine (s : State) (line : Nat) : s.Steady (s.flushLine line) := .performList ..

theorem State.Steady.modWave (s : State) (i : Nat) (f : Wave → Wave) : s.Steady (s.modWave i f) := ⟨rfl, rfl, rfl⟩

theorem State.Steady.requested (s : State) (l : List Req) (n : Nat) : s.Steady { s with reqs := l, nextReq := n } := ⟨rfl, rfl, rfl⟩

theorem State.Steady.endPin (s : State) (core : Nat) (p : Pin) (byLease : Bool) : s.Steady (s.endPin core p byLease) := by
  have lost := fun (l : List Resv) => foldl_rel Steady.refl Steady.trans
    (fun (s : State) (r : Resv) => Steady.modWave s r.wave fun w => { w with pinLost := w.pinLost ||| 1 <<< r.lane }) l
  unfold State.endPin
  dsimp only
  refine Steady.trans (Steady.trans ?_ (.requested ..)) (.flushLine _ _)
  split
  · refine Steady.trans ?_ (lost _ _)
    exact ⟨rfl, rfl, rfl⟩
  · exact ⟨rfl, rfl, rfl⟩

theorem State.Steady.endPinsOf (s : State) (wi : Nat) : s.Steady (s.endPinsOf wi) :=
  foldl_rel Steady.refl Steady.trans (fun s q => Steady.endPin s _ q false) _ s

/-- Taking the waves of victim blocks chooses no victim and releases none (R79). -/
theorem State.Steady.takeWaves (s : State) (bi : Nat) : s.Steady (s.takeWaves bi) := by
  unfold State.takeWaves
  split
  · exact .refl s
  · refine foldl_rel Steady.refl Steady.trans (fun s wi => ?_) _ s
    split
    · exact (Steady.endPinsOf s wi).trans ⟨rfl, rfl, rfl⟩
    · exact .refl s

theorem State.Steady.takeAll (s : State) : s.Steady s.takeAll :=
  foldl_rel Steady.refl Steady.trans Steady.takeWaves _ s

end Sys2Proof.Machine
end

section
/-! SUPPORT. Registers and commands of functions (R11, R49, R99, R100, R275, R278, R284 to R288): what each command gives and leaves alone. -/

namespace Sys2Proof.Machine

/-! ### A function's registers -/

theorem State.func_modFunc_self {s : State} {f : Nat} (hf : f < s.funcs.length) (h : Func → Func) : (s.modFunc f h).func f = h (s.func f) := by
  rw [State.func_modFunc, if_pos ⟨rfl, hf⟩]

theorem State.func_modFunc_ne {s : State} {f g : Nat} (hg : g ≠ f) (h : Func → Func) : (s.modFunc f h).func g = s.func g := by
  rw [State.func_modFunc, if_neg fun e => hg e.1.symm]

/-- A change of a function's registers is one of nothing else. -/
theorem State.onlyFunc_modFunc (s : State) (f : Nat) (h : Func → Func) : Claims.OnlyFunc s (s.modFunc f h) f :=
  ⟨fun _ hg => State.func_modFunc_ne hg h, rfl, rfl, rfl⟩

/-- A range of memory is a function's by its base and its size. -/
theorem State.owns_modFunc (s : State) (f : Nat) {h : Func → Func} (hb : ∀ g, (h g).memBase = g.memBase) (hs : ∀ g, (h g).memSize = g.memSize)
    (e a n : Nat) : (s.modFunc f h).owns e a n = s.owns e a n := by
  unfold State.owns
  rw [State.func_modFunc]
  split <;> simp [hb, hs]

theorem State.accepts_iff (s : State) : s.accepts = true ↔ s.recovery = false := by simp [State.accepts]

theorem State.presents_iff (s : State) (f : Nat) : s.presents f = true ↔ s.recovery = false ∨ f = Config.pf := by simp [State.presents]

/-- The page that a request names (R99). -/
theorem toNat_pageField (v : Word64) : ((v >>> 16).setWidth 36).toNat = v.toNat / 65536 % 2 ^ 36 := by
  simp [BitVec.toNat_setWidth, BitVec.toNat_ushiftRight, Nat.shiftRight_eq_div_pow]

/-! ### Writes of registers (R11, R49, R275) -/

/-- A write by the owner or the PF, in a device that accepts it. -/
theorem State.owner_accepted {s : State} (ha : s.accepts = true) {b f : Nat} (hb : b = f ∨ b = Config.pf) (h : Func → Func) :
    s.owner b f h = .next (s.modFunc f h) := by
  have : (b == f || b == Config.pf) = true := by simpa using hb
  simp [State.owner, ha, this, State.done]

/-- A write by another, or in recovery, changes nothing. -/
theorem State.owner_ignored {s : State} {b f : Nat} (h : s.accepts = false ∨ (b ≠ f ∧ b ≠ Config.pf)) (g : Func → Func) :
    s.owner b f g = .next s := by
  unfold State.owner
  rw [if_neg]
  · rfl
  · rcases h with h | h <;> simp [h]

theorem State.onlyPF_accepted {s : State} (ha : s.accepts = true) (f : Nat) (k : State → State) : s.onlyPF Config.pf f k = .next (k s) := by
  simp [State.onlyPF, ha, State.done]

/-- A VF's write of a register of the PF's is ignored and reported (R11). -/
theorem State.onlyPF_reported {s : State} (ha : s.accepts = true) {f : Nat} (hf : f ≠ Config.pf) (k : State → State) :
    s.onlyPF f f k = .next { s with irqs := s.irqs ++ [(Config.pf, 4)] } := by
  simp [State.onlyPF, ha, hf, State.done, State.report, State.interrupt]

theorem State.onlyPF_ignored {s : State} {b f : Nat} (h : s.accepts = false ∨ (b ≠ f ∧ b ≠ Config.pf)) (k : State → State) :
    s.onlyPF b f k = .next s := by
  unfold State.onlyPF
  rcases h with h | ⟨hf, hp⟩
  · simp [h, State.done]
  · simp [hf, hp, State.done]

/-- The registers of BAR0 that only the PF writes are ignored where they are not accepted, and so are the others. -/
theorem registerWrite_ignored {s : State} {b f : Nat} (h : s.accepts = false ∨ (b ≠ f ∧ b ≠ Config.pf)) (reg : BarReg) (v : Word64) :
    exec (.registerWrite b f reg v) s = .next s := by
  change execRegisterWrite b f reg v s = _
  cases reg <;> simp only [execRegisterWrite, State.owner_ignored h, State.onlyPF_ignored h]

/-- A VF's own write: a register of the PF's is reported, and any other is written as the PF would write it (R11). -/
theorem registerWrite_own {s : State} (ha : s.accepts = true) {f : Nat} (hf : f ≠ Config.pf) (reg : BarReg) (v : Word64) :
    if Claims.onlyByPF reg = true then exec (.registerWrite f f reg v) s = .next { s with irqs := s.irqs ++ [(Config.pf, 4)] }
    else exec (.registerWrite f f reg v) s = exec (.registerWrite Config.pf f reg v) s := by
  change if Claims.onlyByPF reg = true then execRegisterWrite f f reg v s = _ else execRegisterWrite f f reg v s = execRegisterWrite Config.pf f reg v s
  cases reg <;>
    simp only [execRegisterWrite, Claims.onlyByPF, State.onlyPF_reported ha hf, State.owner_accepted ha (Or.inl rfl),
      State.owner_accepted ha (Or.inr rfl), if_true, if_false, Bool.false_eq_true]

/-- A register that the PF writes holds the fields of the value, and no other function's changes. -/
theorem registerWrite_holds {s : State} (ha : s.accepts = true) {f : Nat} (hf : f < s.funcs.length) (reg : BarReg) (v : Word64) :
    ∃ t, exec (.registerWrite Config.pf f reg v) s = .next t ∧ Claims.OnlyFunc s t f ∧ Claims.Holds t f (s.func f) v reg := by
  have device : ∀ t : State, t.funcs = s.funcs → t.mem = s.mem → t.waves = s.waves → t.blocks = s.blocks → Claims.OnlyFunc s t f :=
    fun t hg hm hw hb => ⟨fun g _ => by unfold State.func; rw [hg], hm, hw, hb⟩
  change ∃ t, execRegisterWrite Config.pf f reg v s = .next t ∧ _
  cases reg
  all_goals simp only [execRegisterWrite, State.onlyPF_accepted ha, State.owner_accepted ha (Or.inr rfl)]
  case hcwb | hcws => exact ⟨_, rfl, device _ rfl rfl rfl rfl, by simp [Claims.Holds, fieldOf]⟩
  case keydata i =>
    refine ⟨_, rfl, device _ rfl rfl rfl rfl, fun hi => ?_⟩
    have hi' : i < s.keyData.length := by simpa using hi
    simp [List.getD_eq_getElem?_getD, hi']
  all_goals refine ⟨_, rfl, State.onlyFunc_modFunc s f _, ?_⟩
  all_goals simp only [Claims.Holds, State.queue, State.func_modFunc_self hf, fdbgField]
  case qbase q => exact fun hq => by simp [List.getD_eq_getElem?_getD, hq, fieldOf]
  case fcntsel i | fcntval i | fattn i => exact fun hi => by simp [List.getD_eq_getElem?_getD, hi, fieldOf]
  case fcntovf => exact fun i hi => by simp [hi, show i < 64 by omega]
  all_goals simp [fieldOf]

/-- FCORE: a core that another VF holds makes the write ignored and reported (R275). -/
theorem fcoreWrite_taken {s : State} (ha : s.accepts = true) {f j : Nat} {v : Word64} (h : s.coreTaken f j v = true) :
    ∃ t, exec (.fcoreWrite Config.pf f j v) s = .next t ∧ t.funcs = s.funcs ∧ (Config.pf, 4) ∈ t.irqs := by
  change ∃ t, execFcoreWrite Config.pf f j v s = .next t ∧ _
  simp only [execFcoreWrite, State.onlyPF_accepted ha, h, if_true]
  exact ⟨_, rfl, rfl, by simp [State.report, State.interrupt]⟩

theorem fcoreWrite_free {s : State} (ha : s.accepts = true) {f j : Nat} {v : Word64} (h : s.coreTaken f j v = false) :
    exec (.fcoreWrite Config.pf f j v) s = .next (s.modFunc f fun g => { g with cores := g.cores.set j v }) := by
  change execFcoreWrite Config.pf f j v s = _
  simp only [execFcoreWrite, State.onlyPF_accepted ha, h, Bool.false_eq_true, if_false]

/-! ### Verification (R99, R100, R382) -/

theorem verify_accepted {s : State} (ha : s.accepts = true) {f : Nat} (hb : (s.func f).vfyBusy = false) (v : Word64) :
    exec (.verify f v) s = .next (s.modFunc f fun g => { g with vfyBusy := true, vfyReq := v.toNat / 65536 % 2 ^ 36, vfyOp := false }) := by
  change execVerify f v s = _
  simp only [execVerify, hb, ha, toNat_pageField, Bool.not_true, Bool.or_self, Bool.false_eq_true, if_false, State.done]

theorem verify_ignored {s : State} {f : Nat} (h : (s.func f).vfyBusy = true ∨ s.accepts = false) (v : Word64) :
    exec (.verify f v) s = .next s ∧ exec (.verifyRelease f v) s = .next s := by
  have hc : ((s.func f).vfyBusy || !s.accepts) = true := by simpa using h
  exact ⟨by change execVerify f v s = _; rw [execVerify, if_pos hc]; rfl, by change execVerifyRelease f v s = _; simp only [execVerifyRelease, hc]; rfl⟩

@[simp] theorem State.vfyAnswer_verified (s : State) (f r x n : Nat) : (s.vfyAnswer f r x n).verified = s.verified := rfl

/-- An answer of the scanner changes the function's registers alone. -/
theorem State.func_vfyAnswer {s : State} {f : Nat} (hf : f < s.funcs.length) (r x n : Nat) :
    (s.vfyAnswer f r x n).func f = { s.func f with vfyBusy := false, vfyResult := r, vfyReason := x, vfyWord := n } :=
  State.func_modFunc_self hf _

theorem State.verifiedPage_markVerified (s : State) (f p q : Nat) :
    (s.markVerified f p).verifiedPage q = (s.verifiedPage q || p == q) := by
  simp [State.verifiedPage, State.markVerified]

section
variable {s : State} {f p : Nat} (hb : (s.func f).vfyBusy = true) (hp : (s.func f).vfyReq = p)
include hb hp

theorem verifyComplete_waits (ho : s.owns f (p * 65536) 65536 = true) (hv : s.verifiedPage p = false) (hq : s.pageQuiet p = false) :
    exec (.verifyComplete f) s = .next s := by
  change execVerifyComplete f s = _
  simp [execVerifyComplete, hb, hp, ho, hv, hq, State.done]

/-- The scanner's answer on a page that it need not wait for. -/
theorem verifyComplete_answers (hf : f < s.funcs.length)
    (hw : s.owns f (p * 65536) 65536 = false ∨ s.verifiedPage p = true ∨ s.pageQuiet p = true) :
    ∃ t, exec (.verifyComplete f) s = .next t ∧ Claims.OnlyFunc s t f ∧ (t.func f).vfyBusy = false ∧
      (s.owns f (p * 65536) 65536 = false → (t.func f).vfyResult = 4 ∧ t.verified = s.verified) ∧
      (s.owns f (p * 65536) 65536 = true → s.verifiedPage p = true → (t.func f).vfyResult = 1 ∧ t.verified = s.verified) ∧
      (s.owns f (p * 65536) 65536 = true → s.verifiedPage p = false →
        (∀ r n, scanWords (s.pageWords f p) ⟨[], 0, none⟩ 0 = some (r, n) → (t.func f).vfyResult = 2 ∧ (t.func f).vfyReason = r.code.toNat ∧
          (t.func f).vfyWord = n ∧ t.verified = s.verified) ∧
        (scanWords (s.pageWords f p) ⟨[], 0, none⟩ 0 = none → (t.func f).vfyResult = 1 ∧ t.verifiedPage p = true ∧
          ∀ q, q ≠ p → t.verifiedPage q = s.verifiedPage q)) := by
  have answer := fun r x n => State.func_vfyAnswer hf r x n
  change ∃ t, execVerifyComplete f s = .next t ∧ _
  cases ho : s.owns f (p * 65536) 65536 with
  | false =>
    refine ⟨s.vfyAnswer f 4 0 0, ?_, State.onlyFunc_modFunc .., ?_⟩
    · simp [execVerifyComplete, hb, hp, ho, State.done]
    · simp [answer]
  | true =>
    cases hv : s.verifiedPage p with
    | true =>
      refine ⟨s.vfyAnswer f 1 0 0, ?_, State.onlyFunc_modFunc .., ?_⟩
      · simp [execVerifyComplete, hb, hp, ho, hv, State.done]
      · simp [answer]
    | false =>
      have hq : s.pageQuiet p = true := by simpa [ho, hv] using hw
      cases hscan : scanWords (s.pageWords f p) ⟨[], 0, none⟩ 0 with
      | some x =>
        obtain ⟨r, n⟩ := x
        refine ⟨s.vfyAnswer f 2 r.code.toNat n, ?_, State.onlyFunc_modFunc .., ?_⟩
        · simp [execVerifyComplete, hb, hp, ho, hv, hq, hscan, State.done]
        · simp [answer]
      | none =>
        refine ⟨(s.markVerified f p).vfyAnswer f 1 0 0, ?_, ⟨fun g hg => State.func_modFunc_ne hg _, rfl, rfl, rfl⟩, ?_⟩
        · simp [execVerifyComplete, hb, hp, ho, hv, hq, hscan, State.done]
        · have hfn := State.func_vfyAnswer (s := s.markVerified f p) (show f < (s.markVerified f p).funcs.length from hf) 1 0 0
          have hpage : ∀ q, ((s.markVerified f p).vfyAnswer f 1 0 0).verifiedPage q = (s.verifiedPage q || p == q) :=
            State.verifiedPage_markVerified s f p
          simp only [hfn, hpage, Bool.true_eq_false, false_implies, true_and, reduceCtorEq, beq_self_eq_true, Bool.or_true, forall_const]
          exact fun q hq => by simp [Ne.symm hq]

end

/-- A release of a page: its mark and its cached translations are gone (R100, R382). -/
theorem verifyRelease_accepted {s : State} (ha : s.accepts = true) {f : Nat} (hf : f < s.funcs.length) (hb : (s.func f).vfyBusy = false) {v : Word64} {p : Nat}
    (hp : v.toNat / 65536 % 2 ^ 36 = p) :
    ∃ t, exec (.verifyRelease f v) s = .next t ∧ Claims.OnlyFunc s t f ∧
      (s.owns f (p * 65536) 65536 = false → (t.func f).vfyResult = 4 ∧ t.verified = s.verified) ∧
      (s.owns f (p * 65536) 65536 = true → (t.func f).vfyResult = 3 ∧ t.verifiedPage p = false ∧
        (∀ q, q ≠ p → t.verifiedPage q = s.verifiedPage q) ∧ (∀ c ∈ t.cores, ∀ e ∈ c.tlb, e.page ≠ p) ∧
        ∀ w ∈ t.towers, ∀ e ∈ w.tlb, e.page ≠ p) := by
  obtain ⟨u, hu⟩ : ∃ u, u = s.modFunc f fun g => { g with vfyReq := p, vfyOp := true } := ⟨_, rfl⟩
  have howns : u.owns f (p * 65536) 65536 = s.owns f (p * 65536) 65536 := by
    rw [hu, State.owns_modFunc s f (h := fun g => { g with vfyReq := p, vfyOp := true }) (fun _ => rfl) (fun _ => rfl)]
  have hfu : f < u.funcs.length := by simpa [hu, State.modFunc] using hf
  have others : ∀ {t : State} (h : Func → Func), t.funcs = u.funcs → ∀ g, g ≠ f → (t.modFunc f h).func g = s.func g := fun {t} h ht g hg => by
    rw [State.func_modFunc_ne hg, State.func, ht, hu]
    exact State.func_modFunc_ne hg _
  have hx : exec (.verifyRelease f v) s = if !u.owns f (p * 65536) 65536 then (u.vfyAnswer f 4 0 0).done
      else (State.vfyAnswer { u.dropTlb fun e => e.page == p with verified := u.verified.filter fun v => v.page != p } f 3 0 0).done := by
    change execVerifyRelease f v s = _
    simp only [execVerifyRelease, toNat_pageField, hp, hb, ha, Bool.not_true, Bool.or_self, Bool.false_eq_true, if_false, hu]
    rfl
  rw [hx, howns]
  subst hu
  cases ho : s.owns f (p * 65536) 65536 with
  | false =>
    refine ⟨_, rfl, ⟨others _ rfl, rfl, rfl, rfl⟩, fun _ => ⟨?_, rfl⟩, nofun⟩
    rw [State.func_vfyAnswer hfu]
  | true =>
    refine ⟨_, rfl, ⟨others _ rfl, rfl, rfl, rfl⟩, nofun, fun _ => ⟨?_, ?_, fun q hq => ?_, ?_, ?_⟩⟩
    · rw [State.func_vfyAnswer (by exact hfu)]
    · simp [State.verifiedPage, State.vfyAnswer, State.modFunc]
    · simp only [State.verifiedPage, State.vfyAnswer, State.modFunc, List.any_filter]
      congr 1
      funext x
      by_cases hp : x.page = q
      · simp [hp, hq]
      · simp [hp]
    · simp [State.vfyAnswer, State.modFunc, State.dropTlb]
    · simp [State.vfyAnswer, State.modFunc, State.dropTlb]

/-! ### Keys (R278) -/

/-- A key command of the PF begins where the device accepts it (R278, R279). -/
theorem keyAsk_accepted {s : State} (hc : s.keyCmd = none) (key : Nat) : if s.recovery = true
    then exec (.keyLoad Config.pf key) s = .next s ∧ exec (.keyErase Config.pf key) s = .next s
    else exec (.keyLoad Config.pf key) s = .next { s with keyCmd := some (true, key % 128) } ∧
      exec (.keyErase Config.pf key) s = .next { s with keyCmd := some (false, key % 128) } := by
  change if s.recovery = true then s.keyAsk Config.pf key true = _ ∧ s.keyAsk Config.pf key false = _
    else s.keyAsk Config.pf key true = _ ∧ s.keyAsk Config.pf key false = _
  split
  · next h => simp [State.keyAsk, State.accepts, h, State.done]
  · next h => simp [State.keyAsk, State.accepts, h, hc, State.done]

/-- What was written under a lost pair stands under none that can be loaded; the other blocks keep theirs (R278). -/
theorem sealOf_lose (t : Seals) (p : List Word64) (a : Nat) :
    sealOf (t.lose p) a = (sealOf t a).map fun w => if w = p then [] else w := by
  unfold sealOf Seals.lose
  rw [List.find?_map]
  have hf : (fun x : Nat × List Word64 => x.1 == a / 16) ∘ (fun x => if x.2 = p then (x.1, []) else x) = fun x => x.1 == a / 16 := by
    funext x
    simp only [Function.comp]
    split <;> rfl
  rw [hf, Option.map_map, Option.map_map]
  congr 1
  funext x
  simp only [Function.comp]
  split <;> rfl

theorem keyCommandComplete_answers {s : State} {load : Bool} {key : Nat} (hc : s.keyCmd = some (load, key)) (hk : key < s.keys.length) :
    ∃ t, exec .keyCommandComplete s = .next t ∧ t.keyCmd = none ∧ t.mem = s.mem ∧
      (s.busyFunc key = true → t.keyResult = 2 ∧ t.keys = s.keys ∧ t.seals = s.seals) ∧
      (s.busyFunc key = false → t.keyResult = 1 ∧ t.keys.getD key none = (if load then some s.keyData else none) ∧
        (∀ k, k ≠ key → t.keys.getD k none = s.keys.getD k none) ∧ (load = true → t.seals = s.seals) ∧
        (load = false → ∀ p, s.keys.getD key none = some p → ∀ a,
          (sealOf s.seals a = some p → sealOf t.seals a = some []) ∧ (sealOf s.seals a ≠ some p → sealOf t.seals a = sealOf s.seals a))) := by
  have hx : exec .keyCommandComplete s = if s.busyFunc key then State.done { s with keyCmd := none, keyResult := 2 }
      else State.done { s.setKey key (if load then some s.keyData else none) with keyCmd := none, keyResult := 1 } := by
    change execKeyCommandComplete s = _
    rw [execKeyCommandComplete, hc]
  have at_key : ∀ x : Option (List Word64), (s.keys.set key x).getD key none = x := fun x => by simp [List.getD_eq_getElem?_getD, hk]
  have off_key : ∀ (x : Option (List Word64)) k, k ≠ key → (s.keys.set key x).getD k none = s.keys.getD k none :=
    fun x k h => by simp [List.getD_eq_getElem?_getD, Ne.symm h]
  rw [hx]
  cases hb : s.busyFunc key with
  | true => exact ⟨_, rfl, rfl, rfl, fun _ => ⟨rfl, rfl, rfl⟩, nofun⟩
  | false =>
    cases load with
    | true => exact ⟨_, rfl, rfl, rfl, nofun, fun _ => ⟨rfl, at_key _, off_key _, fun _ => rfl, nofun⟩⟩
    | false =>
      cases hp : s.pair key with
      | none =>
        have hset : s.setKey key none = { s with keys := s.keys.set key none } := by simp [State.setKey, State.loseKey, hp]
        simp only [Bool.false_eq_true, if_false, hset]
        exact ⟨_, rfl, rfl, rfl, nofun, fun _ => ⟨rfl, at_key _, off_key _, nofun, fun _ p h => absurd (hp.symm.trans h) nofun⟩⟩
      | some p =>
        have hset : s.setKey key none = { s with
            keys := s.keys.set key none, seals := s.seals.lose p
            towers := s.towers.map fun t => { t with log := t.log.map fun v => { v with seals := v.seals.lose p } } } := by
          simp [State.setKey, State.loseKey, hp]
        simp only [Bool.false_eq_true, if_false, hset]
        refine ⟨_, rfl, rfl, rfl, nofun, fun _ => ⟨rfl, at_key _, off_key _, nofun, fun _ q h a => ?_⟩⟩
        obtain rfl : q = p := Option.some.inj (h.symm.trans hp)
        change (_ → sealOf (s.seals.lose q) a = _) ∧ (_ → sealOf (s.seals.lose q) a = _)
        rw [sealOf_lose]
        cases sealOf s.seals a with
        | none => exact ⟨nofun, fun _ => rfl⟩
        | some w => by_cases hw : w = q <;> simp [hw]

/-! ### Attestation and invalidation, as commands (R277, R280) -/

theorem attestationRequest_accepted {s : State} (ha : s.accepts = true) {f : Nat} (hb : (s.func f).attBusy = false) (v : Word64) :
    exec (.attestationRequest f v) s = .next (s.modFunc f fun g =>
      { g with attBusy := true, attAddr := v.toNat / 4096 % 2 ^ 40, attStart := v.toNat % 4096 }) := by
  have haddr : fieldOf v 12 40 = v.toNat / 4096 % 2 ^ 40 := rfl
  have hstart : fieldOf v 0 12 = v.toNat % 4096 := by unfold fieldOf; omega
  change execAttestationRequest f v s = _
  simp only [execAttestationRequest, hb, ha, Bool.not_true, Bool.or_self, Bool.false_eq_true, if_false, State.done, haddr, hstart]

/-- A report on its way keeps BUSY set while a line of it waits at its home (R280). -/
theorem attestationComplete_sent {s : State} {f : Nat} (hb : (s.func f).attBusy = true) (ho : (s.func f).attOut ≠ []) :
    (s.waiting (s.func f).attOut = true → exec (.attestationComplete f) s = .next s) ∧
    (s.waiting (s.func f).attOut = false →
      exec (.attestationComplete f) s = .next (s.modFunc f fun g => { g with attBusy := false, attOut := [] })) := by
  have hx : exec (.attestationComplete f) s = .next (s.endReport f) := by
    change execAttestationComplete f s = _
    simp [execAttestationComplete, hb, ho, State.done]
  rw [hx]
  exact ⟨fun h => by rw [State.endReport, if_pos h], fun h => by rw [State.endReport, if_neg (by simp [h])]⟩

/-- In recovery the device takes no command of these (R279). -/
theorem commands_ignored {s : State} (h : s.accepts = false) (f b j : Nat) (reg : BarReg) (v : Word64) (x : Word) :
    exec (.registerWrite b f reg v) s = .next s ∧ exec (.fcoreWrite b f j v) s = .next s ∧ exec (.fsliceWrite b f x) s = .next s ∧
    exec (.fpinWrite b f x) s = .next s ∧ exec (.suspend b f) s = .next s ∧ exec (.unsuspend b f) s = .next s ∧
    exec (.attestationRequest f v) s = .next s ∧ exec (.translationInvalidate f v) s = .next s := by
  have pf : ∀ k, s.onlyPF b f k = .next s := State.onlyPF_ignored (.inl h)
  refine ⟨registerWrite_ignored (.inl h) reg v, by change execFcoreWrite b f j v s = _; exact pf _, by change execFsliceWrite b f x s = _; exact pf _,
    by change execFpinWrite b f x s = _; exact pf _, by change execSuspend b f s = _; exact pf _, by change execUnsuspend b f s = _; exact pf _, ?_, ?_⟩
  · change execAttestationRequest f v s = _
    simp [execAttestationRequest, h, State.done]
  · change execTranslationInvalidate f v s = _
    simp [execTranslationInvalidate, h, State.done]

/-- FSLICE and FPIN are at least 1,024 (R70, R189). -/
theorem limits_written {s : State} (ha : s.accepts = true) (f : Nat) (v : Word) :
    exec (.fsliceWrite Config.pf f v) s = .next (s.modFunc f fun g => { g with fslice := max 1024 (v.toNat % 2 ^ 17) }) ∧
    exec (.fpinWrite Config.pf f v) s = .next (s.modFunc f fun g => { g with fpin := max 1024 (v.toNat % 2 ^ 24) }) :=
  ⟨by change execFsliceWrite Config.pf f v s = _; exact State.onlyPF_accepted ha f _,
    by change execFpinWrite Config.pf f v s = _; exact State.onlyPF_accepted ha f _⟩

/-- The translations of a request are gone, and BUSY clears with the last access that was translated before (R277). -/
theorem invalidateComplete_answers {s : State} {f : Nat} (hf : f < s.funcs.length) (hb : (s.func f).invBusy = true) :
    ∃ t, exec (.invalidateComplete f) s = .next t ∧ Claims.OnlyFunc s t f ∧ (t.func f).invBusy = s.accessesOut f ∧
      (∀ c ∈ t.cores, ∀ e ∈ c.tlb, e.func = f → (s.func f).invAll = false ∧ e.vpage ≠ (s.func f).invPage) ∧
      ∀ w ∈ t.towers, ∀ e ∈ w.tlb, e.func = f → (s.func f).invAll = false ∧ e.vpage ≠ (s.func f).invPage := by
  obtain ⟨u, hu⟩ : ∃ u, u = s.dropTlb ((s.func f).invMatch f) := ⟨_, rfl⟩
  have hcore : ∀ c, (u.core c).pins = (s.core c).pins := fun c => by
    rw [hu, State.core, State.core, State.dropTlb, List.getD_eq_getElem?_getD, List.getD_eq_getElem?_getD, List.getElem?_map]
    cases s.cores[c]? <;> rfl
  have hlen : u.cores.length = s.cores.length := by simp [hu, State.dropTlb]
  have hout : u.accessesOut f = s.accessesOut f := by
    unfold State.accessesOut
    simp only [hcore, hlen]
    rw [hu]
    rfl
  have gone : ∀ l : List TlbEntry, ∀ e ∈ l.filter fun e => !(s.func f).invMatch f e, e.func = f →
      (s.func f).invAll = false ∧ e.vpage ≠ (s.func f).invPage := fun l e he hf => by
    have := (List.mem_filter.mp he).2
    simpa [Func.invMatch, hf] using this
  have cores : ∀ c ∈ u.cores, ∀ e ∈ c.tlb, e.func = f → (s.func f).invAll = false ∧ e.vpage ≠ (s.func f).invPage := by
    intro c hc
    rw [hu] at hc
    obtain ⟨d, _, rfl⟩ := List.mem_map.mp hc
    exact gone d.tlb
  have towers : ∀ c ∈ u.towers, ∀ e ∈ c.tlb, e.func = f → (s.func f).invAll = false ∧ e.vpage ≠ (s.func f).invPage := by
    intro c hc
    rw [hu] at hc
    obtain ⟨d, _, rfl⟩ := List.mem_map.mp hc
    exact gone d.tlb
  have hx : exec (.invalidateComplete f) s = if u.accessesOut f then u.done else (u.modFunc f fun g => { g with invBusy := false }).done := by
    change execInvalidateComplete f s = _
    simp only [execInvalidateComplete, hb, Bool.not_true, Bool.false_eq_true, if_false, hu]
  rw [hx, hout]
  subst hu
  cases s.accessesOut f with
  | true => exact ⟨_, rfl, ⟨fun _ _ => rfl, rfl, rfl, rfl⟩, hb, cores, towers⟩
  | false => exact ⟨_, rfl, State.onlyFunc_modFunc _ f _, by rw [State.func_modFunc_self (by exact hf)], cores, towers⟩

end Sys2Proof.Machine
end

section
/-! SUPPORT. The report of an attestation (R280): it is sent line by line to the homes, and what is written there is read back. -/

namespace Sys2Proof.Machine

theorem nodup_distinct (l : List Nat) : (distinct l).Nodup := by
  induction l with
  | nil => exact List.nodup_nil
  | cons x r ih => exact List.nodup_cons.mpr ⟨fun h => by simp at h, ih.filter _⟩

/-- Nothing is on its way, pinned or registered: what is sent to a home is performed there at once (R173, R187, R231). -/
structure State.Clear (s : State) : Prop where
  reqs : s.reqs = []
  pins : ∀ c ∈ s.cores, c.pins = []
  free : Claims.Unregistered s

theorem State.Clear.stored {s t : State} (h : s.Clear) (k : s.Stored t) : t.Clear :=
  ⟨k.reqs.trans h.reqs, fun c hc => h.pins c (k.cores ▸ hc), k.unregistered h.free⟩

/-- A store of an engine: no wave waits for it, and no cache shows it. -/
structure Req.Bare (r : Req) : Prop where
  wave : r.wave = none
  kind : r.kind = .store
  strong : r.strong = []
  via : r.via = .other

/-- A store that is sent where nothing waits is performed as one event. -/
theorem State.flushLine_send {s : State} (h : s.Clear) {r : Req} (hr : r.Bare) :
    (s.send r).flushLine r.line = (State.homeStore { s with reqs := [], nextReq := s.nextReq + 1 } { r with id := s.nextReq } none).1 := by
  obtain ⟨hw, hk, hs, hv⟩ := hr
  have hpin : (s.send r).pinned (r.bytes.map fun b => b.1) = false := by
    simp only [State.pinned, State.send, h.reqs, List.nil_append, List.any_cons, List.any_nil, Bool.or_false, Bool.or_eq_false_iff, hk]
    refine ⟨List.any_eq_false.mpr fun c hc => ?_, rfl⟩
    simp [h.pins c hc]
  have hblocked : (s.send r).blocked { r with id := s.nextReq } = false := by
    have hkeep : (s.send r).keepOf r.line = none := State.keepOf_of_unregistered h.free r.line
    simp only [State.blocked, hkeep, hpin, Bool.and_false, Bool.or_false]
  have hperform : (s.send r).flushLine r.line = (s.send r).perform { r with id := s.nextReq } := by
    unfold State.flushLine State.performWhere
    rw [show (s.send r).reqs = [{ r with id := s.nextReq }] by simp [State.send, h.reqs]]
    simp [State.performList, hblocked]
  rw [hperform]
  unfold State.perform
  simp [State.send, h.reqs, State.ack, State.noteStrong, State.showDirect, hw, hk, hs, hv]

/-- Its bytes are written through their key, and nothing else is. -/
theorem State.Unwritten.flushLine_send {s : State} (h : s.Clear) {r : Req} (hr : r.Bare) (hp : peerOf r.line = 0) :
    (s.pokeBy r.key r.bytes).Unwritten ((s.send r).flushLine r.line) := by
  rw [State.flushLine_send h hr]
  have hs : s.Unwritten { s with reqs := [], nextReq := s.nextReq + 1 } := ⟨⟨⟨rfl, rfl, rfl⟩, rfl, h.reqs.symm, rfl, rfl, rfl⟩, rfl, rfl⟩
  exact (hs.pokeBy r.key r.bytes).trans (Unwritten.homeStore (r := { r with id := s.nextReq }) none hp h.free)

/-! ### A write that is sent line by line (R163) -/

/-- A way to read memory through a slot that holds `p`: it looks at memory, its keys and the slots, and gives what was written through the slot. -/
structure KeyReader (p : Option (List Word64)) (key : Nat) (rd : State → Nat → Byte) : Prop where
  congr : ∀ {s t : State}, t.mem = s.mem → t.seals = s.seals → t.keys = s.keys → rd t = rd s
  back : ∀ (s : State) (bs : List (Nat × Byte)), s.pair key = p → (bs.map fun b => b.1).Nodup →
    (∀ b ∈ bs, rd (s.pokeBy key bs) b.1 = b.2) ∧ ∀ a, a ∉ bs.map (fun b => b.1) → rd (s.pokeBy key bs) a = rd s a

/-- The request of a write for one of its lines, as `State.sysSend` sends it. -/
def lineReq (f key : Nat) (floor : Stamp) (bs : List (Nat × Byte)) (l : Nat) : Req :=
  ⟨0, none, f, l, bs.filter fun b => lineOf b.1 == l, floor, key, .dflt, [], .store, .other⟩

theorem lineReq_bare (f key : Nat) (floor : Stamp) (bs : List (Nat × Byte)) (l : Nat) : (lineReq f key floor bs l).Bare := ⟨rfl, rfl, rfl, rfl⟩

/-- One line of a write, sent and performed. -/
def State.sendLine (f key : Nat) (floor : Stamp) (bs : List (Nat × Byte)) (s : State) (l : Nat) : State :=
  (s.send (lineReq f key floor bs l)).flushLine l

section
variable {s : State} {p : Option (List Word64)} {f key : Nat} {floor : Stamp} {bs : List (Nat × Byte)} {l : Nat} {rd : State → Nat → Byte}

theorem State.Unwritten.sendLine (h : s.Clear) (hl : peerOf l = 0) :
    (s.pokeBy key (bs.filter fun b => lineOf b.1 == l)).Unwritten (State.sendLine f key floor bs s l) :=
  Unwritten.flushLine_send h (lineReq_bare f key floor bs l) hl

theorem State.Stored.sendLine (h : s.Clear) (hl : peerOf l = 0) : s.Stored (State.sendLine f key floor bs s l) :=
  (Stored.pokeBy ..).trans (Unwritten.sendLine h hl).toStored

/-- What a line's own bytes read as, and the bytes of other lines. -/
theorem State.reads_sendLine (hrd : KeyReader p key rd) (hp : s.pair key = p) (hn : (bs.map fun b => b.1).Nodup) (h : s.Clear) (hl : peerOf l = 0) :
    (∀ b ∈ bs, lineOf b.1 = l → rd (State.sendLine f key floor bs s l) b.1 = b.2) ∧
      ∀ a, lineOf a ≠ l → rd (State.sendLine f key floor bs s l) a = rd s a := by
  have hu := Unwritten.sendLine (f := f) (key := key) (floor := floor) (bs := bs) h hl
  obtain ⟨written, others⟩ := hrd.back s (bs.filter fun b => lineOf b.1 == l) hp (hn.sublist (List.filter_sublist.map _))
  rw [hrd.congr hu.mem hu.seals hu.keys]
  refine ⟨fun b hb he => written b (List.mem_filter.mpr ⟨hb, by simp [he]⟩), fun a ha => others a fun hm => ?_⟩
  obtain ⟨b, hb, rfl⟩ := List.mem_map.mp hm
  exact ha (by simpa using (List.mem_filter.mp hb).2)

/-- Lines sent one after the other: each byte of theirs reads as it was sent. -/
theorem State.reads_sendLines (hrd : KeyReader p key rd) (hn : (bs.map fun b => b.1).Nodup) {ls : List Nat} (hls : ls.Nodup)
    (hp : ∀ l ∈ ls, peerOf l = 0) (h : s.Clear) (hk : s.pair key = p) :
    let t := ls.foldl (State.sendLine f key floor bs) s
    s.Stored t ∧ (∀ b ∈ bs, lineOf b.1 ∈ ls → rd t b.1 = b.2) ∧ ∀ a, lineOf a ∉ ls → rd t a = rd s a := by
  induction ls generalizing s with
  | nil => exact ⟨.refl s, nofun, fun _ _ => rfl⟩
  | cons l r ih =>
    obtain ⟨hl, hr⟩ := List.nodup_cons.mp hls
    have hpl := hp l List.mem_cons_self
    have stored := Stored.sendLine (f := f) (key := key) (floor := floor) (bs := bs) h hpl
    obtain ⟨here, there⟩ := State.reads_sendLine (f := f) (floor := floor) hrd hk hn h hpl
    obtain ⟨later, written, others⟩ := ih hr (fun m hm => hp m (List.mem_cons_of_mem _ hm)) (h.stored stored)
      (by rw [← hk]; unfold State.pair; rw [stored.keys])
    refine ⟨stored.trans later, fun b hb hm => ?_, fun a ha => ?_⟩
    · by_cases hbr : lineOf b.1 ∈ r
      · exact written b hb hbr
      · exact (others b.1 hbr).trans (here b hb ((List.mem_cons.mp hm).resolve_right hbr))
    · exact (others a fun hm => ha (List.mem_cons_of_mem _ hm)).trans (there a fun he => ha (he ▸ List.mem_cons_self))

end

/-- Lines sent through an empty slot leave the keys of the blocks. -/
theorem State.seals_sendLines {s : State} {f key : Nat} {floor : Stamp} {bs : List (Nat × Byte)} {ls : List Nat} (hp : ∀ l ∈ ls, peerOf l = 0)
    (h : s.Clear) (hk : s.pair key = none) : (ls.foldl (State.sendLine f key floor bs) s).seals = s.seals := by
  induction ls generalizing s with
  | nil => rfl
  | cons l r ih =>
    have hpl := hp l List.mem_cons_self
    have stored := Stored.sendLine (f := f) (key := key) (floor := floor) (bs := bs) h hpl
    have hu := Unwritten.sendLine (f := f) (key := key) (floor := floor) (bs := bs) h hpl
    rw [List.foldl_cons, ih (fun m hm => hp m (List.mem_cons_of_mem _ hm)) (h.stored stored) (by rw [← hk]; unfold State.pair; rw [stored.keys]),
      hu.seals, State.pokeBy, State.reseal_of_none hk]
    rfl

/-! ### Ways to read (R163) -/

theorem KeyReader.peekBy_loaded (p : List Word64) (key : Nat) : KeyReader (some p) key fun s => s.peekBy key where
  congr hm hs hk := by
    funext a
    unfold State.peekBy State.pair State.peek
    rw [hm, hs, hk]
  back _ _ hp hn := ⟨fun _ hb => State.peekBy_pokeBy_of_mem hp hn hb, fun _ ha => State.peekBy_pokeBy_of_not_mem hp ha⟩

theorem KeyReader.peek_keyless (key : Nat) : KeyReader none key State.peek where
  congr hm _ _ := by
    funext a
    unfold State.peek
    rw [hm]
  back s bs hp hn := by
    rw [State.pokeBy, State.reseal_of_none hp]
    exact ⟨fun b hb => State.peek_poke_of_mem s hn hb, fun a ha => State.peek_poke_of_not_mem s fun b hb he => ha (List.mem_map.mpr ⟨b, hb, he⟩)⟩

theorem KeyReader.peekBy_keyless (h : KeylessPlain) (key : Nat) : KeyReader none key fun s => s.peekBy key where
  congr hm hs hk := by
    funext a
    unfold State.peekBy State.pair State.peek
    rw [hm, hs, hk]
  back s bs hp hn := by
    obtain ⟨written, others⟩ := (KeyReader.peek_keyless key).back s bs hp hn
    have hp' : (s.pokeBy key bs).pair key = none := by rw [State.pokeBy, State.reseal_of_none hp]; exact hp
    exact ⟨fun b hb => (State.peekBy_of_keyless h hp' _).trans (written b hb),
      fun a ha => (State.peekBy_of_keyless h hp' _).trans ((others a ha).trans (State.peekBy_of_keyless h hp _).symm)⟩

/-! ### The report (R280) -/

theorem nodup_placeBytes (a : Nat) (bs : List Byte) : ((placeBytes a bs).map fun b => b.1).Nodup := by
  rw [placeBytes_addresses]; exact List.nodup_range'

theorem getD_mem_placeBytes {a k : Nat} {bs : List Byte} (hk : k < bs.length) : (a + k, bs.getD k 0) ∈ placeBytes a bs := by
  refine List.mem_of_getElem? (i := k) ?_
  rw [placeBytes_getElem?, List.getElem?_eq_getElem hk, List.getD_eq_getElem?_getD, List.getElem?_eq_getElem hk]
  rfl

/-- The pages of a function's own bytes are under its key. -/
theorem keyIn_ownPages {f a n x : Nat} (hl : a ≤ x) (hu : x < a + n) : keyIn (ownPages f a n) (x / 65536) = f := by
  have hm : (⟨0, x / 65536, f⟩ : PageUse) ∈ ownPages f a n := by
    refine List.mem_map.mpr ⟨max a (x / 65536 * 65536), ?_, by rw [show max a (x / 65536 * 65536) / 65536 = x / 65536 by omega]⟩
    unfold pageStarts
    rw [if_neg (by omega)]
    exact List.mem_map.mpr ⟨x / 65536 - a / 65536, List.mem_range.mpr (by omega), by
      rw [show a / 65536 + (x / 65536 - a / 65536) = x / 65536 by omega]⟩
  unfold keyIn
  cases hf : (ownPages f a n).find? fun y => y.page == x / 65536 with
  | none => simpa using List.find?_eq_none.mp hf _ hm
  | some y =>
    obtain ⟨z, _, rfl⟩ := List.mem_map.mp (List.mem_of_find?_eq_some hf)
    rfl

/-- A write of the function in its own memory, sent to the homes. -/
theorem State.sysSend_own {s : State} {f a : Nat} {bs : List Byte} (floor : Stamp) :
    (s.sysSend f (ownPages f a bs.length) (placeBytes a bs) floor).1 =
      (byteLines (placeBytes a bs)).foldl (State.sendLine f f floor (placeBytes a bs)) s := by
  have same : ∀ l ∈ byteLines (placeBytes a bs), keyIn (ownPages f a bs.length) (l / 65536) = f := fun l hl => by
    obtain ⟨b, hb, rfl⟩ := List.mem_map.mp (mem_distinct.mp hl)
    obtain ⟨h1, h2⟩ := mem_placeBytes hb
    rw [show lineOf b.1 / 65536 = b.1 / 65536 by unfold lineOf; omega]
    exact keyIn_ownPages h1 h2
  unfold State.sysSend
  dsimp only
  generalize byteLines (placeBytes a bs) = ls at same
  induction ls generalizing s with
  | nil => rfl
  | cons l r ih =>
    rw [List.foldl_cons, List.foldl_cons, same l List.mem_cons_self, ih fun m hm => same m (List.mem_cons_of_mem _ hm)]
    rfl

section
variable {s : State} {f a : Nat} {bs : List Byte} {p : Option (List Word64)} {rd : State → Nat → Byte}

theorem State.reads_sysSend (hrd : KeyReader p f rd) (h : s.Clear) (hk : s.pair f = p) (ha : a + bs.length ≤ Config.memoryBytes) (floor : Stamp) :
    let t := (s.sysSend f (ownPages f a bs.length) (placeBytes a bs) floor).1
    s.Stored t ∧ (s.pair f = none → t.seals = s.seals) ∧ ∀ k, k < bs.length → rd t (a + k) = bs.getD k 0 := by
  have near : ∀ l ∈ byteLines (placeBytes a bs), peerOf l = 0 := fun l hl => by
    obtain ⟨b, hb, rfl⟩ := List.mem_map.mp (mem_distinct.mp hl)
    have := (mem_placeBytes hb).2
    unfold Config.memoryBytes at ha
    unfold peerOf lineOf
    omega
  rw [State.sysSend_own]
  obtain ⟨stored, written, -⟩ := State.reads_sendLines (f := f) (floor := floor) hrd (nodup_placeBytes a bs) (nodup_distinct _) near h hk
  refine ⟨stored, State.seals_sendLines near h, fun k hkn => written _ (getD_mem_placeBytes hkn) (mem_distinct.mpr ?_)⟩
  exact List.mem_map_of_mem (getD_mem_placeBytes hkn)

/-- The report is sent, and BUSY clears where nothing holds it up. -/
theorem attestationComplete_sends (hf : f < s.funcs.length) (hb : (s.func f).attBusy = true) (ho : (s.func f).attOut = [])
    (own : s.owns f ((s.func f).attAddr * 4096) (s.attestation f).length = true)
    (unverified : s.meetsVerified ((s.func f).attAddr * 4096) (s.attestation f).length = false)
    (ha : (s.func f).attAddr * 4096 + (s.attestation f).length ≤ Config.memoryBytes) (h : s.Clear)
    (hrd : KeyReader (s.pair f) f rd) :
    ∃ t, exec (.attestationComplete f) s = .next t ∧ (t.func f).attBusy = false ∧ (t.func f).attMore = (s.attested f).2 ∧
      t.keys = s.keys ∧ (s.pair f = none → t.seals = s.seals) ∧ ∀ k, k < (s.attestation f).length → rd t ((s.func f).attAddr * 4096 + k) = (s.attestation f).getD k 0 := by
  have hx : exec (.attestationComplete f) s = .next ((s.sendReport f).endReport f) := by
    change execAttestationComplete f s = _
    simp [execAttestationComplete, hb, ho, own, unverified, State.done]
  have hsend : s.sendReport f = (s.sysSend f (ownPages f ((s.func f).attAddr * 4096) (s.attestation f).length)
      (placeBytes ((s.func f).attAddr * 4096) (s.attestation f)) s.countQuery).1.modFunc f fun g => { g with
        attMore := (s.attested f).2
        attOut := (s.sysSend f (ownPages f ((s.func f).attAddr * 4096) (s.attestation f).length)
          (placeBytes ((s.func f).attAddr * 4096) (s.attestation f)) s.countQuery).2 } := rfl
  obtain ⟨stored, seals, written⟩ := State.reads_sysSend hrd h rfl ha s.countQuery
  rw [hx, hsend]
  generalize s.sysSend f (ownPages f ((s.func f).attAddr * 4096) (s.attestation f).length)
    (placeBytes ((s.func f).attAddr * 4096) (s.attestation f)) s.countQuery = x at stored seals written
  have hlen : f < x.1.funcs.length := by
    have := congrArg List.length stored.funcs
    simp only [List.length_map] at this
    rw [this]
    exact hf
  obtain ⟨u, hu⟩ : ∃ u, u = x.1.modFunc f fun g => { g with attMore := (s.attested f).2, attOut := x.2 } := ⟨_, rfl⟩
  have hlen' : f < u.funcs.length := by simpa [hu, State.modFunc] using hlen
  have hreqs : u.reqs = [] := by rw [hu]; exact stored.reqs.trans h.reqs
  have hend : u.endReport f = u.modFunc f fun g => { g with attBusy := false, attOut := [] } := by
    rw [State.endReport, State.waiting, hreqs]
    rfl
  have hmore : (u.func f).attMore = (s.attested f).2 := by rw [hu, State.func_modFunc_self hlen]
  have hkeys : u.keys = s.keys := by rw [hu]; exact stored.keys
  have hseals : u.seals = x.1.seals := by rw [hu]; rfl
  have hreads : rd (u.modFunc f fun g => { g with attBusy := false, attOut := [] }) = rd x.1 := by
    rw [hu]
    exact hrd.congr rfl rfl rfl
  rw [← hu, hend]
  refine ⟨_, rfl, by rw [State.func_modFunc_self hlen'], ?_, hkeys, fun hp => hseals.trans (seals hp), fun k hk => ?_⟩
  · rw [State.func_modFunc_self hlen']
    exact hmore
  · rw [hreads]
    exact written k hk

end

end Sys2Proof.Machine
end

section
/-! SUPPORT. Suspension (R276): which blocks a suspension chooses and an unsuspension keeps, and what both leave alone. -/

namespace Sys2Proof.Machine

/-! ### What only waves and the choice of victims change -/

/-- Waves and blocks are all that has changed. -/
def State.BlocksOnly (s t : State) : Prop := ∃ ws bs, t = { s with waves := ws, blocks := bs }

theorem State.BlocksOnly.refl (s : State) : s.BlocksOnly s := ⟨s.waves, s.blocks, rfl⟩

theorem State.BlocksOnly.trans {s t u : State} (h : s.BlocksOnly t) (k : t.BlocksOnly u) : s.BlocksOnly u := by
  obtain ⟨_, _, rfl⟩ := h
  obtain ⟨ws, bs, rfl⟩ := k
  exact ⟨ws, bs, rfl⟩

theorem State.BlocksOnly.modWave (s : State) (i : Nat) (f : Wave → Wave) : s.BlocksOnly (s.modWave i f) := ⟨_, s.blocks, rfl⟩

theorem State.BlocksOnly.modBlock (s : State) (i : Nat) (f : Block → Block) : s.BlocksOnly (s.modBlock i f) := ⟨s.waves, _, rfl⟩

section
variable {s t : State} (h : s.BlocksOnly t)
include h

theorem State.BlocksOnly.launches : t.launches = s.launches := by obtain ⟨_, _, rfl⟩ := h; rfl

theorem State.BlocksOnly.funcs : t.funcs = s.funcs := by obtain ⟨_, _, rfl⟩ := h; rfl

theorem State.BlocksOnly.mem : t.mem = s.mem := by obtain ⟨_, _, rfl⟩ := h; rfl

end

/-- Waves are all that has changed. -/
def State.WavesOnly (s t : State) : Prop := t.blocks = s.blocks ∧ s.BlocksOnly t

theorem State.WavesOnly.trans {s t u : State} (h : s.WavesOnly t) (k : t.WavesOnly u) : s.WavesOnly u := ⟨k.1.trans h.1, h.2.trans k.2⟩

theorem State.WavesOnly.refl (s : State) : s.WavesOnly s := ⟨rfl, .refl s⟩

theorem State.WavesOnly.modWave (s : State) (i : Nat) (f : Wave → Wave) : s.WavesOnly (s.modWave i f) := ⟨rfl, .modWave ..⟩

theorem State.WavesOnly.foldl {α : Type} (g : State → α → Nat) (f : State → α → Wave → Wave) (l : List α) (s : State) :
    s.WavesOnly (l.foldl (fun s x => s.modWave (g s x) (f s x)) s) :=
  foldl_rel WavesOnly.refl WavesOnly.trans (fun s x => WavesOnly.modWave s (g s x) (f s x)) l s

theorem State.block_modBlock_ne {s : State} {i j : Nat} (h : j ≠ i) (f : Block → Block) : (s.modBlock i f).block j = s.block j := by
  rw [State.block_modBlock, if_neg fun e => h e.1.symm]

theorem State.block_modBlock_self {s : State} {i : Nat} (h : i < s.blocks.length) (f : Block → Block) : (s.modBlock i f).block i = f (s.block i) := by
  rw [State.block_modBlock, if_pos ⟨rfl, h⟩]

theorem State.block_eq_of_blocks {s t : State} (h : t.blocks = s.blocks) (b : Nat) : t.block b = s.block b := by unfold State.block; rw [h]

/-- The cancelled choice of a block. -/
theorem State.WavesOnly.cancel (s : State) (c : Nat) : (s.modBlock c fun b => { b with victim := none, save := none }).WavesOnly (s.cancel c) :=
  .foldl (fun _ i => i) (fun _ _ w => { w with sliceDone := false }) ..

/-! ### The choice of a suspension -/

/-- A block chosen as victim: it alone changes. -/
theorem State.chooseVictim_frame {s t : State} {m : Nat × Nat} {c : Nat} (h : s.chooseVictim m c = some t) :
    s.BlocksOnly t ∧ (∀ b, b ≠ c → t.block b = s.block b) ∧ (c < s.blocks.length → (t.block c).victim = some (s.cycle (s.block c).core)) := by
  obtain ⟨a, -, rfl⟩ := Option.map_eq_some_iff.mp h
  have cancelled := WavesOnly.cancel s c
  have started := WavesOnly.foldl (fun _ (i : Nat) => i) (fun t _ w => w.startSlice (t.cycle (s.block c).core)) (s.block c).waves
    ((s.cancel c).modBlock c fun b => { b with victim := some (s.cycle b.core), victimFor := m, save := some (a, s.recordUnits c) })
  have other : ∀ b, b ≠ c → (s.cancel c).block b = s.block b := fun b hb =>
    (State.block_eq_of_blocks cancelled.1 b).trans (State.block_modBlock_ne hb _)
  have len : (s.cancel c).blocks.length = s.blocks.length := by rw [cancelled.1]; exact List.length_modify ..
  refine ⟨(BlocksOnly.modBlock s ..).trans (cancelled.2.trans ((BlocksOnly.modBlock ..).trans started.2)), fun b hb => ?_, fun hc => ?_⟩
  · exact (State.block_eq_of_blocks started.1 b).trans ((State.block_modBlock_ne hb _).trans (other b hb))
  · refine (congrArg Block.victim (State.block_eq_of_blocks started.1 c)).trans ?_
    rw [State.block_modBlock_self (len ▸ hc), State.block_eq_of_blocks cancelled.1, State.block_modBlock_self hc]

theorem State.reserveAll_frame {m : Nat × Nat} {l : List Nat} {s t : State} (h : State.reserveAll m l s = some t) :
    s.BlocksOnly t ∧ ∀ b, b ∉ l → t.block b = s.block b := by
  induction l generalizing s with
  | nil =>
    obtain rfl : s = t := Option.some.inj h
    exact ⟨.refl s, fun _ _ => rfl⟩
  | cons c r ih =>
    unfold State.reserveAll at h
    cases hc : s.chooseVictim m c with
    | none => rw [hc] at h; cases h
    | some u =>
      rw [hc] at h
      obtain ⟨frame, other, -⟩ := State.chooseVictim_frame hc
      obtain ⟨frame', other'⟩ := ih h
      exact ⟨frame.trans frame', fun b hb => (other' b fun hm => hb (List.mem_cons_of_mem _ hm)).trans (other b fun he => hb (he ▸ List.mem_cons_self))⟩

/-- The blocks that a suspension would choose with a block that is not chosen yet (R77). -/
def State.suspendUnit (s : State) (c : Nat) : List Nat :=
  if (s.launch (s.block c).launch).desc.cores then
    (s.heldOf (s.block c).launch).filter fun b => (s.block b).status == .resident && (s.block b).victim.isNone
  else [c]

theorem State.suspendBlock_of_chosen {s : State} {c : Nat} (hr : (s.block c).status = .resident) (hv : (s.block c).victim.isSome) :
    s.suspendBlock c = s.modBlock c fun b => { b with victimFor := s.suspendMark c } := by
  simp [State.suspendBlock, hr, hv]

theorem State.suspendBlock_of_free {s : State} {c : Nat} (hr : (s.block c).status = .resident) (hv : (s.block c).victim = none) :
    s.suspendBlock c = (State.reserveAll (s.suspendMark c) (s.suspendUnit c) s).getD s := by
  simp [State.suspendBlock, State.suspendUnit, hr, hv]

/-- A block that is chosen already takes the mark, and blocks that are chosen keep their choice. -/
theorem State.suspendBlock_frame (s : State) (c : Nat) : s.BlocksOnly (s.suspendBlock c) ∧
    ∀ b, (s.block b).victim.isSome → (s.suspendBlock c).block b =
      if b = c ∧ (s.block b).status = .resident then { s.block b with victimFor := s.suspendMark b } else s.block b := by
  by_cases hr : (s.block c).status = .resident
  · cases hv : (s.block c).victim with
    | some v =>
      rw [State.suspendBlock_of_chosen hr (by simp [hv])]
      refine ⟨.modBlock .., fun b hb => ?_⟩
      rw [State.block_modBlock]
      by_cases hbc : b = c
      · subst hbc
        have hlen : b < s.blocks.length := by
          refine Nat.lt_of_not_le fun hle => ?_
          rw [State.block, List.getD_eq_getElem?_getD, List.getElem?_eq_none hle] at hb
          cases hb
        simp [hr, hlen]
      · simp [hbc, Ne.symm hbc]
    | none =>
      rw [State.suspendBlock_of_free hr hv]
      have keep : ∀ b, (s.block b).victim.isSome → ¬ (b = c ∧ (s.block b).status = .resident) ∧ b ∉ s.suspendUnit c := fun b hb => by
        have hbc : b ≠ c := fun he => by rw [he, hv] at hb; cases hb
        refine ⟨fun h => hbc h.1, ?_⟩
        unfold State.suspendUnit
        split
        · intro hm
          have := (List.mem_filter.mp hm).2
          simp only [Bool.and_eq_true, Option.isNone_iff_eq_none] at this
          rw [this.2] at hb
          cases hb
        · simpa using hbc
      cases hres : State.reserveAll (s.suspendMark c) (s.suspendUnit c) s with
      | none => exact ⟨.refl s, fun b hb => (if_neg (keep b hb).1).symm⟩
      | some t =>
        obtain ⟨frame, other⟩ := State.reserveAll_frame hres
        exact ⟨frame, fun b hb => (other b (keep b hb).2).trans (if_neg (keep b hb).1).symm⟩
  · have hs : s.suspendBlock c = s := by simp [State.suspendBlock, hr]
    rw [hs]
    exact ⟨.refl s, fun b _ => (if_neg fun (h : b = c ∧ _) => hr (h.1 ▸ h.2)).symm⟩

theorem State.suspendMark_eq {s t : State} (h : s.BlocksOnly t) {b : Nat} (hb : (t.block b).launch = (s.block b).launch) :
    t.suspendMark b = s.suspendMark b := by
  unfold State.suspendMark State.launch
  rw [hb, h.launches]

/-- A suspension of some blocks: those that were chosen keep their choice, and the resident ones among them take the mark. -/
theorem State.suspendBlocks_frame (s : State) (l : List Nat) : s.BlocksOnly (l.foldl State.suspendBlock s) ∧
    ∀ b, (s.block b).victim.isSome → (s.block b).status = .resident →
      ((l.foldl State.suspendBlock s).block b).victim = (s.block b).victim ∧
      (b ∈ l ∨ (s.block b).victimFor = s.suspendMark b → ((l.foldl State.suspendBlock s).block b).victimFor = s.suspendMark b) := by
  induction l generalizing s with
  | nil => exact ⟨.refl s, fun b _ _ => ⟨rfl, fun h => h.resolve_left List.not_mem_nil⟩⟩
  | cons c r ih =>
    obtain ⟨frame, step⟩ := State.suspendBlock_frame s c
    obtain ⟨frame', rest⟩ := ih (s.suspendBlock c)
    refine ⟨frame.trans frame', fun b hv hr => ?_⟩
    have hstep := step b hv
    have hvictim : ((s.suspendBlock c).block b).victim = (s.block b).victim := by rw [hstep]; split <;> rfl
    have hstatus : ((s.suspendBlock c).block b).status = (s.block b).status := by rw [hstep]; split <;> rfl
    have hlaunch : ((s.suspendBlock c).block b).launch = (s.block b).launch := by rw [hstep]; split <;> rfl
    have hmark := State.suspendMark_eq frame hlaunch
    obtain ⟨hv', hm'⟩ := rest b (hvictim ▸ hv) (hstatus.trans hr)
    rw [hmark] at hm'
    refine ⟨hv'.trans hvictim, fun h => hm' ?_⟩
    rw [hstep]
    by_cases hbc : b = c
    · right; rw [if_pos ⟨hbc, hr⟩]
    · rw [if_neg fun h => hbc h.1]
      exact h.imp_left fun hm => (List.mem_cons.mp hm).resolve_left hbc

/-- The one resident block of a function is chosen by itself where its record fits. -/
theorem State.suspendBlock_alone {s : State} {f b : Nat} (hres : s.residentOf f = [b]) (hr : (s.block b).status = .resident)
    (hv : (s.block b).victim = none) (hslot : (s.saveSlot f b (s.recordUnits b)).isSome = true) :
    ((s.suspendBlock b).block b).victim = some (s.cycle (s.block b).core) := by
  have hb : b ∈ s.residentOf f := hres ▸ List.mem_cons_self
  obtain ⟨hlen, hfunc⟩ : b < s.blocks.length ∧ s.funcOfBlock (s.block b) = f := by
    obtain ⟨hl, hc⟩ := List.mem_filter.mp hb
    exact ⟨List.mem_range.mp hl, eq_of_beq (Bool.and_eq_true_iff.mp hc).2⟩
  have hunit : s.suspendUnit b = [b] := by
    unfold State.suspendUnit
    split
    · have same : (s.heldOf (s.block b).launch).filter (fun c => (s.block c).status == .resident && (s.block c).victim.isNone) =
          (s.residentOf f).filter fun c => (s.block c).launch == (s.block b).launch && (s.block c).status == .resident && (s.block c).victim.isNone := by
        unfold State.heldOf State.residentOf
        rw [List.filter_filter, List.filter_filter]
        refine List.filter_congr fun c _ => ?_
        by_cases hl : (s.block c).launch = (s.block b).launch
        · have hf : (s.launch (s.block b).launch).func = f := hfunc
          simp only [hl, hf, beq_self_eq_true, Bool.true_and, Bool.and_true, Block.holds]
        · simp only [beq_eq_false_iff_ne.mpr hl, Bool.false_and, Bool.and_false]
      rw [same, hres]
      simp [hr, hv]
    · rfl
  obtain ⟨a, ha⟩ := Option.isSome_iff_exists.mp hslot
  obtain ⟨t, ht⟩ : ∃ t, s.chooseVictim (s.suspendMark b) b = some t := by
    unfold State.chooseVictim
    dsimp only
    rw [hfunc, ha]
    exact ⟨_, rfl⟩
  rw [State.suspendBlock_of_free hr hv, hunit, State.reserveAll, ht]
  exact (State.chooseVictim_frame ht).2.2 hlen

theorem State.readsQueue_of_susp {s : State} {f : Nat} (h : (s.func f).susp = true) (q : Nat) : s.readsQueue f q = false := by
  simp [State.readsQueue, h]

theorem State.coreOpen_of_susp {s : State} {f : Nat} (h : (s.func f).susp = true) (c : Nat) : s.coreOpen f c = false := by
  simp [State.coreOpen, h]

theorem suspend_accepted {s : State} (ha : s.accepts = true) {f : Nat} (hf : f < s.funcs.length) :
    ∃ t, exec (.suspend Config.pf f) s = .next t ∧ (t.func f).susp = true ∧ t.launches = s.launches ∧
      (∀ q, t.readsQueue f q = false) ∧ (∀ c, t.coreOpen f c = false) ∧
      (∀ b ∈ s.residentOf f, (s.block b).status = .resident → (s.block b).victim ≠ none → (t.block b).victim = (s.block b).victim ∧
        (t.block b).victimFor = s.suspendMark b) ∧
      ∀ b, s.residentOf f = [b] → (s.block b).status = .resident → (s.block b).victim = none →
        (s.saveSlot f b (s.recordUnits b)).isSome = true → (t.block b).victim = some (s.cycle (s.block b).core) := by
  obtain ⟨u, hu⟩ : ∃ u, u = s.modFunc f fun g => { g with susp := true } := ⟨_, rfl⟩
  have hx : exec (.suspend Config.pf f) s = .next ((s.residentOf f).foldl State.suspendBlock u).takeAll := by
    change execSuspend Config.pf f s = _
    rw [execSuspend, State.onlyPF_accepted ha, hu]
    rfl
  obtain ⟨frame, chosen⟩ := State.suspendBlocks_frame u (s.residentOf f)
  have hsusp : (u.func f).susp = true := by rw [hu, State.func_modFunc_self hf]
  have alone : ∀ b, s.residentOf f = [b] → (s.block b).status = .resident → (s.block b).victim = none →
      (s.saveSlot f b (s.recordUnits b)).isSome = true →
      (((s.residentOf f).foldl State.suspendBlock u).block b).victim = some (s.cycle (s.block b).core) := fun b hres hr hv hslot => by
    have hslot' : u.saveSlot f b (u.recordUnits b) = s.saveSlot f b (s.recordUnits b) := by
      have hsize : (u.func f).saveSize = (s.func f).saveSize := by rw [hu, State.func_modFunc_self hf]
      unfold State.saveSlot
      rw [hsize, hu]
      rfl
    have one := State.suspendBlock_alone (s := u) (f := f) (b := b) (by rw [hu]; exact hres) (by rw [hu]; exact hr) (by rw [hu]; exact hv)
      (hslot' ▸ hslot)
    rw [hres, List.foldl_cons, List.foldl_nil, one, hu]
    rfl
  have steady := State.Steady.takeAll ((s.residentOf f).foldl State.suspendBlock u)
  generalize (s.residentOf f).foldl State.suspendBlock u = v at *
  have susp : (v.takeAll.func f).susp = true := by
    have hv : v.func f = u.func f := by unfold State.func; rw [frame.funcs]
    exact (congrArg Func.susp (steady.func f)).trans ((congrArg Func.susp hv).trans hsusp)
  have victim := fun b => congrArg Block.victim (steady.block b)
  have mark := fun b => congrArg Block.victimFor (steady.block b)
  rw [hx]
  refine ⟨_, rfl, susp, ?_, State.readsQueue_of_susp susp, State.coreOpen_of_susp susp, fun b hb hr hv => ?_, fun b hres hr hv hslot => ?_⟩
  · rw [steady.launches, frame.launches, hu]
    rfl
  · obtain ⟨hvictim, hmark⟩ := chosen b (by rw [hu]; exact Option.isSome_iff_ne_none.mpr hv) (by rw [hu]; exact hr)
    refine ⟨(victim b).trans (hvictim.trans ?_), (mark b).trans ((hmark (.inl hb)).trans ?_)⟩ <;> rw [hu] <;> rfl
  · exact (victim b).trans (alone b hres hr hv hslot)

/-! ### The end of a suspension -/

theorem State.WavesOnly.retest (s : State) (i : Nat) : s.WavesOnly (s.retest i) := .modWave ..

/-- A block that is kept has no choice any more, and no other block changes. -/
theorem State.keepRunning_frame (s : State) (c : Nat) : s.BlocksOnly (s.keepRunning c) ∧
    ∀ b, (b ≠ c → (s.keepRunning c).block b = s.block b) ∧ ((s.block b).victim = none → ((s.keepRunning c).block b).victim = none) ∧
      (b = c → (s.block b).status = .resident → (s.block b).victimFor = s.suspendMark b →
        (s.launch (s.block b).launch).desc.cores = false → ((s.keepRunning c).block b).victim = none) := by
  have none_of_le : ∀ b, s.blocks.length ≤ b → (s.block b).victim = none := fun b hle => by
    rw [State.block, List.getD_eq_getElem?_getD, List.getElem?_eq_none hle]
    rfl
  unfold State.keepRunning
  dsimp only
  split
  · have cancelled := WavesOnly.cancel s c
    have kept := cancelled.trans (foldl_rel WavesOnly.refl WavesOnly.trans
      (fun s i => (WavesOnly.modWave s i fun w => { w with taken := false }).trans (WavesOnly.retest _ i)) (s.block c).waves (s.cancel c))
    have blocks := fun b => State.block_eq_of_blocks kept.1 b
    have gone : ((s.modBlock c fun b => { b with victim := none, save := none }).block c).victim = none := by
      by_cases hc : c < s.blocks.length
      · rw [State.block_modBlock_self hc]
      · rw [State.block_modBlock, if_neg fun h => hc h.2]
        exact none_of_le c (Nat.le_of_not_lt hc)
    refine ⟨(BlocksOnly.modBlock ..).trans kept.2, fun b => ⟨fun hb => ?_, fun hv => ?_, fun hb _ _ _ => ?_⟩⟩
    · exact (blocks b).trans (State.block_modBlock_ne hb _)
    · by_cases hb : b = c
      · subst hb
        exact (congrArg Block.victim (blocks b)).trans gone
      · exact (congrArg Block.victim ((blocks b).trans (State.block_modBlock_ne hb _))).trans hv
    · subst hb
      exact (congrArg Block.victim (blocks b)).trans gone
  · next hn =>
    refine ⟨.refl s, fun b => ⟨fun _ => rfl, id, fun hb hr hm hc => ?_⟩⟩
    subst hb
    cases hv : (s.block b).victim with
    | none => rfl
    | some v => exact absurd (by simp [hr, hv, hm, hc]) hn

theorem State.keepRunnings_frame (s : State) (l : List Nat) : s.BlocksOnly (l.foldl State.keepRunning s) ∧
    ∀ b, ((s.block b).victim = none → ((l.foldl State.keepRunning s).block b).victim = none) ∧
      (b ∈ l → (s.block b).status = .resident → (s.block b).victimFor = s.suspendMark b →
        (s.launch (s.block b).launch).desc.cores = false → ((l.foldl State.keepRunning s).block b).victim = none) := by
  induction l generalizing s with
  | nil => exact ⟨.refl s, fun b => ⟨id, nofun⟩⟩
  | cons c r ih =>
    obtain ⟨frame, step⟩ := State.keepRunning_frame s c
    obtain ⟨frame', rest⟩ := ih (s.keepRunning c)
    refine ⟨frame.trans frame', fun b => ⟨fun hv => (rest b).1 ((step b).2.1 hv), fun hm hr hfor hc => ?_⟩⟩
    by_cases hbc : b = c
    · exact (rest b).1 ((step b).2.2 hbc hr hfor hc)
    · have same := (step b).1 hbc
      refine (rest b).2 ((List.mem_cons.mp hm).resolve_left hbc) (same ▸ hr) ?_ ?_
      · rw [same, State.suspendMark_eq frame (congrArg Block.launch same), hfor]
      · rw [same, State.launch, frame.launches]
        exact hc

theorem unsuspend_accepted {s : State} (ha : s.accepts = true) {f : Nat} (hf : f < s.funcs.length) :
    ∃ t, exec (.unsuspend Config.pf f) s = .next t ∧ (t.func f).susp = false ∧ t.launches = s.launches ∧ t.mem = s.mem ∧
      ∀ b ∈ s.residentOf f, (s.block b).status = .resident → (s.block b).victimFor = s.suspendMark b →
        (s.launch (s.block b).launch).desc.cores = false → (t.block b).victim = none := by
  obtain ⟨u, hu⟩ : ∃ u, u = s.modFunc f fun g => { g with susp := false } := ⟨_, rfl⟩
  have hx : exec (.unsuspend Config.pf f) s = .next ((s.residentOf f).foldl State.keepRunning u) := by
    change execUnsuspend Config.pf f s = _
    rw [execUnsuspend, State.onlyPF_accepted ha, hu]
  obtain ⟨frame, kept⟩ := State.keepRunnings_frame u (s.residentOf f)
  rw [hx]
  refine ⟨_, rfl, ?_, frame.launches.trans (by rw [hu]; rfl), frame.mem.trans (by rw [hu]; rfl), fun b hb hr hm hc => ?_⟩
  · rw [State.func, frame.funcs, hu]
    exact congrArg Func.susp (State.func_modFunc_self hf _)
  · exact (kept b).2 hb (by rw [hu]; exact hr) (by rw [hu]; exact hm) (by rw [hu]; exact hc)

end Sys2Proof.Machine
end

section
/-! SUPPORT. Stores that leave a core (R168, R170, R174): what they leave alone, and what an invalidation of translations drains and flushes (R277). -/

namespace Sys2Proof.Machine

/-! ### Lines of a remote cache -/

/-- A remote cache holds a line once (R174). -/
def Tower.Tidy (t : Tower) : Prop := (t.remote.map fun x => x.line).Nodup

theorem lines_modifyFirst {p : RLine → Bool} {f : RLine → RLine} (hf : ∀ x, (f x).line = x.line) (l : List RLine) :
    (modifyFirst p f l).map (fun x => x.line) = l.map fun x => x.line := by
  induction l with
  | nil => rfl
  | cons x r ih =>
    unfold modifyFirst
    split
    · simp [hf]
    · simp [ih]

theorem lines_trimRemote (line : Nat) (l : List RLine) : (trimRemote line l).map (fun x => x.line) = l.map fun x => x.line := by
  unfold trimRemote trimEl
  split
  · rfl
  · rw [List.map_reverse, lines_modifyFirst (f := fun x => { x with mark := .dflt }) (fun _ => rfl), List.map_reverse, List.reverse_reverse]

theorem Tower.Tidy.putRline {t : Tower} (h : t.Tidy) (r : RLine) : (t.putRline r).Tidy := by
  unfold Tower.Tidy Tower.putRline
  rw [lines_trimRemote, List.map_cons]
  refine List.nodup_cons.mpr ⟨fun hm => ?_, List.Nodup.sublist (List.filter_sublist.map _) h⟩
  obtain ⟨x, hx, he⟩ := List.mem_map.mp hm
  simpa [he] using (List.mem_filter.mp hx).2

theorem Tower.Tidy.filter {t : Tower} (h : t.Tidy) (p : RLine → Bool) : Tower.Tidy { t with remote := t.remote.filter p } :=
  List.Nodup.sublist (List.filter_sublist.map _) h

theorem Tower.Tidy.map {t : Tower} (h : t.Tidy) {f : RLine → RLine} (hf : ∀ x, (f x).line = x.line) : Tower.Tidy { t with remote := t.remote.map f } := by
  unfold Tower.Tidy
  rw [List.map_map]
  exact (List.map_congr_left fun x _ => hf x) ▸ h

/-! ### Stores on their way -/

/-- The lines of a partition's write-combining buffer (R170). -/
def State.wcAt (s : State) (core part : Nat) : List WcLine := ((s.core core).parts.getD part default).wc

/-- Memory, waves, blocks and launches stay, of functions only counters change, no line enters a write-combining buffer, and the remote caches keep
each line once. -/
structure State.Flows (s t : State) : Prop where
  mem : t.mem = s.mem
  waves : t.waves = s.waves
  blocks : t.blocks = s.blocks
  launches : t.launches = s.launches
  funcs : t.funcs.map Func.unmetered = s.funcs.map Func.unmetered
  towers : t.towers.length = s.towers.length
  wc : ∀ c p x, x ∈ t.wcAt c p → x ∈ s.wcAt c p
  tidy : (∀ w ∈ s.towers, w.Tidy) → ∀ w ∈ t.towers, w.Tidy

theorem State.Flows.refl (s : State) : s.Flows s := ⟨rfl, rfl, rfl, rfl, rfl, rfl, fun _ _ _ h => h, fun h => h⟩

theorem State.Flows.trans {s t u : State} (h : s.Flows t) (k : t.Flows u) : s.Flows u :=
  ⟨k.mem.trans h.mem, k.waves.trans h.waves, k.blocks.trans h.blocks, k.launches.trans h.launches, k.funcs.trans h.funcs, k.towers.trans h.towers,
    fun c p x hx => h.wc c p x (k.wc c p x hx), fun ht => k.tidy (h.tidy ht)⟩

theorem State.Flows.modTower (s : State) (i : Nat) (f : Tower → Tower) (hf : ∀ t, t.Tidy → (f t).Tidy) : s.Flows (s.modTower i f) := by
  refine ⟨rfl, rfl, rfl, rfl, rfl, List.length_modify .., fun _ _ _ h => h, fun h w hw => ?_⟩
  rcases mem_modify hw with hw | ⟨v, hv, rfl⟩
  · exact h w hw
  · exact hf v (h v hv)

theorem State.Flows.send (s : State) (r : Req) : s.Flows (s.send r) := ⟨rfl, rfl, rfl, rfl, rfl, rfl, fun _ _ _ h => h, fun h => h⟩

theorem State.Flows.countEvict (s : State) (owner filler : Nat) : s.Flows (s.countEvict owner filler) := by
  obtain ⟨fs, is, ht, hf⟩ := Metered.count s owner (if owner = filler then 8 else 7) 1
  rw [State.countEvict, ht]
  exact ⟨rfl, rfl, rfl, rfl, hf, rfl, fun _ _ _ h => h, fun h => h⟩

theorem State.Flows.flushRemote (s : State) (t line : Nat) : s.Flows (s.flushRemote t line) := by
  unfold State.flushRemote
  split
  · exact .refl s
  · dsimp only
    split
    · exact .refl s
    · refine Flows.trans ?_ (.send _ _)
      exact .modTower s t _ fun w hw => hw.map fun x => by split <;> rfl

theorem State.Flows.makeRoom (s : State) (t f line : Nat) : s.Flows (s.makeRoom t f line) := by
  unfold State.makeRoom
  dsimp only
  split
  · exact .refl s
  · split
    · exact .refl s
    · refine Flows.trans ?_ (.countEvict ..)
      exact (Flows.flushRemote s t _).trans (.modTower _ t _ fun w hw => hw.filter _)

theorem State.Flows.remoteStore (s : State) (t : Nat) (r : Req) : s.Flows (s.remoteStore t r) := by
  unfold State.remoteStore
  dsimp only
  refine Flows.trans ?_ (.modTower _ t _ fun w hw => hw.putRline _)
  split
  · split
    · exact .refl s
    · exact .flushRemote ..
  · exact .makeRoom ..

theorem State.Flows.modCore (s : State) (i : Nat) (f : Core → Core) (hf : ∀ c p x, x ∈ ((f c).parts.getD p default).wc → x ∈ (c.parts.getD p default).wc) :
    s.Flows (s.modCore i f) := by
  refine ⟨rfl, rfl, rfl, rfl, rfl, rfl, fun c p x hx => ?_, fun h => h⟩
  unfold State.wcAt at hx ⊢
  rw [State.core_modCore] at hx
  split at hx
  · exact hf _ p x hx
  · exact hx

theorem State.Flows.forward (s : State) (core : Nat) (r : Req) (cb : List Nat) : s.Flows (s.forward core r cb) := by
  unfold State.forward State.storeL1
  dsimp only
  refine Flows.trans (.modCore s core (fun c => { c with l1 := c.l1.map fun l => l.stored (s.pair r.key) r cb }) fun _ _ _ h => h) ?_
  split
  · exact .send _ _
  · exact .remoteStore ..

/-- A line that drains leaves its buffer (R170). -/
theorem State.Flows.drainLine (s : State) (core part : Nat) (l : WcLine) :
    s.Flows (s.drainLine core part l) ∧ l ∉ (s.drainLine core part l).wcAt core part := by
  have parts : ∀ (c : Core) p x, x ∈ ((c.parts.modify part fun q => { q with wc := q.wc.filter fun y => y != l }).getD p default).wc →
      x ∈ (c.parts.getD p default).wc ∧ (p = part → x ≠ l) := fun c p x hx => by
    rw [getD_modify] at hx
    split at hx
    · obtain ⟨hm, hne⟩ := List.mem_filter.mp hx
      exact ⟨hm, fun _ => by simpa using hne⟩
    · next hn =>
      refine ⟨hx, fun hp => ?_⟩
      have hd : c.parts.getD p default = default := by
        rw [List.getD_eq_getElem?_getD, List.getElem?_eq_none (by omega)]
        rfl
      rw [hd] at hx
      cases hx
  unfold State.drainLine
  have left := Flows.modCore s core (fun c => { c with parts := c.parts.modify part fun q => { q with wc := q.wc.filter fun y => y != l } })
    fun c p x hx => (parts c p x hx).1
  have sent := Flows.forward (s.modPart core part fun q => { q with wc := q.wc.filter fun y => y != l }) core
    ⟨0, some l.wave, s.funcOf (s.wave l.wave), l.line, l.bytes.reverse, l.sf, l.key, l.mark, l.strong, .store, .shown (towerOf core) [l.wave]⟩ l.cb
  refine ⟨left.trans sent, fun hm => ?_⟩
  have hm := sent.wc core part l hm
  unfold State.wcAt State.modPart at hm
  rw [State.core_modCore] at hm
  split at hm
  · exact (parts _ part l hm).2 rfl rfl
  · next hn =>
    have hd : s.core core = default := by
      rw [State.core, List.getD_eq_getElem?_getD, List.getElem?_eq_none (by omega)]
      rfl
    rw [hd] at hm
    cases hm

theorem State.Flows.coreOf {s t : State} (h : s.Flows t) (w : Wave) : t.coreOf w = s.coreOf w := by
  unfold State.coreOf State.blockOf State.block
  rw [h.blocks]

/-- The lines of a wave's buffer that drain are gone (R170). -/
theorem State.Flows.drainLines (w : Wave) (ls : List WcLine) (s : State) :
    let t := ls.foldl (fun s l => s.drainLine (s.coreOf w) w.part l) s
    s.Flows t ∧ ∀ l ∈ ls, l ∉ t.wcAt (s.coreOf w) w.part := by
  induction ls generalizing s with
  | nil => exact ⟨.refl s, nofun⟩
  | cons l r ih =>
    obtain ⟨first, gone⟩ := Flows.drainLine s (s.coreOf w) w.part l
    obtain ⟨rest, others⟩ := ih (s.drainLine (s.coreOf w) w.part l)
    refine ⟨first.trans rest, fun x hx => ?_⟩
    rcases List.mem_cons.mp hx with rfl | hx
    · exact fun hm => gone (rest.wc _ _ x hm)
    · exact first.coreOf w ▸ others x hx

theorem State.Flows.drainWhere (s : State) (i : Nat) (p : WcLine → Bool) : s.Flows (s.drainWhere i p) ∧
    ∀ l ∈ (s.drainWhere i p).wcAt (s.coreOf (s.wave i)) (s.wave i).part, l.wave = i → p l = false := by
  obtain ⟨flows, gone⟩ := Flows.drainLines (s.wave i) ((s.partOf (s.wave i)).wc.filter fun l => l.wave == i && p l) s
  refine ⟨flows, fun l hl hw => ?_⟩
  cases hp : p l with
  | false => rfl
  | true => exact absurd hl (gone l (List.mem_filter.mpr ⟨flows.wc _ _ l hl, by simp [hw, hp]⟩))

/-- The lines of some waves drain: none of theirs that the condition meets is left. -/
theorem State.Flows.drainWaves (p : WcLine → Bool) (is : List Nat) (s : State) :
    s.Flows (is.foldl (fun s i => s.drainWhere i p) s) ∧ ∀ i ∈ is,
      ∀ l ∈ (is.foldl (fun s i => s.drainWhere i p) s).wcAt (s.coreOf (s.wave i)) (s.wave i).part, l.wave = i → p l = false := by
  induction is generalizing s with
  | nil => exact ⟨.refl s, nofun⟩
  | cons j r ih =>
    obtain ⟨first, gone⟩ := Flows.drainWhere s j p
    obtain ⟨rest, others⟩ := ih (s.drainWhere j p)
    refine ⟨first.trans rest, fun i hi l hl hw => ?_⟩
    rcases List.mem_cons.mp hi with rfl | hi
    · exact gone l (rest.wc _ _ l hl) hw
    · have hwave : (s.drainWhere j p).wave i = s.wave i := by unfold State.wave; rw [first.waves]
      exact others i hi l (by rw [hwave, first.coreOf]; exact hl) hw

/-! ### Dirty bytes that are flushed (R174, R277) -/

/-- Each line of a tower's remote cache has come from one of the same function whose dirty bytes it keeps or has flushed. -/
def State.Cleans (s t : State) : Prop :=
  ∀ n, ∀ x ∈ (t.tower n).remote, ∃ y ∈ (s.tower n).remote, y.line = x.line ∧ y.func = x.func ∧ (x.dirty = y.dirty ∨ x.dirty = [])

theorem State.Cleans.refl (s : State) : s.Cleans s := fun _ x hx => ⟨x, hx, rfl, rfl, .inl rfl⟩

theorem State.Cleans.trans {s t u : State} (h : s.Cleans t) (k : t.Cleans u) : s.Cleans u := fun n x hx => by
  obtain ⟨y, hy, hl, hf, hd⟩ := k n x hx
  obtain ⟨z, hz, hl', hf', hd'⟩ := h n y hy
  refine ⟨z, hz, hl'.trans hl, hf'.trans hf, ?_⟩
  rcases hd with hd | hd
  · exact hd'.imp hd.trans hd.trans
  · exact .inr hd

/-- A tower that keeps each line once holds no other line of the number of one that it holds. -/
theorem Tower.Tidy.eq_of_line {t : Tower} (h : t.Tidy) {x y : RLine} (hx : x ∈ t.remote) (hy : y ∈ t.remote) (he : x.line = y.line) : x = y := by
  unfold Tower.Tidy at h
  generalize t.remote = l at h hx hy
  induction l with
  | nil => cases hx
  | cons z r ih =>
    obtain ⟨hz, hr⟩ := List.nodup_cons.mp h
    rcases List.mem_cons.mp hx with hxz | hxr <;> rcases List.mem_cons.mp hy with hyz | hyr
    · exact hxz.trans hyz.symm
    · exact absurd (List.mem_map.mpr ⟨y, hyr, he.symm.trans (by rw [hxz])⟩) hz
    · exact absurd (List.mem_map.mpr ⟨x, hxr, he.trans (by rw [hyz])⟩) hz
    · exact ih hr hxr hyr

theorem State.tower_modTower' (s : State) (i j : Nat) (f : Tower → Tower) :
    (s.modTower i f).tower j = if i = j ∧ i < s.towers.length then f (s.tower j) else s.tower j := getD_modify ..

/-- A flush leaves no dirty byte of its line. -/
theorem State.Cleans.flushRemote {s : State} {n : Nat} (h : (s.tower n).Tidy) (line : Nat) : s.Cleans (s.flushRemote n line) ∧
    ∀ x ∈ ((s.flushRemote n line).tower n).remote, x.line = line → x.dirty = [] := by
  unfold State.flushRemote State.rline
  cases hf : (s.tower n).remote.find? fun r => r.line == line with
  | none =>
    refine ⟨.refl s, fun x hx hl => ?_⟩
    simpa [hl] using List.find?_eq_none.mp hf x hx
  | some y =>
    have hy := List.mem_of_find?_eq_some hf
    have hyl : y.line = line := by simpa using List.find?_some hf
    have hdirty : ∀ z : RLine, (if s.tick < y.filled + Config.remoteLease then y else { y with words := noWords }) = z → z.dirty = y.dirty := by
      intro z hz
      rw [← hz]
      split <;> rfl
    simp only [Option.map_some]
    generalize hz : (if s.tick < y.filled + Config.remoteLease then y else { y with words := noWords }) = z
    cases hd : y.dirty with
    | nil =>
      have hzd : z.dirty.isEmpty = true := by rw [hdirty z hz, hd]; rfl
      rw [if_pos hzd]
      exact ⟨.refl s, fun x hx hl => (h.eq_of_line hx hy (hl.trans hyl.symm)).symm ▸ hd⟩
    | cons d ds =>
      have hzd : ¬ z.dirty.isEmpty = true := by rw [hdirty z hz, hd]; nofun
      rw [if_neg hzd]
      have tower : ∀ k, ((s.modTower n fun w => { w with
          remote := w.remote.map fun x => if x.line = line then { x with dirty := [], strong := [] } else x }).tower k).remote =
          if n = k ∧ n < s.towers.length then (s.tower k).remote.map fun x => if x.line = line then { x with dirty := [], strong := [] } else x
          else (s.tower k).remote := fun k => by
        rw [State.tower_modTower']
        split <;> rfl
      refine ⟨fun k x hx => ?_, fun x hx hl => ?_⟩
      · have hx := tower k ▸ hx
        split at hx
        · obtain ⟨v, hv, rfl⟩ := List.mem_map.mp hx
          refine ⟨v, hv, ?_⟩
          split
          · exact ⟨rfl, rfl, .inr rfl⟩
          · exact ⟨rfl, rfl, .inl rfl⟩
        · exact ⟨x, hx, rfl, rfl, .inl rfl⟩
      · have hn : n < s.towers.length := by
          refine Nat.lt_of_not_le fun hle => ?_
          rw [State.tower, List.getD_eq_getElem?_getD, List.getElem?_eq_none hle] at hy
          cases hy
        have hx := tower n ▸ hx
        rw [if_pos ⟨rfl, hn⟩] at hx
        obtain ⟨v, hv, rfl⟩ := List.mem_map.mp hx
        split
        · rfl
        · next hne =>
          rw [if_neg hne] at hl
          exact absurd hl hne

/-- The lines of a tower that are flushed have no dirty byte. -/
theorem State.Cleans.flushLines (n : Nat) (ls : List RLine) {s : State} (h : ∀ w ∈ s.towers, w.Tidy) :
    let t := ls.foldl (fun s r => s.flushRemote n r.line) s
    s.Flows t ∧ s.Cleans t ∧ ∀ r ∈ ls, ∀ x ∈ (t.tower n).remote, x.line = r.line → x.dirty = [] := by
  induction ls generalizing s with
  | nil => exact ⟨.refl s, .refl s, nofun⟩
  | cons r rest ih =>
    have tidy : (s.tower n).Tidy := by
      unfold State.tower
      rw [List.getD_eq_getElem?_getD]
      cases hn : s.towers[n]? with
      | none => exact List.nodup_nil
      | some w => exact h w (List.mem_of_getElem? hn)
    obtain ⟨first, clean⟩ := Cleans.flushRemote tidy r.line
    have flows := Flows.flushRemote s n r.line
    obtain ⟨flows', later, others⟩ := ih (flows.tidy h)
    refine ⟨flows.trans flows', first.trans later, fun q hq x hx hl => ?_⟩
    rcases List.mem_cons.mp hq with rfl | hq
    · obtain ⟨y, hy, hyl, -, hd⟩ := later n x hx
      have := clean y hy (hyl.trans hl)
      exact hd.elim (fun e => e.trans this) id
    · exact others q hq x hx hl

/-- No line of a function on some pages has dirty bytes in a tower. -/
def State.CleanOn (s : State) (f : Nat) (on : Nat → Bool) (n : Nat) : Prop :=
  ∀ x ∈ (s.tower n).remote, x.func = f → on (x.line / 65536) = true → x.dirty = []

theorem State.CleanOn.mono {s t : State} {f : Nat} {on : Nat → Bool} {n : Nat} (h : s.CleanOn f on n) (k : s.Cleans t) : t.CleanOn f on n :=
  fun x hx hf ho => by
    obtain ⟨y, hy, hl, hf', hd⟩ := k n x hx
    exact hd.elim (fun e => e.trans (h y hy (hf'.trans hf) (hl ▸ ho))) id

/-- The towers whose lines of a function on some pages are flushed. -/
theorem State.Cleans.flushTowers (f : Nat) (on : Nat → Bool) (ns : List Nat) {s : State} (h : ∀ w ∈ s.towers, w.Tidy) :
    let t := ns.foldl (fun s t => ((s.tower t).remote.filter fun r => r.func == f && on (r.line / 65536)).foldl
      (fun s r => s.flushRemote t r.line) s) s
    s.Cleans t ∧ ∀ n ∈ ns, t.CleanOn f on n := by
  induction ns generalizing s with
  | nil => exact ⟨.refl s, nofun⟩
  | cons n r ih =>
    obtain ⟨flows, first, clean⟩ := Cleans.flushLines n ((s.tower n).remote.filter fun r => r.func == f && on (r.line / 65536)) h
    obtain ⟨later, others⟩ := ih (flows.tidy h)
    refine ⟨first.trans later, fun k hk => ?_⟩
    rcases List.mem_cons.mp hk with rfl | hk
    · refine State.CleanOn.mono (fun x hx hf ho => ?_) later
      obtain ⟨y, hy, hl, hf', -⟩ := first k x hx
      exact clean y (List.mem_filter.mpr ⟨hy, by simp [hf', hf, hl, ho]⟩) x hx hl.symm
    · exact others k hk

/-- Flushes flow, whether or not a remote cache holds a line once. -/
theorem State.Flows.flushTowers (f : Nat) (on : Nat → Bool) (ns : List Nat) (s : State) :
    s.Flows (ns.foldl (fun s t => ((s.tower t).remote.filter fun r => r.func == f && on (r.line / 65536)).foldl
      (fun s r => s.flushRemote t r.line) s) s) :=
  foldl_rel Flows.refl Flows.trans (fun s t => foldl_rel Flows.refl Flows.trans (fun s (r : RLine) => Flows.flushRemote s t r.line) _ s) ns s

/-! ### The request of an invalidation (R277) -/

theorem State.wcByte_eq_none {s : State} {i a : Nat}
    (h : ∀ l ∈ s.wcAt (s.coreOf (s.wave i)) (s.wave i).part, l.wave = i → l.line ≠ lineOf a) : s.wcByte i a = none := by
  have hf : (s.partOf (s.wave i)).wc.find? (fun l => l.wave == i && l.line == lineOf a) = none :=
    List.find?_eq_none.mpr fun l hl hc => by
      obtain ⟨hw, hline⟩ : l.wave = i ∧ l.line = lineOf a := by simpa using hc
      exact h l hl hw hline
  rw [State.wcByte, hf]

/-- The stores of a function on some pages are sent on their way. -/
theorem State.pushPages_sends (s : State) (f : Nat) (on : Nat → Bool) : s.Flows (s.pushPages f on) ∧
    (∀ i a, i < s.waves.length → (s.wave i).ended = false → s.funcOf (s.wave i) = f → on (a / 65536) = true → (s.pushPages f on).wcByte i a = none) ∧
    ((∀ w ∈ s.towers, w.Tidy) → ∀ w ∈ (s.pushPages f on).towers, ∀ x ∈ w.remote, x.func = f → on (x.line / 65536) = true → x.dirty = []) := by
  obtain ⟨drained, gone⟩ := Flows.drainWaves (fun l => on (l.line / 65536))
    ((List.range s.waves.length).filter fun wi => !(s.wave wi).ended && s.funcOf (s.wave wi) == f) s
  unfold State.pushPages
  dsimp only
  generalize ((List.range s.waves.length).filter fun wi => !(s.wave wi).ended && s.funcOf (s.wave wi) == f).foldl
    (fun s wi => s.drainWhere wi fun l => on (l.line / 65536)) s = u at drained gone
  have flushed := Flows.flushTowers f on (List.range u.towers.length) u
  have flows := drained.trans flushed
  refine ⟨flows, fun i a hi he hf ho => ?_, fun ht w hw x hx hxf hxo => ?_⟩
  · have hwave : ∀ {t : State}, s.Flows t → t.wave i = s.wave i := fun h => by unfold State.wave; rw [h.waves]
    refine State.wcByte_eq_none fun l hl hw hline => ?_
    rw [hwave flows, flows.coreOf] at hl
    have hoff := gone i (List.mem_filter.mpr ⟨List.mem_range.mpr hi, by simp [he, hf]⟩) l (flushed.wc _ _ l hl) hw
    rw [hline, show lineOf a / 65536 = a / 65536 by unfold lineOf; omega, ho] at hoff
    cases hoff
  · obtain ⟨n, hn⟩ := List.mem_iff_getElem?.mp hw
    have hlen : n < u.towers.length := by
      have := (List.getElem?_eq_some_iff.mp hn).1
      rwa [flushed.towers] at this
    obtain ⟨-, clean⟩ := Cleans.flushTowers f on (List.range u.towers.length) (drained.tidy ht)
    refine clean n (List.mem_range.mpr hlen) x ?_ hxf hxo
    rw [State.tower, List.getD_eq_getElem?_getD, hn]
    exact hx

theorem translationInvalidate_accepted {s : State} (ha : s.accepts = true) {f : Nat} (hf : f < s.funcs.length) (hb : (s.func f).invBusy = false)
    {v : Word64} (hg : v.getLsbD 0 = true) :
    let u := s.modFunc f fun g => { g with invBusy := true, invAll := v.getLsbD 1, invPage := v.toNat / 65536 % 2 ^ 36 }
    let on := fun page => v.getLsbD 1 = true ∨ page ∈ u.invPages f
    ∃ t, exec (.translationInvalidate f v) s = .next t ∧ t.mem = s.mem ∧ (t.func f).invBusy = true ∧ (t.func f).invAll = v.getLsbD 1 ∧
      (t.func f).invPage = v.toNat / 65536 % 2 ^ 36 ∧
      (∀ i a, i < s.waves.length → (s.wave i).ended = false → s.funcOf (s.wave i) = f → on (a / 65536) → t.wcByte i a = none) ∧
      ((∀ w ∈ s.towers, (w.remote.map fun x => x.line).Nodup) → ∀ w ∈ t.towers, ∀ x ∈ w.remote, x.func = f → on (x.line / 65536) → x.dirty = []) := by
  dsimp only
  obtain ⟨u, hu⟩ : ∃ u, u = s.modFunc f fun g => { g with invBusy := true, invAll := v.getLsbD 1, invPage := v.toNat / 65536 % 2 ^ 36 } := ⟨_, rfl⟩
  rw [← hu]
  have hfield : fieldOf v 16 36 = v.toNat / 65536 % 2 ^ 36 := rfl
  have hfunc : u.func f = { s.func f with invBusy := true, invAll := v.getLsbD 1, invPage := v.toNat / 65536 % 2 ^ 36 } := by
    rw [hu]; exact State.func_modFunc_self hf _
  have hon : ∀ page, (u.func f).invOn (u.invPages f) page = true ↔ v.getLsbD 1 = true ∨ page ∈ u.invPages f := fun page => by
    rw [hfunc]
    simp [Func.invOn]
  obtain ⟨flows, drained, flushed⟩ := State.pushPages_sends u f ((u.func f).invOn (u.invPages f))
  have hx : exec (.translationInvalidate f v) s = .next ((u.pushPages f ((u.func f).invOn (u.invPages f))).modFunc f fun g => { g with
      invMark := ⟨(u.pushPages f ((u.func f).invOn (u.invPages f))).nextReq, (u.pushPages f ((u.func f).invOn (u.invPages f))).nextOp,
        (u.pushPages f ((u.func f).invOn (u.invPages f))).tick, (u.pushPages f ((u.func f).invOn (u.invPages f))).dieCycles, u.invPages f,
        (u.pushPages f ((u.func f).invOn (u.invPages f))).ordersOn f ((u.func f).invOn (u.invPages f)),
        (u.pushPages f ((u.func f).invOn (u.invPages f))).waitsOn f ((u.func f).invOn (u.invPages f))⟩ }) := by
    change execTranslationInvalidate f v s = _
    simp only [execTranslationInvalidate, hb, hg, ha, Bool.not_true, Bool.or_self, Bool.false_eq_true, if_false, State.done, hfield, ← hu]
  rw [hx]
  generalize u.pushPages f ((u.func f).invOn (u.invPages f)) = t at flows drained flushed
  have hlen : f < t.funcs.length := by
    have := congrArg List.length flows.funcs
    simp only [List.length_map] at this
    rw [this, hu]
    simpa [State.modFunc] using hf
  have hkept : (t.func f).unmetered = (u.func f).unmetered := getD_congr_map flows.funcs f default
  have hfields : (t.func f).invBusy = true ∧ (t.func f).invAll = v.getLsbD 1 ∧ (t.func f).invPage = v.toNat / 65536 % 2 ^ 36 := by
    rw [hfunc] at hkept
    exact ⟨congrArg Func.invBusy hkept, congrArg Func.invAll hkept, congrArg Func.invPage hkept⟩
  refine ⟨_, rfl, flows.mem.trans (by rw [hu]; rfl), ?_, ?_, ?_, fun i a hi he hw ho => ?_, fun ht w hw x hxm hxf ho => ?_⟩
  · rw [State.func_modFunc_self hlen]; exact hfields.1
  · rw [State.func_modFunc_self hlen]; exact hfields.2.1
  · rw [State.func_modFunc_self hlen]; exact hfields.2.2
  · exact drained i a (by rw [hu]; exact hi) (by rw [hu]; exact he) (by rw [hu]; exact hw) ((hon _).mpr ho)
  · exact flushed (by rw [hu]; exact ht) w hw x hxm hxf ((hon _).mpr ho)

end Sys2Proof.Machine
end

section
/-! SUPPORT. What O51 says of a report that is read through an empty slot, and that the rest of it holds. -/

namespace Sys2Proof.Machine

/-- A machine in which VF 0, with an empty slot, is to write its report at address 0, whose block stands under a key. -/
def sealedReport (w : List Word64) : State :=
  { State.reset.modFunc 0 fun g => { g with attBusy := true, attAddr := 0, attStart := 0, memBase := 0, memSize := 16 } with seals := [(0, w)] }

/-- The header of that report (R280). -/
def reportHeader : List Byte := [1, 0, 0, 0, 0, 0, 0, 0, 0, 0, 0, 0, 0, 0, 0, 0]

theorem reset_inv : State.reset.Inv where
  memory := ⟨List.Pairwise.nil, fun _ h => nomatch h⟩
  dies := List.length_replicate
  functions := List.length_replicate
  cores := List.length_replicate
  towers := List.length_replicate
  waves := fun _ h => nomatch h
  blocks := fun _ h => nomatch h
  launches := fun _ h => nomatch h

theorem sealedReport_inv (w : List Word64) : (sealedReport w).Inv :=
  (reset_inv.modFunc 0 fun g => { g with attBusy := true, attAddr := 0, attStart := 0, memBase := 0, memSize := 16 }).of_fields
    rfl rfl rfl rfl rfl rfl rfl rfl

theorem length_fixBytes (n : Nat) (l : List Byte) : (fixBytes n l).length = n := by
  unfold fixBytes
  rw [List.length_take, List.length_append, List.length_replicate]
  omega

theorem sealedReport_func (w : List Word64) : (sealedReport w).func 0 =
    { State.reset.func 0 with attBusy := true, attAddr := 0, attStart := 0, memBase := 0, memSize := 16 } := rfl

/-- The report begins with its header, and it fits in the memory of the VF. -/
theorem sealedReport_attestation (w : List Word64) : ∃ r, (sealedReport w).attestation 0 = reportHeader ++ r ∧ r.length = 160 := by
  have hbody : (sealedReport w).reportBody 0 = (natBytes 1 4 ++ natBytes 0 4 ++ natBytes 0 4 ++ natBytes 0 4) ++
      (List.replicate 32 0 ++ fixBytes 32 (Config.firmwareDigest (sealedReport w).fwImage) ++ fixBytes 32 Config.certDigest) := by
    have hatt : ((sealedReport w).attested 0).1 = [] := rfl
    have hattn : ((sealedReport w).func 0).attn.flatMap (fun x => natBytes x.toNat 8) = List.replicate 32 0 := rfl
    have hstart : ((sealedReport w).func 0).attStart = 0 := rfl
    have hcode : funcCode 0 = 0 := by decide
    simp only [State.reportBody, hatt, hattn, hstart, hcode, List.length_nil, List.flatMap_nil, List.append_nil, List.append_assoc]
  refine ⟨List.replicate 32 0 ++ fixBytes 32 (Config.firmwareDigest (sealedReport w).fwImage) ++ fixBytes 32 Config.certDigest ++
    fixBytes 64 (Config.sm2 (fixBytes 32 (Config.sm3 ((sealedReport w).reportBody 0)))), ?_, ?_⟩
  · have hheader : natBytes 1 4 ++ natBytes 0 4 ++ natBytes 0 4 ++ natBytes 0 4 = reportHeader := by decide
    rw [State.attestation, hbody, hheader, List.append_assoc]
  · simp only [List.length_append, List.length_replicate, length_fixBytes]

theorem sealedReport_clear (w : List Word64) : (sealedReport w).Clear where
  reqs := rfl
  pins c hc := by rw [List.eq_of_mem_replicate (show c ∈ List.replicate 192 Core.reset from hc)]; rfl
  free t ht := by rw [List.eq_of_mem_replicate (show t ∈ List.replicate 4 Tower.reset from ht)]; rfl

end Sys2Proof.Machine

open Sys2Proof Sys2Proof.Machine

/-- O51 asks for a value of the opaque `Config.throughKey`: its clause on attestation reads a report through a slot that may be empty, at a block that
stands under a key. -/
theorem throughKey_of_functionCommands (h : Obligations.FunctionCommands) (w : List Word64) : Config.throughKey w [] 0 reportHeader 0 = 1 := by
  have hf : 0 < (sealedReport w).funcs.length := by rw [(sealedReport_inv w).functions]; decide
  obtain ⟨-, -, -, -, -, -, attest, -⟩ := h (sealedReport w) 0 (sealedReport_inv w) hf
  obtain ⟨r, hatt, hr⟩ := sealedReport_attestation w
  have hlen : ((sealedReport w).attestation 0).length = 176 := by rw [hatt, List.length_append, hr]; rfl
  have hpair : (sealedReport w).pair 0 = none := rfl
  have haddr : ((sealedReport w).func 0).attAddr * 4096 = 0 := by rw [show ((sealedReport w).func 0).attAddr = 0 from rfl]
  have own : (sealedReport w).owns 0 (((sealedReport w).func 0).attAddr * 4096) ((sealedReport w).attestation 0).length = true := by
    rw [hlen, haddr]; simp [State.owns, sealedReport_func]
  have unverified : (sealedReport w).meetsVerified (((sealedReport w).func 0).attAddr * 4096) ((sealedReport w).attestation 0).length = false := rfl
  have fits : ((sealedReport w).func 0).attAddr * 4096 + ((sealedReport w).attestation 0).length ≤ Config.memoryBytes := by
    rw [hlen, haddr]; unfold Config.memoryBytes; omega
  have clear := sealedReport_clear w
  have remote : ∀ t ∈ (sealedReport w).towers, t.remote = [] := fun t ht => by
    rw [List.eq_of_mem_replicate (show t ∈ List.replicate 4 Tower.reset from ht)]; rfl
  obtain ⟨t, hx, -, -, reads⟩ := attest rfl rfl own unverified fits ⟨clear.reqs, clear.pins, remote⟩ clear.free
  obtain ⟨u, hy, -, -, keys, seals, written⟩ := attestationComplete_sends hf rfl rfl own unverified fits clear (hpair ▸ KeyReader.peek_keyless 0)
  obtain rfl : t = u := by rw [hx] at hy; exact Host.Outcome.next.inj hy
  have first : ∀ k, k < 16 → ((sealedReport w).attestation 0).getD k 0 = reportHeader.getD k 0 := fun k hk => by
    rw [hatt, List.getD_eq_getElem?_getD, List.getElem?_append_left hk, List.getD_eq_getElem?_getD]
  have block : bytesAt t.peek 0 16 = reportHeader := by
    have : bytesAt t.peek 0 reportHeader.length = reportHeader := bytesAt_of_placeBytes fun b hb => by
      obtain ⟨k, hk⟩ := List.mem_iff_getElem?.mp hb
      rw [placeBytes_getElem?] at hk
      obtain ⟨x, hx, rfl⟩ := Option.map_eq_some_iff.mp hk
      have hlt : k < 16 := (List.getElem?_eq_some_iff.mp hx).1
      have := written k (by rw [hlen]; omega)
      rw [haddr, first k hlt, List.getD_eq_getElem?_getD, hx] at this
      exact this
    exact this
  have hseal : sealOf t.seals 0 = some w := by rw [seals hpair]; rfl
  have hempty : t.pair 0 = none := by unfold State.pair; rw [keys]; rfl
  have hread := reads 0 (by rw [hlen]; decide)
  rw [haddr, first 0 (by decide), State.peekBy_of_empty hempty hseal, block] at hread
  exact hread

/-- O51 cannot be settled as it stands: all that it says holds but for a report that is read through an empty slot, and that holds where the opaque
`Config.throughKey` gives back what was written (`throughKey_of_functionCommands` says that it asks for such a value). -/
theorem functionCommands_of_keylessPlain (hk : KeylessPlain) : Obligations.FunctionCommands := by
  unfold Obligations.FunctionCommands
  intro s f _ hf
  refine ⟨fun v => ⟨fun hb ha => verify_accepted ha hb v, fun h => verify_ignored h v⟩,
    fun hb => ⟨fun ho hv hq => verifyComplete_waits hb rfl ho hv hq, fun hw => verifyComplete_answers hb rfl hf hw⟩,
    fun v hb ha => verifyRelease_accepted ha hf hb rfl, fun key hc => keyAsk_accepted hc key, fun load key hc hl => keyCommandComplete_answers hc hl,
    fun v hb ha => attestationRequest_accepted ha hb v, ?_, fun hb ho => attestationComplete_sent hb ho,
    fun v hb hg ha => translationInvalidate_accepted ha hf hb hg, fun hb => invalidateComplete_answers hf hb,
    fun j v ha => ⟨fcoreWrite_taken ha, fcoreWrite_free ha⟩, fun ha => suspend_accepted ha hf, fun ha => unsuspend_accepted ha hf,
    fun v ha => limits_written ha f v, fun reg v ha => registerWrite_holds ha hf reg v, fun reg v hp ha => registerWrite_own ha hp reg v,
    fun b reg v hb hp => registerWrite_ignored (.inr ⟨hb, hp⟩) reg v, fun ha b j reg v x => commands_ignored ha f b j reg v x,
    s.accepts_iff, s.presents_iff f⟩
  intro _ _ hb ho own unverified ha still free
  have clear : s.Clear := ⟨still.requests, still.pins, free⟩
  have hrd : KeyReader (s.pair f) f fun s => s.peekBy f := by
    cases s.pair f with
    | some p => exact .peekBy_loaded p f
    | none => exact .peekBy_keyless hk f
  obtain ⟨t, hx, busy, more, -, -, reads⟩ := attestationComplete_sends hf hb ho own unverified ha clear hrd
  exact ⟨t, hx, busy, more, reads⟩
end
